-- ==== Sys2Proof/Word.lean ====
section
/-! DEFINITION. Word types, byte lists and the sparse table that registers repeated by an index are kept in. -/

namespace Sys2Proof

abbrev W8 := BitVec 8
abbrev W16 := BitVec 16
abbrev W32 := BitVec 32
abbrev W64 := BitVec 64

/-- Table by a numeric index, kept with rising indices; an index not listed holds the reader's default. -/
abbrev Tbl (α : Type) := List (Nat × α)

/-- The entry at index k, if there is one. -/
def Tbl.get? {α : Type} : Tbl α → Nat → Option α
  | [], _ => none
  | (j, v) :: t, k => if j = k then some v else Tbl.get? t k

/-- The entry at index k, or d. -/
def Tbl.getD {α : Type} (t : Tbl α) (k : Nat) (d : α) : α := (Tbl.get? t k).getD d

/-- Writes the entry at index k. -/
def Tbl.set {α : Type} : Tbl α → Nat → α → Tbl α
  | [], k, v => [(k, v)]
  | (j, u) :: t, k, v =>
    if j = k then (k, v) :: t
    else if k < j then (k, v) :: (j, u) :: t
    else (j, u) :: Tbl.set t k v

/-- Removes the entry at index k. -/
def Tbl.del {α : Type} : Tbl α → Nat → Tbl α
  | [], _ => []
  | (j, u) :: t, k => if j = k then t else (j, u) :: Tbl.del t k

/-- Applies f to the entry at index k, if there is one. -/
def Tbl.upd {α : Type} (t : Tbl α) (k : Nat) (f : α → α) : Tbl α :=
  match Tbl.get? t k with
  | some v => Tbl.set t k (f v)
  | none => t

/-- Applies f to every entry. -/
def Tbl.mapV {α : Type} (t : Tbl α) (f : Nat → α → α) : Tbl α := List.map (fun kv => (kv.1, f kv.1 kv.2)) t

/-- One bit as a word of width n. -/
def bit1 (n : Nat) (b : Bool) : BitVec n := if b then 1#n else 0#n

/-- A natural number cut to a field of `len` bits and moved to bit `lo` of a 64-bit word. -/
def fld (lo len : Nat) (v : Nat) : W64 := BitVec.ofNat 64 ((v % 2 ^ len) <<< lo)

/-- Bits lo to lo + len - 1 of a word, as a number. -/
def bits {w : Nat} (x : BitVec w) (lo len : Nat) : Nat := (x.toNat >>> lo) % 2 ^ len

/-- Saturating increment of a counter that stops at `top` (00 R7 counters marked saturating). -/
def satAdd (top x n : Nat) : Nat := min top (x + n)

/-- Wrapping addition of a counter of `len` bits. -/
def wrapAdd (len x n : Nat) : Nat := (x + n) % 2 ^ len

/-- Ceiling of a quotient. -/
def ceilDiv (a b : Nat) : Nat := (a + b - 1) / b

end Sys2Proof
end

