-- ==== Sys2Proof/Syntax.lean ====
section
/-! DEFINITION. The commands of the block: one constructor of Instr for each row of spec/opcode_table.json, with
the row's operands. -/

namespace Sys2Proof

/-- Where a plait stands: tile, physical cluster, plait scheduler, slot (02 Table 2-7). -/
structure PlaitRef where
  tile : Nat
  cluster : Nat
  sched : Nat
  slot : Nat
  deriving DecidableEq, Repr

/-- The fields of an instruction word but for OP, and the extension word (03 Table 3-1). -/
structure Enc where
  x : Bool
  d : W8
  a : W8
  b : W8
  c : W8
  md : W8
  guard : BitVec 5
  hd : Bool
  ha : Bool
  hb : Bool
  hc : Bool
  aux : BitVec 7
  ext : W64
  deriving DecidableEq, Repr

/-- A matrix array of a cluster (04 R136). -/
structure ArrayRef where
  tile : Nat
  cluster : Nat
  arr : Nat
  deriving DecidableEq, Repr

/-- A vector-engine slice of a cluster (06 R205). -/
structure SliceRef where
  tile : Nat
  cluster : Nat
  slice : Nat
  deriving DecidableEq, Repr

/-- A packet: the fields of its header flit, the inline data and the data flits' bytes (11 Table 11-2). -/
structure Pkt where
  ty : Nat
  flags : W8
  dest : W16
  src : W16
  hops : Nat
  tag : W32
  args : BitVec 128
  inl : List W8
  data : List W8
  deriving DecidableEq, Repr

/-- An error a scrub pass meets, at a 64-byte quarter of the stack (08 R294 to R297). -/
structure ScrubErr where
  quarter : Nat
  die : Nat
  bank : Nat
  row : Nat
  uncorrectable : Bool
  deriving DecidableEq, Repr

/-- An error that has struck stored bits and that no reader has found yet: beyond correction in a word of local memory, of a register,
of a weight bank, of an accumulator buffer, of a drain staging buffer (02 R90, 04 R139, 06 R237), or in a DRAM quarter (08 R294, R515). -/
inductive Upset where
  | clm (tile cluster word : Nat)
  | reg (p : PlaitRef) (r strand : Nat)
  | weight (a : ArrayRef) (bank word : Nat)
  | acc (a : ArrayRef) (buf word : Nat)
  | staging (u : SliceRef) (word : Nat)
  | dram (tile sc : Nat) (e : ScrubErr)
  deriving DecidableEq, Repr

/-- Errors that the register files, the local memory and the array storage of clusters corrected since the last estimate,
by cluster key (12 R398, R424; 02 R90), and the errors that have struck since then: measured (log 19, log 98). -/
structure RiskCounts where
  corrected : List (Nat × Nat)
  struck : List Upset
  deriving DecidableEq, Repr

/-- What the power and thermal controller samples in one interval (13): measured (log 19). -/
structure PtcMeas where
  vinMv : Nat
  iinMa : Nat
  pinW : Nat
  psilW : Nat
  logicC : List Int
  hubC : Int
  inletC : Int
  outletC : Int
  logicW : List Nat
  stackW : List Nat
  hubUj : Nat
  deriving DecidableEq, Repr

/-- Findings of the self-test: failing clusters as (tile, cluster) and failing tiles (12, 14 R460). -/
structure SelfTest where
  clusters : List (Nat × Nat)
  tiles : List Nat
  deriving DecidableEq, Repr

/-- A status probe as the ROM responder receives it: its UDP port and its 16 bytes (14 R473). -/
structure ProbeDatagram where
  dstPort : Nat
  payload : List W8
  deriving DecidableEq, Repr

/-- A frame received by the management MAC, from its destination address to the end of its payload (15 R487). -/
structure MgmtFrame where
  bytes : List W8
  deriving DecidableEq, Repr

/-- An inbound PCIe request (15 R494). -/
structure PcieReq where
  addr : W64
  write : Bool
  len : Nat
  data : List W8
  deriving DecidableEq, Repr

/-- A load or store of a Narby core, or of the debug port by number 16: through a mapped object of a context, or at a local physical address
(`carveOut`): carve-out, PCIe aperture, CSR space (00 R4, R10; 01 R23, R24; 15 R482, R494, R501). -/
structure CsAccess where
  core : Nat
  carveOut : Bool
  ctx : Nat
  addr : W64
  write : Bool
  len : Nat
  data : List W8
  deriving DecidableEq, Repr

/-- The commands of the block, in the order of the table. -/
inductive Instr where
  | iadd (p : PlaitRef) (e : Enc)
  | isub (p : PlaitRef) (e : Enc)
  | imul (p : PlaitRef) (e : Enc)
  | imulh (p : PlaitRef) (e : Enc)
  | imad (p : PlaitRef) (e : Enc)
  | iand (p : PlaitRef) (e : Enc)
  | ior (p : PlaitRef) (e : Enc)
  | ixor (p : PlaitRef) (e : Enc)
  | shl (p : PlaitRef) (e : Enc)
  | shr (p : PlaitRef) (e : Enc)
  | sar (p : PlaitRef) (e : Enc)
  | imin (p : PlaitRef) (e : Enc)
  | imax (p : PlaitRef) (e : Enc)
  | icmp (p : PlaitRef) (e : Enc)
  | sel (p : PlaitRef) (e : Enc)
  | bitop (p : PlaitRef) (e : Enc)
  | fadd (p : PlaitRef) (e : Enc)
  | fsub (p : PlaitRef) (e : Enc)
  | fmul (p : PlaitRef) (e : Enc)
  | ffma (p : PlaitRef) (e : Enc)
  | fmin (p : PlaitRef) (e : Enc)
  | fmax (p : PlaitRef) (e : Enc)
  | fcmp (p : PlaitRef) (e : Enc)
  | fabsneg (p : PlaitRef) (e : Enc)
  | frcp (p : PlaitRef) (e : Enc)
  | fsqrt (p : PlaitRef) (e : Enc)
  | fexp2 (p : PlaitRef) (e : Enc)
  | flog2 (p : PlaitRef) (e : Enc)
  | fsin (p : PlaitRef) (e : Enc)
  | fcos (p : PlaitRef) (e : Enc)
  | cvt (p : PlaitRef) (e : Enc)
  | cvti (p : PlaitRef) (e : Enc)
  | rng (p : PlaitRef) (e : Enc)
  | plut (p : PlaitRef) (e : Enc)
  | p2r (p : PlaitRef) (e : Enc)
  | ld (p : PlaitRef) (e : Enc)
  | st (p : PlaitRef) (e : Enc)
  | atom (p : PlaitRef) (e : Enc)
  | shfl (p : PlaitRef) (e : Enc)
  | vote (p : PlaitRef) (e : Enc)
  | redux (p : PlaitRef) (e : Enc)
  | mxi (p : PlaitRef) (e : Enc)
  | mxg (p : PlaitRef) (e : Enc)
  | mxw (p : PlaitRef) (e : Enc)
  | mxr (p : PlaitRef) (e : Enc)
  | eci (p : PlaitRef) (e : Enc)
  | cpy (p : PlaitRef) (e : Enc)
  | bar (p : PlaitRef) (e : Enc)
  | mbar (p : PlaitRef) (e : Enc)
  | wait (p : PlaitRef) (e : Enc)
  | rgnEnter (p : PlaitRef) (e : Enc)
  | rgnExit (p : PlaitRef) (e : Enc)
  | bra (p : PlaitRef) (e : Enc)
  | brx (p : PlaitRef) (e : Enc)
  | call (p : PlaitRef) (e : Enc)
  | exit (p : PlaitRef) (e : Enc)
  | szt (p : PlaitRef) (e : Enc)
  | id (p : PlaitRef) (e : Enc)
  | rnd (p : PlaitRef) (e : Enc)
  | nop (p : PlaitRef) (e : Enc)
  | alloc (p : PlaitRef) (e : Enc)
  | allocatorAnswer (p : PlaitRef)
  | free (p : PlaitRef) (e : Enc)
  | clusterStopIssue (c : Nat)
  | workGroupStart (q : Nat) (i : Nat) (tile : Nat) (cluster : Nat)
  | plaitRetire (p : PlaitRef)
  | plaitStateSave (tile : Nat) (cluster : Nat)
  | plaitStateRestore (tile : Nat) (cluster : Nat)
  | cpyComplete (p : PlaitRef) (token : Nat)
  | matmul (a : ArrayRef)
  | loadw (a : ArrayRef)
  | drain (a : ArrayRef)
  | mxaWeightLoadStart (a : ArrayRef)
  | mxaWeightLoadEnd (a : ArrayRef)
  | mxaStreamStart (a : ArrayRef)
  | mxaStreamEnd (a : ArrayRef)
  | mxaLastResult (a : ArrayRef)
  | mxaDrainPassStart (a : ArrayRef)
  | mxaDrainPassEnd (a : ArrayRef)
  | mxaFragmentReadStart (a : ArrayRef)
  | mxaOpComplete (a : ArrayRef)
  | mxaPackingStop (a : ArrayRef)
  | shadowCompare (a : ArrayRef)
  | chainStart (u : SliceRef)
  | chainChannelsLoaded (u : SliceRef)
  | chainStepsEnd (u : SliceRef)
  | chainOutputPassEnd (u : SliceRef)
  | chainComplete (u : SliceRef)
  | fusedDrainPassStart (u : SliceRef)
  | fusedDrainPassEnd (u : SliceRef)
  | chMov (u : SliceRef)
  | chAdd (u : SliceRef)
  | chSub (u : SliceRef)
  | chMul (u : SliceRef)
  | chFma (u : SliceRef)
  | chMin (u : SliceRef)
  | chMax (u : SliceRef)
  | chAbsneg (u : SliceRef)
  | chRcp (u : SliceRef)
  | chSqrt (u : SliceRef)
  | chRsq (u : SliceRef)
  | chExp2 (u : SliceRef)
  | chLog2 (u : SliceRef)
  | chSin (u : SliceRef)
  | chCos (u : SliceRef)
  | chTanh (u : SliceRef)
  | chCmp (u : SliceRef)
  | chSel (u : SliceRef)
  | chCvt (u : SliceRef)
  | chRint (u : SliceRef)
  | chRng (u : SliceRef)
  | chDrop (u : SliceRef)
  | chPerm (u : SliceRef)
  | ctxCreate (port : Nat) (hi : BitVec 56)
  | ctxDestroy (port : Nat) (hi : BitVec 56)
  | ctxTeardownComplete (c : Nat)
  | qCreate (port : Nat) (hi : BitVec 56)
  | qDestroy (port : Nat) (hi : BitVec 56)
  | qReserve (port : Nat) (hi : BitVec 56)
  | qCommit (port : Nat) (hi : BitVec 56)
  | qResume (port : Nat) (hi : BitVec 56)
  | moCreate (port : Nat) (hi : BitVec 56)
  | moRetain (port : Nat) (hi : BitVec 56)
  | moRelease (port : Nat) (hi : BitVec 56)
  | moMap (port : Nat) (hi : BitVec 56)
  | moUnmap (port : Nat) (hi : BitVec 56)
  | moQuery (port : Nat) (hi : BitVec 56)
  | fCreate (port : Nat) (hi : BitVec 56)
  | fDestroy (port : Nat) (hi : BitVec 56)
  | fExport (port : Nat) (hi : BitVec 56)
  | fSignal (port : Nat) (hi : BitVec 56)
  | fQuery (port : Nat) (hi : BitVec 56)
  | abort (port : Nat) (hi : BitVec 56)
  | ack (c : Nat) (v : W64)
  | launch (q : Nat) (i : Nat)
  | update (q : Nat) (i : Nat)
  | copy (q : Nat) (i : Nat)
  | coll (q : Nat) (i : Nat)
  | sync (q : Nat) (i : Nat)
  | cmdLeaveQueued (q : Nat) (i : Nat)
  | cmdWaitSatisfied (q : Nat) (i : Nat)
  | cmdDispatch (q : Nat) (i : Nat)
  | updateComplete (q : Nat) (i : Nat)
  | roundTick (p : Nat)
  | roundMonitorCheck (p : Nat)
  | stretchApply (p : Nat)
  | overlayRequest (v : W64)
  | partitionDissolve (p : Nat)
  | partitionForm
  | migrationStart (p : Nat)
  | migrationComplete (p : Nat)
  | pageOutStart (p : Nat)
  | memReqRetry (tag : Nat)
  | scrubPass (tile : Nat) (sc : Nat) (errs : List ScrubErr)
  | rowRepairComplete (tile : Nat) (sc : Nat) (i : Nat)
  | dramBandEval (tile : Nat) (sc : Nat) (tempC : Int)
  | retrainWindowEnd (tile : Nat) (sc : Nat)
  | steeringWritebackDone (tile : Nat) (sc : Nat)
  | farArm (p : Nat) (j : Nat) (v : W64)
  | farDrain (p : Nat) (j : Nat) (v : W64)
  | lendArm (p : Nat) (j : Nat) (v : W64)
  | lendRelease (p : Nat) (j : Nat) (v : W64)
  | mempProbe (p : Nat) (v : W64)
  | registerWrite (off : Nat) (width : Nat) (v : W64)
  | frameRx (port : Nat) (frame : List W8) (uncorr : Bool)
  | hello (port : Nat) (k : Pkt)
  | linkState (port : Nat) (k : Pkt)
  | stretch (port : Nat) (k : Pkt)
  | probe (port : Nat) (k : Pkt)
  | probeAck (port : Nat) (k : Pkt)
  | laneChange (port : Nat) (k : Pkt)
  | mgmt (port : Nat) (k : Pkt)
  | readReq (port : Nat) (k : Pkt)
  | readResp (port : Nat) (k : Pkt)
  | writeReq (port : Nat) (k : Pkt)
  | writeAck (port : Nat) (k : Pkt)
  | lendReq (port : Nat) (k : Pkt)
  | lendAck (port : Nat) (k : Pkt)
  | join (port : Nat) (k : Pkt)
  | chunk (port : Nat) (k : Pkt)
  | chunkAck (port : Nat) (k : Pkt)
  | done (port : Nat) (k : Pkt)
  | withdraw (port : Nat) (k : Pkt)
  | whello (port : Nat) (k : Pkt)
  | snapReq (port : Nat) (k : Pkt)
  | snapAt (port : Nat) (k : Pkt)
  | snapLate (port : Nat) (k : Pkt)
  | snapDrainStart (p : Nat)
  | ship (port : Nat) (k : Pkt)
  | shipAck (port : Nat) (k : Pkt)
  | snapDone (port : Nat) (k : Pkt)
  | snapCommit (port : Nat) (k : Pkt)
  | snapAbort (port : Nat) (k : Pkt)
  | logData (port : Nat) (k : Pkt)
  | logAck (port : Nat) (k : Pkt)
  | logFetch (port : Nat) (k : Pkt)
  | rebuildPart (port : Nat) (k : Pkt)
  | journal (port : Nat) (k : Pkt)
  | helloTimer (port : Nat)
  | linkStateTimer
  | routeRecompute
  | probeTimer
  | probeTimeout (m : Nat)
  | collChunkTimeout (g : Nat)
  | collJoinTimeout (g : Nat)
  | laneLockLoss (port : Nat) (lane : Nat)
  | laneThreshCheck (port : Nat) (counts : List Nat)
  | retrain (port : Nat) (v : W64)
  | laneRetrainDone (port : Nat) (lane : Nat)
  | portEnable (port : Nat) (v : W64)
  | portTrained (port : Nat) (lanes : BitVec 9)
  | portTrainTimeout (port : Nat)
  | controlWordTimeout (port : Nat)
  | portDownRetry (port : Nat)
  | fabricTimeLock
  | fabricCtrlWrite (v : W64)
  | groupArm (g : Nat) (v : W64)
  | groupRelease (g : Nat) (v : W64)
  | rejoin (v : W64)
  | riskEstimate (counts : RiskCounts)
  | walingArm (p : Nat) (v : W64)
  | walingRelease (p : Nat) (v : W64)
  | subst (p : Nat) (v : W64)
  | rebuildGo (p : Nat) (v : W64)
  | rebuildReplay (p : Nat)
  | joined (p : Nat) (v : W64)
  | swap (tile : Nat) (v : W64)
  | ptcInterval (m : PtcMeas)
  | droopDetect (tile : Nat) (cluster : Nat) (mv : Nat)
  | droopRelax (tile : Nat) (cluster : Nat)
  | criticalShutdown (onTile : Nat) (tempC : Int)
  | inputUndervoltage (mv : Nat) (us : Nat)
  | inputOvervoltage (mv : Nat) (us : Nat)
  | ibcFail (ibc : Nat)
  | capWWrite (v : W64)
  | psTargetPs0 (v : W64)
  | psTargetPs1 (v : W64)
  | psTargetPs2 (v : W64)
  | psTargetPs3 (v : W64)
  | psEntryComplete
  | ps3Wake (addr : Nat)
  | powerUp
  | inPgDeassert
  | sysRstNLow (ns : Nat)
  | rstcCtrlSysrst (v : W64)
  | rstcCtrlCorerst (v : W64)
  | secWatchdogExpire
  | narbyWatchdogExpire
  | kick (v : W64)
  | pllLockLost (pll : Nat)
  | blockHoldWrite (v : W64)
  | blockRelease (blk : Nat)
  | fuseMapApply
  | optionBytesRead
  | bootRomStart
  | recoveryRetry
  | hoopPhyPower
  | hoopIdleRelease
  | pciePerstRelease
  | dramTrainingDone (fails : List Nat)
  | selfTestDone (fails : SelfTest)
  | statusProbe (probe : ProbeDatagram)
  | loadComponent (v : W64)
  | commitSvn (v : W64)
  | otpWrite (v : W64)
  | keyInstall (v : W64)
  | keyRevoke (v : W64)
  | flashImage (v : W64)
  | handover (v : W64)
  | handoverTimeout
  | secmNonceRead
  | getVersion (path : Nat) (req : List W8)
  | getCapabilities (path : Nat) (req : List W8)
  | negotiateAlgorithms (path : Nat) (req : List W8)
  | getDigests (path : Nat) (req : List W8)
  | getCertificate (path : Nat) (req : List W8)
  | challenge (path : Nat) (req : List W8)
  | getMeasurements (path : Nat) (req : List W8)
  | mgmtFrameRx (fr : MgmtFrame)
  | mctpPacket (pkt : List W8)
  | pollForPlatformEventMessage (req : List W8)
  | pcieInboundRequest (r : PcieReq)
  | pcieLinkDown
  | debugUnlock (token : List W8)
  | debugResetRequest (core : Bool)
  | regToPred (p : PlaitRef) (e : Enc)
  | undefinedEncoding (p : PlaitRef) (op : BitVec 7) (e : Enc)
  | copyComplete (q : Nat) (i : Nat)
  | controlSoftwareAccess (r : CsAccess)
  | sysRstNRelease
  | psExitComplete
  | pcieLinkUp (width : Nat) (speed : Nat)
  | mgmtLinkChange (up : Bool)
  | narbyOsRunning
  | mxaInitLoadEnd (a : ArrayRef)
  | unlockCapture
  | debugCoreHalt (core : Nat) (halt : Bool)
  deriving DecidableEq, Repr

end Sys2Proof
end

