-- ==== Sys2Proof/Config.lean ====
section
/-! DEFINITION. What one implementation fixes and the free values: constants with no body, so that no
proof can rest on a value the spec does not give. -/

namespace Sys2Proof.Config

/-- Fresh free values, one for each index of the model's own counter `clk.free` (log 10). -/
opaque free : Nat → W64

/-- Fresh free values of 256 bits: nonces (14 R468, 15 R499; log 10). -/
opaque free256 : Nat → BitVec 256

/-- Fresh keys of 512 bits from the security processor's random source (08 R301; log 27). -/
opaque free512 : Nat → BitVec 512

/-- AES-256-XTS by key and tweak, as the transpositions of 64-byte data units that it is made of: some permutation of the units, of which
nothing else is known here (08 R300; log 27). -/
opaque xtsSwaps : BitVec 512 → Nat → List (BitVec 512 × BitVec 512)

/-- Fresh free byte contents: banks and buffers left unspecified by 02 R91 (log 11). -/
opaque freeBytes : Nat → List Host.Cell

/-- The published-nowhere bits of the transcendental functions (06 R233), by function number:
0 RCP, 1 SQRT, 2 RSQ, 3 EXP2, 4 LOG2, 5 SIN, 6 COS, 7 TANH (log 9). -/
opaque transc : Nat → W32 → W32

/-- SHA-256 (14 R469, R470; log 12). -/
opaque sha256 : List W8 → BitVec 256

/-- RSASSA-PSS verification of a message with modulus, exponent and signature (14 R469; log 12). -/
opaque pssVerify : (modulus exponent message signature : List W8) → Bool

/-- RSASSA-PSS verification under the key of a given hash: authorisation blocks carry no modulus (14 R468; log 12). -/
opaque authVerify : (keyHash : BitVec 256) → (message signature : List W8) → Bool

/-- RSASSA-PSS signature by the module's identity key (14 R474, R475; log 12). -/
opaque identitySign : List W8 → List W8

/-- The boot ROM's fixed digest (14 R470; log 12). -/
opaque romDigest : BitVec 256

/-- A 64-byte entry of the flash directory: component type, flash offset and length, at places the spec does not give (14 The boot chain;
log 64). -/
opaque dirEntry : List W8 → Nat × Nat × Nat

/-- The layouts that DSP0274 and the SMBus binding give and the spec does not: a response of the SPDM responder by request code, from what
it carries (14 R475, R476; log 65). -/
opaque spdmResponse : (code : Nat) → (request payload : List W8) → List W8

/-- A frame that the ROM responder sends in answer to an ARP, neighbour discovery, ICMP echo or DHCP frame: their layouts are those of
the protocols' own standards (14 R473; log 76). -/
opaque romReply : (mac : BitVec 48) → (addrMode : Nat) → (staticIp : W32) → (frame : List W8) → List W8

/-- An MCTP answer by kind, from the packet and the data it carries: 0 not ready, 1 SPDM, 2 PLDM done, 3 PLDM refused, 4 PLDM sensor reading,
5 PLDM event entries, 6 an answer of the Narby OS (15 R492; log 65). -/
opaque mctpReply : (kind : Nat) → (request data : List W8) → List W8

end Sys2Proof.Config
end

