-- ==== Sys2Proof/Machine/Num.lean ====
section
/-! DEFINITION. Number formats, rounding and conversion (05 R177 to R195), exact arithmetic on values,
the counter-based generator (06 R227) and CRC-32. -/

namespace Sys2Proof.Machine

/-- An exact value: NaN, an infinity, or (-1)^neg * num / den with den at least 1 (a zero keeps its sign). -/
inductive FVal where
  | nan
  | inf (neg : Bool)
  | fin (neg : Bool) (num den : Nat)
  deriving DecidableEq, Repr

/-- How the all-ones exponent is read (05 R178, Table 5-2). -/
inductive Special where
  | ieee
  | e4m3
  | none
  deriving DecidableEq, Repr

/-- A floating format (05 Table 5-1). -/
structure Fmt where
  ebits : Nat
  mbits : Nat
  bias : Nat
  special : Special
  deriving DecidableEq, Repr

def fp32 : Fmt := ⟨8, 23, 127, .ieee⟩
def fp16 : Fmt := ⟨5, 10, 15, .ieee⟩
def bf16 : Fmt := ⟨8, 7, 127, .ieee⟩
def e4m3 : Fmt := ⟨4, 3, 7, .e4m3⟩
def e5m2 : Fmt := ⟨5, 2, 15, .ieee⟩
def e3m2 : Fmt := ⟨3, 2, 3, .none⟩
def e2m1 : Fmt := ⟨2, 1, 1, .none⟩

/-- The floating format of a format code 0 to 6 (03 R110); code 7 is INT8. -/
def fmtOf : Nat → Fmt
  | 0 => fp32 | 1 => fp16 | 2 => bf16 | 3 => e4m3 | 4 => e5m2 | 5 => e3m2 | _ => e2m1

/-- Width in bits of an element of a format code. -/
def fmtBits : Nat → Nat
  | 0 => 32 | 1 => 16 | 2 => 16 | 3 => 8 | 4 => 8 | 5 => 6 | 6 => 4 | _ => 8

/-- Formats that carry a block scale: codes 3 to 6 (05 R184). -/
def narrow (c : Nat) : Bool := decide (3 ≤ c) && decide (c ≤ 6)

/-- Numerator and denominator of k * 2^e. -/
def scale2 (k : Nat) (e : Int) : Nat × Nat :=
  if 0 ≤ e then (k * 2 ^ e.toNat, 1) else (k, 2 ^ (-e).toNat)

/-- Decodes the bits of a format (05 R177, R178). -/
def decodeF (f : Fmt) (b : Nat) : FVal :=
  let neg := (b >>> (f.mbits + f.ebits)) % 2 == 1
  let ex := (b >>> f.mbits) % 2 ^ f.ebits
  let man := b % 2 ^ f.mbits
  let top := 2 ^ f.ebits - 1
  if f.special == .ieee && ex == top then (if man == 0 then .inf neg else .nan)
  else if f.special == .e4m3 && ex == top && man == 2 ^ f.mbits - 1 then .nan
  else
    let k := if ex == 0 then man else 2 ^ f.mbits + man
    let e : Int := (if ex == 0 then 1 else ex : Nat)
    let nd := scale2 k (e - f.bias - f.mbits)
    .fin neg nd.1 nd.2

/-- Magnitude bits of the largest finite value (05 Table 5-2). -/
def maxfinBits (f : Fmt) : Nat :=
  match f.special with
  | .ieee => (2 ^ f.ebits - 1) * 2 ^ f.mbits - 1
  | .e4m3 => 2 ^ (f.ebits + f.mbits) - 2
  | .none => 2 ^ (f.ebits + f.mbits) - 1

def signBit (f : Fmt) (neg : Bool) : Nat := if neg then 2 ^ (f.ebits + f.mbits) else 0

/-- Bits of an infinity of a format that has one. -/
def infBits (f : Fmt) (neg : Bool) : Nat := signBit f neg + (2 ^ f.ebits - 1) * 2 ^ f.mbits

/-- Canonical NaN (05 Table 5-2). -/
def nanBits (f : Fmt) : Nat :=
  match f.special with
  | .ieee => (2 ^ f.ebits - 1) * 2 ^ f.mbits + 2 ^ (f.mbits - 1)
  | .e4m3 => 2 ^ (f.ebits + f.mbits) - 1
  | .none => 0

/-- floor(log2 (num / den)) for num > 0. -/
def floorLog2 (num den : Nat) : Int :=
  let l : Int := (Nat.log2 num : Int) - (Nat.log2 den : Int)
  let ge : Bool := if 0 ≤ l then decide (den * 2 ^ l.toNat ≤ num) else decide (den ≤ num * 2 ^ (-l).toNat)
  if ge then l else l - 1

/-- Rounding modes (05 R186): to nearest even, toward zero, stochastic with a 32-bit word. -/
inductive Rnd where
  | rne
  | rtz
  | sto (w : W32)
  deriving DecidableEq, Repr

/-- Rounds the quotient n / d to an integer in a mode (05 R186, R189). -/
def roundQuot (mode : Rnd) (n d : Nat) : Nat :=
  let k := n / d
  let r := n % d
  match mode with
  | .rne => if d < 2 * r || (2 * r == d && k % 2 == 1) then k + 1 else k
  | .rtz => k
  | .sto w => if r != 0 && decide (w.toNat < r * 2 ^ 32 / d) then k + 1 else k

/-- Magnitude bits of num / den rounded to a format, with no upper limit on the exponent. -/
def roundMag (f : Fmt) (mode : Rnd) (num den : Nat) : Nat :=
  if num == 0 then 0 else
  let emin : Int := 1 - (f.bias : Int)
  let e := max (floorLog2 num den) emin
  let q : Int := e - f.mbits
  let n := if 0 ≤ q then num else num * 2 ^ (-q).toNat
  let d := if 0 ≤ q then den * 2 ^ q.toNat else den
  (e - emin).toNat * 2 ^ f.mbits + roundQuot mode n d

/-- Arithmetic rounding to FP32, FP16 or BF16 (05 R188): overflow gives infinity in RNE and maxfin in RTZ. -/
def arith (f : Fmt) (mode : Rnd) : FVal → Nat
  | .nan => nanBits f
  | .inf neg => infBits f neg
  | .fin neg num den =>
    let m := roundMag f mode num den
    if m ≤ maxfinBits f then signBit f neg + m
    else match mode with
      | .rtz => signBit f neg + maxfinBits f
      | _ => infBits f neg

/-- Numerator and denominator of maxfin of a format code (INT8: 127). -/
def maxfinOf (c : Nat) : Nat × Nat :=
  if c == 7 then (127, 1) else
  match decodeF (fmtOf c) (maxfinBits (fmtOf c)) with
  | .fin _ n d => (n, d)
  | _ => (0, 1)

/-- Is num / den above maxfin of the format code? -/
def aboveMax (c num den : Nat) : Bool :=
  let m := maxfinOf c
  decide (m.1 * den < num * m.2)

/-- Decodes an element of a format code (05 R177, R180). -/
def decodeC (c b : Nat) : FVal :=
  if c == 7 then (if 128 ≤ b % 256 then .fin true (256 - b % 256) 1 else .fin false (b % 256) 1)
  else decodeF (fmtOf c) b

/-- Table 5-6: the entry of a format for a NaN. -/
def nanEntry (c : Nat) : Nat := if c == 7 then 0 else nanBits (fmtOf c)

/-- The entry of a format for ±maxfin. -/
def satEntry (c : Nat) (neg : Bool) : Nat :=
  if c == 7 then (if neg then 129 else 127) else signBit (fmtOf c) neg + maxfinBits (fmtOf c)

/-- Table 5-6: the entry of a format for ±infinity. -/
def infEntry (c : Nat) (neg : Bool) : Nat :=
  if c == 7 then satEntry c neg
  else if (fmtOf c).special == .ieee then infBits (fmtOf c) neg
  else satEntry c neg

/-- Conversion of an exact value to a format code (05 R191, R193): saturating, then rounded. -/
def convertV (c : Nat) (mode : Rnd) : FVal → Nat
  | .nan => nanEntry c
  | .inf neg => infEntry c neg
  | .fin neg num den =>
    if aboveMax c num den then satEntry c neg
    else if c == 7 then
      let k := roundQuot mode num den
      if neg then (256 - k) % 256 else k
    else signBit (fmtOf c) neg + roundMag (fmtOf c) mode num den

/-- Is a finite value a saturated element of the format (05 R191)? -/
def saturates (c : Nat) : FVal → Bool
  | .fin _ num den => aboveMax c num den
  | _ => false

/-- Multiplies a value by 2^e exactly. -/
def FVal.shift : FVal → Int → FVal
  | .fin neg n d, e => if 0 ≤ e then .fin neg (n * 2 ^ e.toNat) d else .fin neg n (d * 2 ^ (-e).toNat)
  | v, _ => v

/-- Multiplies by an E8M0 scale byte (05 R183); 0xFF gives NaN. -/
def FVal.e8m0 (v : FVal) (b : Nat) : FVal := if b == 255 then .nan else v.shift ((b : Int) - 127)

/-- Divides by an E8M0 scale byte. -/
def FVal.e8m0div (v : FVal) (b : Nat) : FVal := if b == 255 then .nan else v.shift (127 - (b : Int))

def FVal.negate : FVal → FVal
  | .nan => .nan
  | .inf n => .inf (!n)
  | .fin n a b => .fin (!n) a b

def FVal.abs : FVal → FVal
  | .nan => .nan
  | .inf _ => .inf false
  | .fin _ a b => .fin false a b

def FVal.isNan : FVal → Bool
  | .nan => true
  | _ => false

def FVal.isFin : FVal → Bool
  | .fin .. => true
  | _ => false

def FVal.isZero : FVal → Bool
  | .fin _ 0 _ => true
  | _ => false

/-- Signed numerator. -/
def sgn (neg : Bool) (n : Nat) : Int := if neg then -(n : Int) else n

/-- The finite value n / d with the sign of n; a zero takes the sign given. -/
def ofRat (n : Int) (d : Nat) (zneg : Bool) : FVal :=
  if n == 0 then .fin zneg 0 1 else .fin (decide (n < 0)) n.natAbs d

/-- Exact sum; an exact zero is +0 unless both operands are -0 (05 R188). -/
def addV : FVal → FVal → FVal
  | .nan, _ => .nan
  | _, .nan => .nan
  | .inf a, .inf b => if a == b then .inf a else .nan
  | .inf a, _ => .inf a
  | _, .inf b => .inf b
  | .fin sa na da, .fin sb nb db =>
    ofRat (sgn sa na * db + sgn sb nb * da) (da * db) (na == 0 && nb == 0 && sa && sb)

/-- Exact product. -/
def mulV : FVal → FVal → FVal
  | .nan, _ => .nan
  | _, .nan => .nan
  | .inf a, .inf b => .inf (a != b)
  | .inf a, .fin b n _ => if n == 0 then .nan else .inf (a != b)
  | .fin a n _, .inf b => if n == 0 then .nan else .inf (a != b)
  | .fin a n d, .fin b m e => .fin (a != b) (n * m) (d * e)

/-- Exact quotient of finite values by a finite non-zero one. -/
def divV : FVal → FVal → FVal
  | .nan, _ => .nan
  | _, .nan => .nan
  | .inf a, .inf _ => .nan
  | .inf a, .fin b _ _ => .inf (a != b)
  | .fin a _ _, .inf b => .fin (a != b) 0 1
  | .fin a n d, .fin b m e => if m == 0 then (if n == 0 then .nan else .inf (a != b)) else .fin (a != b) (n * e) (d * m)

/-- Order of two values that are not NaN: -1, 0, 1 as the first is below, equal to or above the second. -/
def cmpV : FVal → FVal → Int
  | .inf a, .inf b => if a == b then 0 else if a then -1 else 1
  | .inf a, _ => if a then -1 else 1
  | _, .inf b => if b then 1 else -1
  | .fin sa na da, .fin sb nb db =>
    let x := sgn sa na * db
    let y := sgn sb nb * da
    if x < y then -1 else if x == y then 0 else 1
  | _, _ => 0

/-- Sign of a value's encoding. -/
def FVal.neg : FVal → Bool
  | .nan => false
  | .inf n => n
  | .fin n _ _ => n

/-- Comparisons by the codes of 03 R108: EQ NE LT LE GT GE ORD UNORD. -/
def condV (c : Nat) (a b : FVal) : Bool :=
  let un := a.isNan || b.isNan
  let o := cmpV a b
  match c with
  | 0 => !un && o == 0
  | 1 => un || o != 0
  | 2 => !un && decide (o < 0)
  | 3 => !un && decide (o ≤ 0)
  | 4 => !un && decide (0 < o)
  | 5 => !un && decide (0 ≤ o)
  | 6 => !un
  | _ => un

/-- Bits of a floating sum, difference, product and fused product in a format (03 R107). -/
def faddB (f : Fmt) (m : Rnd) (a b : Nat) : Nat := arith f m (addV (decodeF f a) (decodeF f b))
def fsubB (f : Fmt) (m : Rnd) (a b : Nat) : Nat := arith f m (addV (decodeF f a) (decodeF f b).negate)
def fmulB (f : Fmt) (m : Rnd) (a b : Nat) : Nat := arith f m (mulV (decodeF f a) (decodeF f b))
def ffmaB (f : Fmt) (m : Rnd) (a b c : Nat) : Nat :=
  arith f m (addV (mulV (decodeF f a) (decodeF f b)) (decodeF f c))

/-- Minimum of 02 R86: a NaN loses to a number, two NaN give the canonical one, -0 is less than +0. -/
def fminB (f : Fmt) (a b : Nat) : Nat :=
  let x := decodeF f a
  let y := decodeF f b
  if x.isNan then (if y.isNan then nanBits f else b)
  else if y.isNan then a
  else if cmpV x y < 0 then a
  else if cmpV x y == 0 then (if x.neg then a else b)
  else b

/-- Maximum of 02 R86. -/
def fmaxB (f : Fmt) (a b : Nat) : Nat :=
  let x := decodeF f a
  let y := decodeF f b
  if x.isNan then (if y.isNan then nanBits f else b)
  else if y.isNan then a
  else if cmpV x y < 0 then b
  else if cmpV x y == 0 then (if x.neg then b else a)
  else a

def fcmpB (f : Fmt) (c a b : Nat) : Bool := condV c (decodeF f a) (decodeF f b)

/-- FP32 shorthands. -/
def dec32 (x : W32) : FVal := decodeF fp32 x.toNat
def rne32 (v : FVal) : W32 := BitVec.ofNat 32 (arith fp32 .rne v)
/-- Conversion to FP32 that saturates (05 R195). -/
def sat32 (v : FVal) : W32 := BitVec.ofNat 32 (convertV 0 .rne v)
def fadd32 (a b : W32) : W32 := BitVec.ofNat 32 (faddB fp32 .rne a.toNat b.toNat)
def fmul32 (a b : W32) : W32 := BitVec.ofNat 32 (fmulB fp32 .rne a.toNat b.toNat)
def ffma32 (a b c : W32) : W32 := BitVec.ofNat 32 (ffmaB fp32 .rne a.toNat b.toNat c.toNat)
def fmin32 (a b : W32) : W32 := BitVec.ofNat 32 (fminB fp32 a.toNat b.toNat)
def fmax32 (a b : W32) : W32 := BitVec.ofNat 32 (fmaxB fp32 a.toNat b.toNat)
def fneg32 (a : W32) : W32 := a ^^^ 0x80000000#32
def nan32 : W32 := 0x7FC00000#32
def one32 : W32 := 0x3F800000#32
/-- An FP32 value that is positive, normal and finite (05 R185). -/
def posNormal (x : W32) : Bool := decide (0x00800000 ≤ x.toNat) && decide (x.toNat < 0x7F800000)
/-- 2^k as FP32, for k from -126 to 127. -/
def pow2f (k : Int) : W32 := BitVec.ofNat 32 ((k + 127).toNat * 2 ^ 23)
/-- A natural number as FP32. -/
def natF (n : Nat) : W32 := rne32 (.fin false n 1)

/-- One level of the fixed tree of 02 R87. -/
def treeLevel : List W32 → List W32
  | a :: b :: t => fadd32 a b :: treeLevel t
  | l => l

/-- The tree with fuel for its levels. -/
def treeFuel : Nat → List W32 → W32
  | 0, l => l.headD 0
  | _, [] => 0
  | _, [x] => x
  | n + 1, l => treeFuel n (treeLevel l)

/-- tree_sum of 02 R87. -/
def treeSum (l : List W32) : W32 := treeFuel l.length l

/-! Transcendental functions (06 R232, R233). Away from the exact results a result is a free value within the bound of 06 Table 6-8, measured
against the exact result computed to more than 40 bits below it; a free value outside the bound is brought to the nearest FP32 (log 9). -/

/-- The exponent of a quotient that is a power of two. -/
def pow2Of (n d : Nat) : Option Int :=
  if n == 0 then none else
  let l := floorLog2 n d
  let p := scale2 1 l
  if n * p.2 == p.1 * d then some l else none

/-- The square root of n / d when it is rational, as a quotient. -/
def exactSqrt (n d : Nat) : Option (Nat × Nat) :=
  let r := Nat.sqrt (n * d)
  if r * r == n * d then some (r, d) else none

/-- k ulp of a result of magnitude n / d (06, Transcendental accuracy). -/
def ulps (k n d : Nat) : Nat × Nat := scale2 k ((if n == 0 then -126 else max (floorLog2 n d) (-126)) - 23)

/-- The candidate when it lies within `bound` of the exact result v, else the FP32 nearest v. -/
def within (cand : W32) (v : FVal) (bound : Nat × Nat) : W32 :=
  match dec32 cand, v with
  | .fin cs cn cd, .fin vs vn vd =>
    if decide ((sgn cs (cn * vd) - sgn vs (vn * cd)).natAbs * bound.2 ≤ bound.1 * (cd * vd)) then cand else rne32 v
  | _, _ => rne32 v

/-- 2^-22, the absolute bound. -/
def abs22 : Nat × Nat := (1, 2 ^ 22)

/-- FRCP and RCP (03 R109, 06 R232). -/
def frcpB (x : W32) : W32 :=
  match dec32 x with
  | .nan => nan32
  | .inf n => if n then 0x80000000#32 else 0#32
  | .fin n a b =>
    if a == 0 || aboveMax 0 b a then BitVec.ofNat 32 (infBits fp32 n)
    else
      let e := rne32 (.fin n b a)
      match pow2Of a b with
      | some k => if k ≤ 126 then e else within (Config.transc 0 x) (.fin n b a) (ulps 1 b a)
      | none => within (Config.transc 0 x) (.fin n b a) (ulps 1 b a)

/-- The square root of n / d to 200 bits after its point and more. -/
def rootV (n d : Nat) : Nat × Nat := (Nat.sqrt (n * d * 2 ^ 400), d * 2 ^ 200)

/-- FSQRT and SQRT (03 R109, 06 R232). -/
def fsqrtB (x : W32) : W32 :=
  match dec32 x with
  | .nan => nan32
  | .inf n => if n then nan32 else x
  | .fin n a b =>
    if a == 0 then (if n then x else within (Config.transc 1 x) (.fin false 0 1) (ulps 1 0 1))
    else if n then nan32
    else match exactSqrt a b with
      | some (p, q) => rne32 (.fin false p q)
      | none =>
        let r := rootV a b
        within (Config.transc 1 x) (.fin false r.1 r.2) (ulps 1 r.1 r.2)

/-- RSQ (06 R213, R232). -/
def rsqB (x : W32) : W32 :=
  match dec32 x with
  | .nan => nan32
  | .inf n => if n then nan32 else 0#32
  | .fin n a b =>
    if a == 0 then BitVec.ofNat 32 (infBits fp32 n)
    else if n then nan32
    else
      let r := rootV b a
      let c := within (Config.transc 2 x) (.fin false r.1 r.2) (ulps 2 r.1 r.2)
      match pow2Of a b with
      | some k => if k % 2 == 0 then pow2f (-(k / 2)) else c
      | none => c

/-- Is a value an integer, and which? -/
def asInt : FVal → Option Int
  | .fin s n d => if n % d == 0 then some (sgn s (n / d)) else none
  | _ => none

/-- The next n successive square roots, each in units of 2^-96. -/
def rootsDown : Nat → Nat → List Nat
  | 0, _ => []
  | n + 1, s =>
    let r := Nat.sqrt (s * 2 ^ 96)
    r :: rootsDown n r

/-- 2^(f / 2^96) in units of 2^-96, for f below 2^96. -/
def exp2Frac (f : Nat) : Nat :=
  (rootsDown 96 (2 ^ 97)).zipIdx.foldl (fun acc r => if f.testBit (95 - r.2) then acc * r.1 / 2 ^ 96 else acc) (2 ^ 96)

/-- floor of the quotient of a signed numerator. -/
def floorQ (s : Bool) (n d : Nat) : Int := if s then -(ceilDiv n d : Nat) else ((n / d : Nat) : Int)

/-- 2^(±n / d), for exponents from -200 to 200. -/
def exp2V (s : Bool) (n d : Nat) : FVal :=
  let k := floorQ s n d
  let f := (sgn s n - k * d).toNat * 2 ^ 96 / d
  (FVal.fin false (exp2Frac f) (2 ^ 96)).shift k

/-- FEXP2 and EXP2 (03 R109, 06 R232): 2 ulp, or the absolute 2^-149 of one ulp below the normal results; of +infinity the operation of 03 Table 3-6
itself (03 R135). -/
def fexp2B (x : W32) : W32 :=
  match dec32 x with
  | .nan => nan32
  | .inf n => if n then 0#32 else x
  | .fin s n d =>
    if 0 ≤ cmpV (.fin s n d) (.fin false 128 1) then 0x7F800000#32 else
    match asInt (.fin s n d) with
    | some k => if k < -149 then within (Config.transc 3 x) (.fin false 0 1) (ulps 1 0 1) else rne32 ((FVal.fin false 1 1).shift k)
    | none =>
      let v := if cmpV (.fin s n d) (.fin true 200 1) < 0 then FVal.fin false 0 1 else exp2V s n d
      let sub := decide (cmpV (.fin s n d) (.fin true 126 1) < 0)
      within (Config.transc 3 x) v (match v with | .fin _ a b => if sub then ulps 1 0 1 else ulps 2 a b | _ => abs22)

/-- Bits of the logarithm of m / 2^128 (at least 1, below 2) after its point, by repeated squaring. -/
def logBits : Nat → Nat → Nat → Nat
  | 0, _, acc => acc
  | n + 1, m, acc =>
    let q := m * m / 2 ^ 128
    if 2 ^ 129 ≤ q then logBits n (q / 2) (2 * acc + 1) else logBits n q (2 * acc)

/-- log2 (n / d) to 48 bits after its point, for n > 0. -/
def log2V (n d : Nat) : FVal :=
  let l := floorLog2 n d
  let p := scale2 1 l
  let v : Int := l * 2 ^ 48 + (logBits 48 (n * p.2 * 2 ^ 128 / (p.1 * d)) 0 : Nat)
  .fin (decide (v < 0)) v.natAbs (2 ^ 48)

/-- FLOG2 and LOG2 (03 R109, 06 R232); of +infinity the operation of 03 Table 3-6 itself (03 R135). -/
def flog2B (x : W32) : W32 :=
  match dec32 x with
  | .nan => nan32
  | .inf n => if n then nan32 else x
  | .fin n a b =>
    if a == 0 then 0xFF800000#32
    else if n then nan32
    else match pow2Of a b with
      | some l => rne32 (ofRat l 1 false)
      | none =>
        let v := log2V a b
        let near : Bool := decide (b ≤ 2 * a) && decide (a ≤ 2 * b)
        within (Config.transc 4 x) v (if near then abs22 else match v with | .fin _ p q => ulps 2 p q | _ => abs22)

/-- Twice a value, when that is an integer. -/
def asHalf (v : FVal) : Option Int := asInt (v.shift 1)

/-- Terms t - t x²/((k+1)(k+2)) + ..., in units of 2^-96, x2 being x² in these units. -/
def sineTerms : Nat → Int → Nat → Nat → Int
  | 0, _, _, _ => 0
  | n + 1, t, x2, k => t + sineTerms n (-(t * x2 / (2 ^ 96 * ((k + 1) * (k + 2) : Nat)))) x2 (k + 2)

/-- sin(π n / d) or cos(π n / d), n / d taken modulo 2 and π to 96 bits. -/
def circleV (cosine : Bool) (n d : Nat) : FVal :=
  let x := 248902613312231085230521944622 * (n % (2 * d)) / d
  let x2 := x * x / 2 ^ 96
  let v := if cosine then sineTerms 48 (2 ^ 96) x2 0 else sineTerms 48 x x2 1
  .fin (decide (v < 0)) v.natAbs (2 ^ 96)

/-- FSIN and SIN: sin(π a) (03 R109, 06 R232). -/
def fsinB (x : W32) : W32 :=
  match dec32 x with
  | .nan => nan32
  | .inf _ => nan32
  | .fin s n d =>
    match asHalf (.fin s n d) with
    | some h =>
      if h % 2 == 0 then (if s then 0x80000000#32 else 0#32)
      else if h % 4 == 1 then one32 else 0xBF800000#32
    | none =>
      within (Config.transc 5 x) (match circleV false n d with | .fin t a b => .fin (s != t) a b | v => v) abs22

/-- FCOS and COS: cos(π a). -/
def fcosB (x : W32) : W32 :=
  match dec32 x with
  | .nan => nan32
  | .inf _ => nan32
  | .fin s n d =>
    match asHalf (.fin s n d) with
    | some h =>
      if h % 2 != 0 then 0#32
      else if h % 4 == 0 then one32 else 0xBF800000#32
    | none => within (Config.transc 6 x) (circleV true n d) abs22

/-- tanh (n / d) below 9.5, from e^(2 n / d) with log2 e to 96 bits. -/
def tanhV (s : Bool) (n d : Nat) : FVal :=
  match exp2V false (2 * n * 114302077158074026402637675936) (d * 2 ^ 96) with
  | .fin _ a b => .fin s (a - b) (a + b)
  | v => v

/-- TANH (06 R213, R232). -/
def tanhB (x : W32) : W32 :=
  match dec32 x with
  | .nan => nan32
  | .inf n => if n then 0xBF800000#32 else one32
  | .fin s n d =>
    if n == 0 then x
    else if 19 * d ≤ 2 * n then (if s then 0xBF800000#32 else one32)
    else within (Config.transc 7 x) (tanhV s n d) abs22

/-- floor of a non-negative quotient with its direction, for RINT (06 R213). -/
def rintB (fn : Nat) (x : W32) : W32 :=
  match dec32 x with
  | .nan => nan32
  | .inf _ => x
  | .fin s n d =>
    let k := match fn with
      | 0 => roundQuot .rne n d
      | 1 => n / d
      | 2 => if s then ceilDiv n d else n / d
      | _ => if s then n / d else ceilDiv n d
    rne32 (.fin s k 1)

/-- mix of 06 R227. -/
def mix (z : W64) : W64 :=
  let z := z ^^^ (z >>> 32)
  let z := z * 0xa5c316e94b7d2f61#64
  let z := z ^^^ (z >>> 29)
  let z := z * 0x8f2bd05a63c91e47#64
  z ^^^ (z >>> 32)

/-- gen of 06 R227. -/
def gen (seed round : W64) (tensor : W32) (elem : W64) : W32 :=
  let k := mix (seed + 0xd3a26f189c47b5e3#64)
  let k := mix (k ^^^ round)
  let k := mix (k ^^^ (tensor.zeroExtend 64 + 0x6b8e3c05f1d927a1#64))
  let z := mix (k ^^^ elem)
  let z := mix (z + 0x93f10a6d5e28c4b7#64)
  (z >>> 32).truncate 32

/-- One bit step of CRC-32, reflected IEEE 802.3 polynomial (10 Table 10-4, 11 R358). -/
def crcBit (c : W32) : W32 := if c.getLsbD 0 then (c >>> 1) ^^^ 0xEDB88320#32 else c >>> 1

def crcByte (c : W32) (b : W8) : W32 :=
  crcBit (crcBit (crcBit (crcBit (crcBit (crcBit (crcBit (crcBit (c ^^^ b.zeroExtend 32))))))))

/-- CRC-32 with the usual initial and final inversion (log 23). -/
def crc32 (l : List W8) : W32 := (l.foldl crcByte 0xFFFFFFFF#32) ^^^ 0xFFFFFFFF#32

/-- Ternary sign of 07 R256, as -1, 0, 1. -/
def tsign (x h : FVal) : Int :=
  if x.isNan then 0 else if 0 < cmpV x h then 1 else if cmpV x h.negate < 0 then -1 else 0

/-- Little-endian number of a byte list. -/
def leNat : List W8 → Nat
  | [] => 0
  | b :: t => b.toNat + 256 * leNat t

/-- The n low bytes of a number, little-endian. -/
def leBytes : Nat → Nat → List W8
  | 0, _ => []
  | n + 1, x => BitVec.ofNat 8 (x % 256) :: leBytes n (x / 256)

end Sys2Proof.Machine
end

