-- ==== Sys2Proof/Machine/Mem.lean ====
section
/-! DEFINITION. Byte memory: DRAM, cluster local memory, weight banks and accumulator buffers are lists of
cells in one canonical form: rising addresses, no zero byte listed; an unlisted byte reads as zero (log 5). -/

namespace Sys2Proof.Machine

/-- Bytes by address, in canonical form. -/
abbrev Mem := List Host.Cell

/-- Every address is above `lo` and rising, and no listed byte is zero. -/
def Mem.wfFrom : Option Nat → Mem → Bool
  | _, [] => true
  | lo, (a, b) :: t => (match lo with | none => true | some l => decide (l < a)) && (b != 0) && Mem.wfFrom (some a) t

/-- The canonical form of a memory. -/
def Mem.wf (m : Mem) : Bool := Mem.wfFrom none m

/-- Reads one byte. -/
def Mem.read : Mem → Nat → W8
  | [], _ => 0
  | (j, b) :: t, a => if j = a then b else Mem.read t a

/-- Writes one byte, keeping the canonical form. -/
def Mem.write : Mem → Nat → W8 → Mem
  | [], a, b => if b = 0 then [] else [(a, b)]
  | (j, c) :: t, a, b =>
    if j < a then (j, c) :: Mem.write t a b
    else if j = a then (if b = 0 then t else (a, b) :: t)
    else if b = 0 then (j, c) :: t else (a, b) :: (j, c) :: t

/-- Reads n bytes. -/
def Mem.readN (m : Mem) (a : Nat) : Nat → List W8
  | 0 => []
  | n + 1 => Mem.read m a :: Mem.readN m (a + 1) n

/-- Writes a list of bytes. -/
def Mem.writeN (m : Mem) (a : Nat) : List W8 → Mem
  | [] => m
  | b :: t => Mem.writeN (Mem.write m a b) (a + 1) t

/-- Reads an n-byte little-endian number (00 R3). -/
def Mem.readLE (m : Mem) (a n : Nat) : Nat := leNat (Mem.readN m a n)

/-- Writes an n-byte little-endian number. -/
def Mem.writeLE (m : Mem) (a n v : Nat) : Mem := Mem.writeN m a (leBytes n v)

/-- Clears the bytes a to a + n - 1. -/
def Mem.clear (m : Mem) (a n : Nat) : Mem := List.filter (fun c => decide (c.1 < a) || decide (a + n ≤ c.1)) m

/-- The listed bytes of a range, at their offsets from its start. -/
def Mem.slice (m : Mem) (a n : Nat) : Mem :=
  (List.filter (fun c => decide (a ≤ c.1) && decide (c.1 < a + n)) m).map (fun c => (c.1 - a, c.2))

/-- Puts the bytes of a slice at address a over a cleared range. -/
def Mem.paste (m : Mem) (a n : Nat) (src : Mem) : Mem :=
  src.foldl (fun m c => if c.1 < n then Mem.write m (a + c.1) c.2 else m) (Mem.clear m a n)

/-- Bytes of a little-endian list as a memory from address 0. -/
def Mem.ofBytes (l : List W8) : Mem := Mem.writeN [] 0 l

end Sys2Proof.Machine
end

