-- ==== Sys2Proof/Machine/ObjTypes.lean ====
section
/-! DEFINITION. Types of the shared objects (09) and of a context's virtual memory (08). -/

namespace Sys2Proof.Machine

/-- States of a sub-page (08 Table 8-4). -/
inductive SubSt where
  | absent
  | local
  | far
  | migrating
  | outbound
  | inbound
  | lost
  deriving DecidableEq, Repr

/-- The code of a sub-page state (08 Table 8-4). -/
def SubSt.code : SubSt → Nat
  | .absent => 0 | .local => 1 | .far => 2 | .migrating => 3 | .outbound => 4 | .inbound => 5 | .lost => 6

/-- A sub-page entry (08 Table 8-4) with what the controllers keep beside it: its access in this and in the
previous round (R283), samples of this round by tile (R281), where a migration or a page-in or a page-out goes. -/
structure Sub where
  st : SubSt
  pins : Nat
  lender : Nat
  loc : Nat
  used : Bool
  usedPrev : Bool
  samples : Tbl Nat
  target : Nat
  demand : Bool
  deriving DecidableEq, Repr

def Sub.absent : Sub := ⟨.absent, 0, 0, 0, false, false, [], 0, false⟩

/-- A mapped 2 MiB page (08 Table 8-3): permissions, object slot, and which 2 MiB of the object it maps. The sub-page
entries stand with the object, since every mapping of it sees the same ones (log 30). -/
structure Page where
  r : Bool
  w : Bool
  x : Bool
  obj : Nat
  idx : Nat
  deriving DecidableEq, Repr

/-- Strand fault record (02 Table 2-7). -/
structure FaultRec where
  code : Nat
  more : Bool
  tile : Nat
  cluster : Nat
  sched : Nat
  slot : Nat
  pc : W64
  mask : W32
  addr : W64
  ins : W64
  ext : W64
  time : Nat
  suppressed : Nat
  deriving DecidableEq, Repr

/-- Recorded memory fault (08 Table 8-26). -/
structure MemFault where
  exec : Bool
  write : Bool
  cause : Nat
  va : W64
  deriving DecidableEq, Repr

/-- States of a context (09 Table 9-3); a FREE slot is not listed. -/
inductive CtxSt where
  | active
  | lost
  | teardown
  deriving DecidableEq, Repr

/-- An old copy of a code sub-page kept for running kernels, named by queue and index (02 R51). -/
structure OldCopy where
  sub : Nat
  loc : Nat
  users : List (Nat × Nat)
  deriving DecidableEq, Repr

/-- A context (09 R309, 08 R275 to R277). `kept`: torn down, it stays in TEARDOWN until the waling slot that holds its objects is released (12 R396, 14 R455). -/
structure Ctx where
  st : CtxSt
  compat : Bool
  part : Nat
  memLimit : Nat
  fault : Option FaultRec
  memFault : Option MemFault
  pages : Tbl Page
  ptLocs : List Nat
  lastIn : Tbl Nat
  kept : Bool
  deriving DecidableEq, Repr

/-- A mapping of a memory object in a context. -/
structure Mapping where
  ctx : Nat
  va : Nat
  perm : Nat
  deriving DecidableEq, Repr

/-- A memory object (09 R323, R324) with its sub-pages by number; one not listed is ABSENT. -/
structure MObj where
  gen : Nat
  part : Nat
  owner : Nat
  size : Nat
  va : Nat
  perm : Nat
  drv : Nat
  cmd : Nat
  ownerRef : Bool
  live : Bool
  orphan : Bool
  maps : List Mapping
  subs : Tbl Sub
  oldCode : List OldCopy
  deriving DecidableEq, Repr

/-- The context that owns an object's memory; 64, which is no context, once its creating context is gone (09 R325, step 4). -/
def MObj.home (m : MObj) : Nat := if m.orphan then 64 else m.owner

/-- A fence (09 R320, R321). -/
structure Fence where
  gen : Nat
  part : Nat
  owner : Nat
  value : W64
  status : Nat
  exported : Bool
  dead : Bool
  refs : Nat
  deriving DecidableEq, Repr

/-- States of a committed command (09 Table 9-7). -/
inductive CmdSt where
  | queued
  | waiting
  | ready
  | admitted
  | running
  | retired
  deriving DecidableEq, Repr

/-- A committed command: its 128-byte entry read once (09 R315, R316), its state, and what the device keeps of
its run: `stalled` that it waited for room in the log ring; `round` is the round it was admitted for, `opened` that
round's opening tick and `closed` its closing tick once past; `abortPorts` the ports whose ABORT waits, with whether the abort stops it;
`seq` its place in the order of dispatch. -/
structure Cmd where
  ent : BitVec 1024
  st : CmdSt
  code : Nat
  round : Nat
  opened : Nat
  closed : Nat
  carries : Nat
  charge : Nat
  cls : Nat
  stalled : Bool
  stop : Option Nat
  abortPorts : List (Nat × Bool)
  pins : List (Nat × Nat)
  args : List W8
  groupsStarted : Nat
  groupsDone : Nat
  desc : List W8
  hyper : List W32
  seq : Nat
  unsummed : Bool
  deriving DecidableEq, Repr

/-- States of a queue (09 Table 9-18). -/
inductive QSt where
  | active
  | blocked
  | stopped
  | destroying
  deriving DecidableEq, Repr

/-- A queue (09 R314, Table 9-18); cmds by entry index. -/
structure Queue where
  st : QSt
  part : Nat
  log2 : Nat
  ctx : Nat
  head : W32
  committed : W32
  reserved : W32
  ring : Nat
  cmds : Tbl Cmd
  deriving DecidableEq, Repr

/-- A submission port (09 R307, Table 9-16). `retry`: the opcode of a command that waits for a page-out (08 R276). -/
structure OPort where
  arg0 : W64
  arg1 : W64
  arg2 : W64
  arg3 : W64
  busy : Bool
  ignored : Bool
  status : Nat
  r1 : W64
  r2 : W64
  retry : Option Nat
  deriving DecidableEq, Repr

def OPort.zero : OPort := ⟨0, 0, 0, 0, false, false, 0, 0, 0, none⟩

/-- The OBJ block: tables, ports and the ignored-sequence registers (09 R329). Generation tables hold the next
generation of a slot that has been freed; a slot not listed issues generation 1 first (log 21). `held`: the ports wait for the Narby OS (14). `dispatched` counts the commands
dispatched, the model's own count of their order (07 R246). -/
structure Obj where
  held : Bool
  ignoredCount : W64
  ignCause : Nat
  ignSource : Nat
  ignDetail : Nat
  ports : Tbl OPort
  ctxs : Tbl Ctx
  queues : Tbl Queue
  fences : Tbl Fence
  fenceGen : Tbl Nat
  mobjs : Tbl MObj
  mobjGen : Tbl Nat
  dispatched : Nat
  deriving DecidableEq, Repr

def Obj.reset : Obj := ⟨false, 0, 0, 0, 0, [], [], [], [], [], [], [], 0⟩

end Sys2Proof.Machine
end

