-- ==== Sys2Proof/Machine/ClusterTypes.lean ====
section
/-! DEFINITION. Types of clusters, work groups and plaits (02). -/

namespace Sys2Proof.Machine

/-- One entry of a mask stack: join point, full mask, and the strands still to run with their targets (02 R53, R55). -/
structure MaskEntry where
  join : W64
  full : W32
  rest : List (W64 × W32)
  deriving DecidableEq, Repr

/-- What a plait waits for (02 R78, R82; 03 R133). -/
inductive Stall where
  | none
  | barrier (n : Nat)
  | tokens (mask : W16)
  | alloc (d : Nat) (size : W64) (mask : W32)
  deriving DecidableEq, Repr

/-- A resident plait (02 R43, R46, R57, R59, R62, R82). Registers are keyed 32 * register + strand and predicates
by number; what is not listed is zero. `held` lists register groups that a pending MXR will write (03 R122), `bad` the registers, keyed as
`regs`, that hold an uncorrectable error (02 R90). -/
structure Plait where
  ctx : Nat
  q : Nat
  i : Nat
  grp : Nat
  gk : Nat
  num : Nat
  alloc : Nat
  regs : Tbl W32
  preds : Tbl W32
  pc : W64
  active : W32
  live : W32
  stack : List MaskEntry
  tokens : W16
  region : Option W32
  held : List (Nat × Nat)
  stall : Stall
  bad : List Nat
  deriving DecidableEq, Repr

/-- A barrier of a work group: count of its open use, arrivals, waiting plaits (02 R78). -/
structure Bar where
  count : Nat
  arrivals : Nat
  waiting : List Nat
  deriving DecidableEq, Repr

/-- A work group in residence (02 R41, R42). -/
structure WGroup where
  q : Nat
  i : Nat
  num : Nat
  ck : Nat
  base : Nat
  size : Nat
  strands : Nat
  bars : Tbl Bar
  deriving DecidableEq, Repr

/-- A pending CPY (03 R123). -/
structure Cpy where
  pk : Nat
  token : Nat
  va : W64
  off : Nat
  len : Nat
  toMem : Bool
  mask : W32
  pc : W64
  ins : W64
  pins : List (Nat × Nat)
  deriving DecidableEq, Repr

/-- A cluster: the context in residence, its local memory, its VE_STATUS
(06 Table 6-12), droop stretch in units of 12.5 percent (13 R438), a save requested at a tick (02 R47), the 32-bit words of its local
memory that hold an uncorrectable error (02 R90). -/
structure Cluster where
  ctx : Option Nat
  clm : Mem
  oorCount : Nat
  oorCtx : Nat
  permOor : Bool
  stretch : Nat
  saveReq : Bool
  badClm : List Nat
  deriving DecidableEq, Repr

def Cluster.clear : Cluster := ⟨none, [], 0, 0, false, 0, false, []⟩

/-- Does a read of n bytes of local memory meet an uncorrectable error? -/
def Cluster.badAt (c : Cluster) (a n : Nat) : Bool := c.badClm.any (fun w => decide (a < 4 * w + 4) && decide (4 * w < a + n))
/-- Words wholly rewritten lose their error (log 98). -/
def Cluster.heal (c : Cluster) (a n : Nat) : Cluster :=
  { c with badClm := c.badClm.filter (fun w => !(decide (a ≤ 4 * w) && decide (4 * w + 4 ≤ a + n))) }

/-- A fault that stops a context, or under the fence binding one command, on a cluster (02 R91): until its cycle is over each scheduler listed
may issue once more for it (log 99). -/
structure FaultStop where
  ck : Nat
  ctx : Nat
  cmd : Option (Nat × Nat)
  scheds : List Nat
  deriving DecidableEq, Repr

/-- Key of a cluster, of a plait, of an array or slice. -/
def ckey (tile cluster : Nat) : Nat := tile * 40 + cluster
def pkey (p : PlaitRef) : Nat := ((ckey p.tile p.cluster) * 4 + p.sched) * 16 + p.slot
def akey (tile cluster k : Nat) : Nat := ckey tile cluster * 4 + k
/-- Cluster of a plait key, its tile. -/
def pkCluster (pk : Nat) : Nat := pk / 64
def pkTile (pk : Nat) : Nat := pk / 64 / 40
def ckTile (ck : Nat) : Nat := ck / 40

end Sys2Proof.Machine
end

