-- ==== Sys2Proof/Machine/MxaTypes.lean ====
section
/-! DEFINITION. Types of matrix arrays (04) and vector-engine slices (06). Descriptors are kept as the
little-endian number of their bytes. -/

namespace Sys2Proof.Machine

/-- Who issued an operation: its plait, token, work-group window, context, command, round, and the instruction with its
participants that a fault of the operation names. -/
structure Issuer where
  pk : Nat
  token : Nat
  gk : Nat
  base : Nat
  size : Nat
  ctx : Nat
  q : Nat
  i : Nat
  round : Nat
  pc : W64
  ins : W64
  ext : W64
  mask : W32
  deriving DecidableEq, Repr

/-- Kinds of array operation (04, Operations and their order). -/
inductive AKind where
  | matmul
  | loadw
  | drain
  | mxw (f : Nat) (data : List W8)
  | mxr (f : Nat) (d : Nat) (mask : W32)
  deriving DecidableEq, Repr

/-- One byte to be written to CLM under a bit mask: address, mask, value. -/
abbrev BitWr := Nat × W8 × W8

/-- What a finished drain leaves: the writes, the record of 04 Table 4-5, the values for a shadow entry. -/
structure DrainOut where
  writes : List BitWr
  shift : Nat
  rim : W32
  amax : W32
  saturated : Nat
  recomputed : Bool
  overflowed : Bool
  nonfinite : Bool
  sampled : Bool
  elems : List Nat
  scales : List Nat
  deriving DecidableEq, Repr

/-- Progress of a phase: not begun, running, ended (or not needed). -/
inductive Ph where
  | idle
  | run
  | done
  deriving DecidableEq, Repr

/-- An accepted array operation with the phases of 04 Table 4-4. `qs` holds the rounded block sums of each output
element between the end of streaming and the last result; `vs` the drain's values; `pass` counts ended drain passes;
`amaxFirst` marks a drain that runs amax-first (07 R250). -/
structure AOp where
  kind : AKind
  desc : Nat
  chain : Nat
  by_ : Issuer
  slice : Nat
  wload : Ph
  init : Ph
  stream : Ph
  result : Ph
  drain : Ph
  pass : Nat
  amaxFirst : Bool
  read : Ph
  qs : List (List W32)
  vs : List W32
  out : Option DrainOut
  redw : List BitWr
  regs : List W32
  deriving DecidableEq, Repr

/-- A sampled tile held for comparison (04 R170). -/
structure ShadowEnt where
  vs : List W32
  cols : Nat
  amax : W32
  fmt : Nat
  elems : List Nat
  scales : List Nat
  rim : W32
  tensor : W32
  index : W32
  round : Nat
  ctx : Nat
  deriving DecidableEq, Repr

/-- A matrix array (04 R136). `badW` and `badA` list the 32-bit words of the weight banks and of the accumulator buffers, counted over both,
that hold an uncorrectable error (04 R139); `compared` that shadow work has taken cycles of the gap that is under way (04 R163). -/
structure MArray where
  wb0 : Mem
  wb1 : Mem
  ab0 : Mem
  ab1 : Mem
  queue : List AOp
  shadow : List ShadowEnt
  packing : Bool
  compared : Bool
  badW : List Nat
  badA : List Nat
  deriving DecidableEq, Repr

def MArray.clear : MArray := ⟨[], [], [], [], [], [], false, false, [], []⟩

/-- A chain in execution over a region of m rows and l columns: next instruction, element inputs, channel vectors,
16 temporaries an element, whether a lane was out of range (06 R208 to R222). -/
structure ChainRun where
  m : Nat
  l : Nat
  next : Nat
  xs : List W32
  chans : List (List W32)
  temps : List (List W32)
  deriving DecidableEq, Repr

/-- Phases of a standalone chain (06 Table 6-7). -/
inductive ChPh where
  | queued
  | started
  | loaded
  | stepped
  | passed
  deriving DecidableEq, Repr

/-- An accepted standalone chain; `vs` holds its output values once its steps have ended. -/
structure ChainOp where
  desc : Nat
  by_ : Issuer
  ph : ChPh
  amaxFirst : Bool
  vs : List W32
  olds : List W32
  out : Option DrainOut
  redw : List BitWr
  deriving DecidableEq, Repr

/-- A slice: its chain queue, the fused drain it runs (array and position), the running chain, its drain staging
buffer, the old reduction values of the fused chain it runs (06 R205, R221), the words of the staging buffer that hold an uncorrectable
error (06 R237). -/
structure Slice where
  queue : List ChainOp
  fused : Option Nat
  run : Option ChainRun
  staging : List W32
  olds : List W32
  badS : List Nat
  deriving DecidableEq, Repr

def Slice.clear : Slice := ⟨[], none, none, [], [], []⟩

/-- The saved state of a preempted context on a cluster (02 R47, 04 R138). -/
structure Saved where
  ctx : Nat
  clm : Mem
  badClm : List Nat
  plaits : Tbl Plait
  groups : Tbl WGroup
  arrays : Tbl MArray
  deriving DecidableEq, Repr

end Sys2Proof.Machine
end

