-- ==== Sys2Proof/Machine/TileTypes.lean ====
section
/-! DEFINITION. Registers of compute tiles and of partitions: MXA, VE, UE, stack controllers, sparing, thermal
(04, 06, 07, 08, 12, 13), and what a partition holds on its lead tile (07, 08, 10, 13). -/

namespace Sys2Proof.Machine

/-- MXA registers (04 Tables 4-6 to 4-13). -/
structure MxaRegs where
  shEn : Bool
  shFmt : Bool
  shThresh : Nat
  shPeriod : Nat
  shSeed : W64
  compared : Nat
  dropped : Nat
  alarms : Nat
  alarm : Bool
  reported : Nat
  recomputed : Nat
  active : Nat
  pack : Nat
  stall : Nat
  deriving DecidableEq, Repr

def MxaRegs.reset : MxaRegs := ⟨false, false, 5, 0xFF, 0, 0, 0, 0, false, 0, 0, 0, 0, 0⟩

/-- VE registers (06 Tables 6-9 to 6-11). -/
structure VeRegs where
  fused : Nat
  standalone : Nat
  step : Nat
  plait : Nat
  deriving DecidableEq, Repr

def VeRegs.reset : VeRegs := ⟨0, 0, 0, 0⟩

/-- Update-engine counters of a tile (07 Tables 7-9 to 7-12). -/
structure UeRegs where
  done : Nat
  skipped : Nat
  staleRows : Nat
  nonfinite : Nat
  dupRows : Nat
  badRows : Nat
  refreshes : Nat
  fallback : Nat
  deriving DecidableEq, Repr

def UeRegs.reset : UeRegs := ⟨0, 0, 0, 0, 0, 0, 0, 0⟩

/-- States of a stack controller (08 Table 8-10). -/
inductive ScSt where
  | off
  | training
  | active
  | selfRefresh
  | retrain
  | failed
  deriving DecidableEq, Repr

def ScSt.code : ScSt → Nat
  | .off => 0 | .training => 1 | .active => 2 | .selfRefresh => 3 | .retrain => 4 | .failed => 5

/-- A stack controller (08 Tables 8-10 to 8-16): `rowErrs` counts corrected errors of a row in this scrub period,
`repairing` lists remap entries whose copy is under way, `limit` is the issue limit in thousandths of peak,
`steered` the lines (by number) held in the sibling's steering region and `writeback` that they are being written back, `band` the row of
Table 8-6 in force. -/
structure Sc where
  tempC : Int
  refresh : Nat
  remapFull : Bool
  st : ScSt
  throttle : Nat
  corrected : Nat
  uncorrectable : Nat
  scrubPasses : Nat
  bytesRd : Nat
  bytesWr : Nat
  scrubEn : Bool
  thresh : Nat
  periodH : Nat
  sparesUsed : Nat
  remap : Tbl Nat
  rowErrs : Tbl Nat
  repairing : List Nat
  limit : Nat
  steered : List Nat
  writeback : Bool
  band : Nat
  deriving DecidableEq, Repr

def Sc.reset : Sc := ⟨0, 0, false, .off, 0, 0, 0, 0, 0, 0, true, 4, 24, 0, [], [], [], 1000, [], false, 0⟩

/-- Sparing of a tile (12 Table 12-14): retired clusters, corrected counts by cluster, logical order of the 38 in use. -/
structure Spare where
  retired : BitVec 40
  corrThresh : Nat
  cluster : Nat
  failed : Bool
  sparesLeft : Nat
  map : List Nat
  corr : Tbl Nat
  deriving DecidableEq, Repr

def Spare.reset : Spare := ⟨0, 64, 0, false, 2, List.range 38, []⟩

/-- Temperatures, power and trip of a tile (13 Table 13-17). -/
structure Trip where
  trip : Bool
  logicC : Int
  dramC : Int
  kTherm : Nat
  logicW : Nat
  stackW : Nat
  deriving DecidableEq, Repr

def Trip.reset : Trip := ⟨false, 0, 0, 64, 0, 0⟩

/-- Maintenance actions (01 R40, Table 1-13 order 7). -/
inductive Maint where
  | microcode
  | retrain (sc : Nat)
  | swap (cluster : Nat)
  deriving DecidableEq, Repr

/-- A compute tile. -/
structure Tile where
  mxa : MxaRegs
  ve : VeRegs
  ue : UeRegs
  sc0 : Sc
  sc1 : Sc
  spare : Spare
  trip : Trip
  avail : Bool
  maint : List Maint
  deriving DecidableEq, Repr

def Tile.reset : Tile :=
  ⟨MxaRegs.reset, VeRegs.reset, UeRegs.reset, Sc.reset, Sc.reset, Spare.reset, Trip.reset, true, []⟩

end Sys2Proof.Machine
end

