-- ==== Sys2Proof/Machine/PartTypes.lean ====
section
/-! DEFINITION. What a partition holds (01 R25, 07, 08, 10, 13), on its lead tile where the spec says so. -/

namespace Sys2Proof.Machine

/-- A partition entry of an overlay record (10 Table 10-5), as the little-endian number of its 64 bytes. -/
abbrev PartEnt := BitVec 512

def PartEnt.tileMask (e : PartEnt) : Nat := bits e 0 8
def PartEnt.enc (e : PartEnt) : Bool := e.getLsbD 8
def PartEnt.formats (e : PartEnt) : Nat := bits e 16 8
def PartEnt.weaveWeight (e : PartEnt) : Nat := bits e 24 8
def PartEnt.period (e : PartEnt) : Nat := bits e 32 32
def PartEnt.ctxSlots (e : PartEnt) : Nat := bits e 64 16
def PartEnt.queueSlots (e : PartEnt) : Nat := bits e 80 16
def PartEnt.fenceSlots (e : PartEnt) : Nat := bits e 96 16
def PartEnt.inflight (e : PartEnt) : Nat := bits e 112 16
def PartEnt.mobjSlots (e : PartEnt) : Nat := bits e 128 32
def PartEnt.vcWeights (e : PartEnt) : Nat := bits e 160 32
def PartEnt.farBytes (e : PartEnt) : Nat := bits e 192 64
def PartEnt.lendPool (e : PartEnt) : Nat := bits e 256 64
def PartEnt.lscCtrl (e : PartEnt) : W64 := e.extractLsb' 320 64
def PartEnt.rndCtrl (e : PartEnt) : W64 := e.extractLsb' 384 64
def PartEnt.opPref (e : PartEnt) : Nat := bits e 448 24

/-- Round timing of a partition (10 R331 to R342, Tables 10-7 to 10-13). `period` and `ctrl` are in force, the
held values are what a read returns; `opened` is T_k, `len` the length P_k without stretch; `doneCost` sums cost × progress of
retired commands; the predicted end lies predNum / predDen ns after T_k, unknown while predDen is 0; `fixed` marks a formation or aligned
round, whose end no stretch moves; `firstQ` and `lastQ` are the queues admitted first in this round and in the last one before it that admitted. -/
structure Rounds where
  period : Nat
  periodHeld : Nat
  ctrl : W64
  ctrlHeld : W64
  index : W64
  indexHeld : Option W64
  align : Nat
  opened : Nat
  len : Nat
  stretch : Nat
  budget0 : Nat
  budget1 : Nat
  budget2 : Nat
  charged0 : Nat
  charged1 : Nat
  charged2 : Nat
  rounds : Nat
  sent : Nat
  late : Nat
  mismatch : Nat
  carried : Nat
  failed : Nat
  recv : Nat
  monitored : Bool
  applied : Bool
  slow : Nat
  lastQ : Option Nat
  doneCost : Nat
  predNum : Nat
  predDen : Nat
  fixed : Bool
  firstQ : Option Nat
  deriving DecidableEq, Repr

def Rounds.syncGroup (w : W64) : Nat := bits w 48 16
def Rounds.stretchMax (w : W64) : Nat := bits w 40 8
def Rounds.carryMax (w : W64) : Nat := bits w 36 4
def Rounds.ovrPolicy (w : W64) : Nat := bits w 34 2
def Rounds.stretchSlow (w : W64) : Bool := w.getLsbD 33
def Rounds.stretchEn (w : W64) : Bool := w.getLsbD 32
def Rounds.reserveNs (w : W64) : Nat := bits w 16 16 * 1000
def Rounds.minCharge (w : W64) : Nat := bits w 0 16
/-- The closing tick of the round (10 R331, Table 10-11). -/
def Rounds.nextTick (r : Rounds) : Nat := r.opened + r.len + r.stretch

/-- Loss-scale controller (07 R238 to R250, Tables 7-13 to 7-18). `decisions` keeps the decided flag of closed
rounds by the tick that opened them; `reports` counts the flags raised, `used` those of them that a latch or a tick has taken (11 R386). -/
structure Lsc where
  ctrl : W64
  ctrlHeld : W64
  k : Int
  jitLeft : Nat
  clean : Nat
  step : W64
  history : W64
  late : Nat
  floorHits : Nat
  disagree : Nat
  pubMissed : Nat
  gated : Bool
  latched : Bool
  pending : Bool
  reports : Nat
  used : Nat
  dr : Bool
  decisions : Tbl Bool
  stateHi : Option W32
  stateLo : Option W32
  stepHeld : Option W64
  pubVa : W64
  pubEn : Bool
  pubCtx : Nat
  deriving DecidableEq, Repr

def Lsc.cleanRun (w : W64) : Nat := bits w 48 16

/-- One group of hyperparameters (07 Table 7-20). -/
structure UpdGroup where
  eta : W32
  lambda : W32
  beta : W32
  deriving DecidableEq, Repr

def UpdGroup.reset : UpdGroup := ⟨0, 0, 0x3F666666⟩

/-- Update hyperparameters: in force, held for the tick, and the 64 groups (07 Tables 7-19, 7-20). -/
structure Upd where
  cur : UpdGroup
  held : UpdGroup
  groups : Tbl UpdGroup
  deriving DecidableEq, Repr

/-- The precision-alarm log (07 R251, Table 7-21): entries by HEAD count modulo 256. -/
structure AlarmLog where
  head : W32
  tail : W32
  drop : W32
  log : Tbl (List W8)
  deriving DecidableEq, Repr

/-- Far-memory entry of a borrower (08 Table 8-24): state 0 UNUSED 1 ACTIVE 2 DRAINING 3 FAILED; `armed` waits for
the tick, `asked` for the lender's answer. -/
structure Far where
  st : Nat
  subpages : Nat
  module : Nat
  base : Nat
  armed : Bool
  asked : Bool
  used : List Nat
  heard : Bool
  deriving DecidableEq, Repr

def Far.reset : Far := ⟨0, 0, 0xFFF, 0, false, false, [], false⟩

/-- Lend entry of a lender (08 Table 8-25): `taken` that the borrower's handshake was accepted, `release` that a release is held. -/
structure Lend where
  active : Bool
  subpages : Nat
  part : Nat
  borrower : Nat
  base : Nat
  armed : Bool
  taken : Bool
  release : Bool
  deriving DecidableEq, Repr

def Lend.reset : Lend := ⟨false, 0, 0, 0xFFF, 0, false, false, false⟩

/-- Partition memory registers (08 Tables 8-17 to 8-26). `migQ` is the queue of sub-pages to migrate, as object,
sub-page number and target tile, `migRun` the migrations under way in the order they started; `outing` says that free sub-pages fell
below LOW_PCT and have not reached HIGH_PCT. -/
structure Memp where
  mig : W32
  migHeld : W32
  pag : W32
  pagHeld : W32
  countMig : Nat
  countOut : Nat
  countIn : Nat
  countDirect : Nat
  countCancel : Nat
  probeVa : W64
  probeDone : Bool
  probeHit : Bool
  probeCtx : Nat
  pe0 : W64
  pe1 : W64
  spe : W64
  far : Tbl Far
  lend : Tbl Lend
  refused : Nat
  migQ : List (Nat × Nat × Nat)
  migRun : List (Nat × Nat)
  outing : Bool
  clock : Nat
  deriving DecidableEq, Repr

/-- Power preferences of a partition (13 Table 13-20): values in force and held. -/
structure Pwr where
  phase : Nat
  phaseHeld : Nat
  opPref : Nat
  opPrefHeld : Nat
  op : Nat
  deriving DecidableEq, Repr

/-- A partition (01 R25, R31). `drain` counts the ticks since its switch was requested: 0 not draining, 1 waiting for
its drain tick, 2 drained at a tick, 3 its following tick has passed. `key` is the memory key drawn when the partition was formed (08 R301). -/
structure Part where
  ent : PartEnt
  tiles : List Nat
  szt : List W64
  rnd : Rounds
  lsc : Lsc
  upd : Upd
  alarm : AlarmLog
  memp : Memp
  pwr : Pwr
  drain : Nat
  key : BitVec 512
  deriving DecidableEq, Repr

/-- The lead tile of a partition (07 R238). -/
def Part.lead (p : Part) : Nat := p.tiles.headD 0

end Sys2Proof.Machine
end

