-- ==== Sys2Proof/Machine/FabTypes.lean ====
section
/-! DEFINITION. Types of the hoop ports, the fabric and the collective engine (11), of the resilience engine (12). -/

namespace Sys2Proof.Machine

/-- States of a hoop port (11 Table 11-5). -/
inductive HpSt where
  | off
  | idleHold
  | training
  | hello
  | up
  | degraded
  | down
  deriving DecidableEq, Repr

/-- The code of a port state (11 Table 11-10). -/
def HpSt.code : HpSt → Nat
  | .off => 0 | .idleHold => 1 | .training => 2 | .hello => 3 | .up => 4 | .degraded => 5 | .down => 6

/-- A packet waiting to be sent: virtual channel, buffer class (0 A, 1 B, 2 D), whether it is forwarded, the flits
already sent. -/
structure TxPkt where
  vc : Nat
  cls : Nat
  fwd : Bool
  sent : Nat
  pkt : Pkt
  deriving DecidableEq, Repr

/-- A packet whose flits are still arriving on a virtual channel: header flit and data bytes so far (11 R360). -/
structure RxPart where
  head : List W8
  data : List W8
  left : Nat
  deriving DecidableEq, Repr

/-- The time record of an idle slot (11 R359). -/
structure TimeRec where
  time : Nat
  hops : Nat
  prio : Nat
  st : Nat
  source : Nat
  deriving DecidableEq, Repr

/-- A hoop port: registers of 11 Tables 11-9 to 11-14 and 11-22, and its link layer (11 R358 to R364).
`held` says that electrical idle is still held by the reset and clock controller; `shares` keeps what each share of R373 has had. `spare` is the idle trained
lane, 9 for none; `pos` gives the byte position that a lane carries, its own where not listed, 8 when idle; `laneEvt` is a move this end
announced, `laneRx` one that the peer did. -/
structure HPort where
  en : Bool
  channel : Bool
  spareAuto : Bool
  lane : Nat
  laneThresh : Nat
  st : HpSt
  peerId : Nat
  peerPort : Nat
  peerFwd : Bool
  miswired : Bool
  dimMismatch : Bool
  spare : Nat
  pos : Tbl Nat
  good : BitVec 9
  width : Nat
  toDegraded : Bool
  downs : Nat
  replays : Nat
  uncorr : Nat
  laneMoves : Nat
  arb : W32
  tx : Tbl Nat
  rx : Tbl Nat
  misdelivered : Nat
  fwdFlits : Nat
  eq : Tbl Nat
  eqTrained : Tbl Nat
  idle : Bool
  txSeq : Nat
  rxGood : Nat
  nak : Bool
  refusals : Nat
  replay : List (List W8)
  txq : List TxPkt
  credits : Tbl Nat
  owed : Tbl Nat
  parts : Tbl RxPart
  laneEvt : Option (Nat × Nat × Nat)
  laneRx : Option (Nat × Nat × Nat)
  timeRec : Option TimeRec
  sinceIdle : Nat
  shares : Tbl Nat
  deriving DecidableEq, Repr

/-- Pool sizes of 11 Table 11-3. -/
def poolSize : Nat → Nat
  | 0 => 2048 | 1 => 512 | 2 => 256 | 3 => 1024 | 4 => 512 | 5 => 256
  | 6 => 1024 | 7 => 512 | 8 => 256 | 9 => 128 | 10 => 64 | _ => 64

def HPort.reset : HPort :=
  { en := true, channel := false, spareAuto := true, lane := 0, laneThresh := 1000, st := .off, peerId := 0xFFF,
    peerPort := 0xF, peerFwd := false, miswired := false, dimMismatch := false, spare := 9, pos := [], good := 0, width := 0,
    toDegraded := false, downs := 0, replays := 0, uncorr := 0, laneMoves := 0, arb := 0x80010101, tx := [], rx := [],
    misdelivered := 0, fwdFlits := 0, eq := [], eqTrained := [], idle := true, txSeq := 0, rxGood := 0xFFFF,
    nak := false, refusals := 0, replay := [], txq := [], credits := [], owed := [], parts := [], laneEvt := none, laneRx := none,
    timeRec := none, sinceIdle := 0, shares := [] }

/-- What the link map records of a module (11 R370). -/
structure LinkEnt where
  down : BitVec 6
  fwdOnly : Bool
  seq : Nat
  deriving DecidableEq, Repr

/-- Why a MEM request was sent. -/
inductive MemWhy where
  | pageIn (ctx obj sub : Nat)
  | pageOut (obj sub : Nat)
  | direct (obj sub blk : Nat)
  | directW (ctx obj sub blk : Nat)
  | lend (part j : Nat)
  deriving DecidableEq, Repr

/-- An outstanding MEM request (11 R363): kept until answered, resent once. -/
structure MemReq where
  part : Nat
  entry : Nat
  dest : Nat
  pkt : Pkt
  resent : Bool
  why : MemWhy
  deriving DecidableEq, Repr

/-- Packets delivered to this module wait in `inbox`, with the port they came by, for their own step (log 26); those it sends to itself
stand under port 15; packets in transit without a route wait in `stuck`, with their port. `sync` keeps this module's copy of fabric time and the
source's at the last record of the upstream port. Fabric-wide state: HP0's fabric registers (11 Tables 11-15 to 11-17), the link map, peers. -/
structure Fab where
  ports : Tbl HPort
  routeEn : Bool
  dx : Nat
  dy : Nat
  dz : Nat
  sourceId : Nat
  priority : Nat
  hops : Nat
  upstream : Nat
  stepped : Bool
  st : Nat
  routeGen : Nat
  lostCount : Nat
  unreachable : Nat
  map : Tbl LinkEnt
  linkSeq : Nat
  recompute : Bool
  heard : List Nat
  lost : List Nat
  probeNo : Nat
  silent : Tbl Nat
  reqs : Tbl MemReq
  nextTag : Nat
  inbox : List (Nat × Pkt)
  mgmtRx : List (Nat × List W8)
  stuck : List (Nat × Pkt)
  sync : Option (Nat × Nat)
  deriving DecidableEq, Repr

def Fab.reset : Fab :=
  { ports := [], routeEn := false, dx := 1, dy := 1, dz := 1, sourceId := 0xFFF, priority := 0, hops := 0,
    upstream := 0xF, stepped := false, st := 0, routeGen := 0, lostCount := 0, unreachable := 0,
    map := [], linkSeq := 0, recompute := false, heard := [], lost := [], probeNo := 0, silent := [], reqs := [],
    nextTag := 0, inbox := [], mgmtRx := [], stuck := [], sync := none }

/-- A running collective of a group (11 R382 to R391). `vec` is the working vector, `t` the step it
stands at, `joined` the ranks that joined this epoch with their digests, `got` received pieces by (step, half, piece), `sent`
unacknowledged ones by (destination, step and half, piece), `dones` who has finished with which flag. -/
structure CollRun where
  q : Nat
  i : Nat
  seq : Nat
  ctrl : W64
  src : W64
  dst : W64
  count : Nat
  statusVa : W64
  root : Nat
  digest : W32
  restarted : Bool
  started : Nat
  joined : List (Nat × Nat)
  withdrawn : List Nat
  running : Bool
  t : Nat
  vec : List Nat
  got : List (Nat × Nat × Nat × List W8)
  sent : List (Nat × Nat × Nat × List W8)
  finished : Bool
  dones : List (Nat × Bool)
  sampled : Nat
  deriving DecidableEq, Repr

/-- A collective group slot (11 Table 11-18). -/
structure Group where
  timeoutMs : Nat
  dz : Nat
  dy : Nat
  dx : Nat
  id : Nat
  size : Nat
  part : Nat
  rank : Nat
  table : Nat
  st : Nat
  release : Bool
  seq : W32
  epoch : W32
  digested : List Nat
  heard : List Nat
  runs : List CollRun
  early : List Pkt
  deriving DecidableEq, Repr

def Group.reset : Group := ⟨0, 0, 0, 0, 0, 0, 0, 0, 0, 0, false, 0, 0, [], [], [], []⟩

/-- A group slot freed: what control software wrote stays. -/
def Group.freed (g : Group) : Group :=
  { Group.reset with timeoutMs := g.timeoutMs, dz := g.dz, dy := g.dy, dx := g.dx, id := g.id, size := g.size, part := g.part, rank := g.rank, table := g.table }

/-- A group whose release waited is freed once no collective is in flight (11 Table 11-18). -/
def Group.settle (g : Group) : Group := if g.release && g.runs.isEmpty then g.freed else g

/-- The collective engine (11 Tables 11-18, 11-19; 12 Table 12-13). -/
structure Cole where
  groups : Tbl Group
  completed : Nat
  restarts : Nat
  timeouts : Nat
  rejoin : W64
  rejoinHi : W64
  deriving DecidableEq, Repr

end Sys2Proof.Machine
end

