-- ==== Sys2Proof/Machine/RseTypes.lean ====
section
/-! DEFINITION. Types of the resilience engine (12). -/

namespace Sys2Proof.Machine

/-- An entry of a member's log ring or of a holding ring: SEQ, round, type, offset in the ring, length in bytes, ranks
that acknowledged it (12 R410 to R412). -/
structure LogEnt where
  seq : Nat
  round : Nat
  ty : Nat
  off : Nat
  len : Nat
  acked : List Nat
  deriving DecidableEq, Repr

/-- A snapshot in progress (12 R401 to R405): its round, whether this member froze, drained, the stripes whose shipped unit
is not acknowledged, the pieces combined by (stripe, source rank), the ranks that reported SNAP_DONE to the leader. -/
structure Snap where
  round : Nat
  frozen : Bool
  drained : Bool
  unacked : List (Nat × Nat)
  pieces : List (Nat × Nat × Nat)
  sentDone : Bool
  dones : List Nat
  deriving DecidableEq, Repr

/-- A rebuild on the spare (12 R417, R418): combinations received by (stripe, piece, chain), pieces written by (stripe, piece), the
log entry that is arriving by SEQ with its bytes so far, the holders whose answer to LOG_FETCH has not ended. -/
structure Rebuild where
  parts : List (Nat × Nat × Nat × List W8)
  solved : List (Nat × Nat)
  fetch : Tbl (Nat × List W8)
  asked : List Nat
  deriving DecidableEq, Repr

/-- A waling-group slot (12 Tables 12-6 to 12-12). `prot` are the protected sub-pages in shard order, as object slot and
sub-page, `areas` those of the rings and the parity area, `refs` the objects held; `base` and `snap` say where the BASE and SNAP copies lie;
`poolLeft` is the pair pool that no copy uses; `side` is the half of the parity area that is BASE, `holdPart` the entries still arriving
by owner and SEQ, `release` that a release waits for an operation to end. -/
structure Wg where
  walingId : Nat
  size : Nat
  parity : Bool
  rank : Nat
  context : Nat
  joining : Bool
  st : Nat
  shardUnits : Nat
  table : Nat
  snapCtrl : W64
  lostMask : BitVec 16
  rebuildMask : BitVec 16
  logStalls : Nat
  baseRound : W64
  epoch : W32
  log : W64
  hold : W64
  parityVa : W64
  input : W64
  stripesDone : Nat
  t : Nat
  rstate : Nat
  subst : W32
  regions : Tbl W64
  prot : List (Nat × Nat)
  areas : List (Nat × Nat)
  refs : List Nat
  base : List ((Nat × Nat) × Nat)
  snapAt : List ((Nat × Nat) × Nat)
  poolLeft : Nat
  digested : List Nat
  heard : List Nat
  snap : Option Snap
  logPos : Nat
  logSeq : Nat
  logEnts : List LogEnt
  holdPos : Nat
  holdEnts : List (Nat × LogEnt)
  rebuild : Option Rebuild
  side : Nat
  holdPart : List (Nat × Nat × List W8)
  release : Bool
  deriving DecidableEq, Repr

def Wg.reset : Wg :=
  { walingId := 0, size := 0, parity := false, rank := 0, context := 0, joining := false, st := 0, shardUnits := 0, table := 0,
    snapCtrl := 0x0140019010004004, lostMask := 0, rebuildMask := 0, logStalls := 0, baseRound := 0, epoch := 0, log := 0,
    hold := 0, parityVa := 0, input := 0, stripesDone := 0, t := 0, rstate := 0, subst := 0xFFF, regions := [], prot := [],
    areas := [], refs := [], base := [], snapAt := [], poolLeft := 0, digested := [], heard := [], snap := none, logPos := 0,
    logSeq := 0, logEnts := [], holdPos := 0, holdEnts := [], rebuild := none,
    side := 0, holdPart := [], release := false }

/-- A rebuild that a survivor has been told of (12 R417): destination module and rank, whether it is complete. -/
structure Journal where
  walingId : Nat
  rank : Nat
  dest : Nat
  complete : Bool
  deriving DecidableEq, Repr

/-- Cumulative counts that the risk estimate compares: corrected errors, lane events, droops, stack temperatures. -/
structure RiskSample where
  e : Nat
  l : Nat
  d : Nat
  temps : List Int
  deriving DecidableEq, Repr

/-- The resilience engine (12 Tables 12-4, 12-5). `hist` keeps the samples of the last second, newest first; `corr` counts
the on-chip errors corrected; `ests` counts estimates within the hour of R424. -/
structure Rse where
  risk : Nat
  riskCtrl : W32
  committed : Nat
  aborted : Nat
  unprotected : Nat
  rebuilds : Nat
  wgs : Tbl Wg
  journals : List Journal
  hist : List RiskSample
  corr : Nat
  ests : Nat
  deriving DecidableEq, Repr

def Rse.reset : Rse := ⟨0, 0x40011004, 0, 0, 0, 0, [], [], [], 0, 0⟩

end Sys2Proof.Machine
end

