-- ==== Sys2Proof/Machine/SysTypes.lean ====
section
/-! DEFINITION. Types of power control (13), of resets, boot, OTP and security (14), of management, storage and debug ports (15). -/

namespace Sys2Proof.Machine

/-- Energy of a context's last round and since its creation (13 Table 13-18). -/
structure CtxEnergy where
  pack : Nat
  compute : Nat
  total : Nat
  deriving DecidableEq, Repr

/-- Power and thermal controller (13 Tables 13-7 to 13-18). `floorIv` counts intervals with k_cap at its floor and the input
above the limit, `clamp` is the hub's overheat clamp, `fwHold` intervals the factors hold, `ticked` the partitions that take no new command (R448),
`wake` that a wake came during PS3 entry. -/
structure Ptc where
  vin : Nat
  iin : Nat
  pinW : Nat
  psilW : Nat
  hyst : Nat
  capW : Nat
  limitW : Nat
  capUnreached : Bool
  kCap : Nat
  throttleC : Nat
  holdCyc : Nat
  droopMv : Nat
  droops : Nat
  trips : Nat
  ibcFaults : Nat
  outletC : Int
  inletC : Int
  hubC : Int
  ibcOk : BitVec 4
  psPending : Bool
  psState : Nat
  wakeAddr : Nat
  psTarget : Nat
  hubUj : Nat
  partCap : Tbl Nat
  kPart : Tbl Nat
  eCtx : Tbl CtxEnergy
  ePart : Tbl (Nat × Nat)
  floorIv : Nat
  clamp : Bool
  fwHold : Nat
  alert : Bool
  thermTrip : Bool
  wake : Bool
  ticked : List Nat
  deriving DecidableEq, Repr

def Ptc.reset : Ptc :=
  { vin := 0, iin := 0, pinW := 0, psilW := 0, hyst := 2, capW := 3600, limitW := 3600, capUnreached := false, kCap := 64,
    throttleC := 100, holdCyc := 256, droopMv := 45, droops := 0, trips := 0, ibcFaults := 0, outletC := 0, inletC := 0,
    hubC := 0, ibcOk := 0xF, psPending := false, psState := 0, wakeAddr := 0x4C, psTarget := 0, hubUj := 0, partCap := [],
    kPart := [], eCtx := [], ePart := [], floorIv := 0, clamp := false, fwHold := 0, alert := false, thermTrip := false,
    wake := false, ticked := [] }

/-- Reset levels (14 R453). -/
inductive RstLevel where
  | core
  | sys
  | por
  deriving DecidableEq, Repr

/-- What holds the module in reset or without power (14 Table 14-2): nothing; SYS_RST_N low; until 50 V good; until IN_PG is
cycled and then 50 V good; PS3. -/
inductive Held where
  | no
  | sysRstN
  | needPower
  | needInPg
  | ps3
  deriving DecidableEq, Repr

/-- Reset and clock controller (14 Tables 14-10 to 14-13). `busyLevel` is the reset in progress until the blocks are released, `unlocked` the
clock domains without PLL lock (log 63), `coreStep` that a CORERST waits for its release, `wdtOff` a suspended watchdog. -/
structure Rstc where
  sysCount : Nat
  coreCount : Nat
  level : Nat
  source : Nat
  history : BitVec 15
  stable : BitVec 9
  pllFault : Bool
  hold : BitVec 9
  narbyMs : Nat
  unlocked : List Nat
  held : Held
  busyLevel : Option RstLevel
  coreStep : Bool
  wdtOff : Bool
  deriving DecidableEq, Repr

/-- The always-on state at a cold power-up; block releases follow in the start-up sequence. -/
def Rstc.reset : Rstc :=
  { sysCount := 0, coreCount := 0, level := 3, source := 0, history := 1, stable := 0, pllFault := false, hold := 0, narbyMs := 2000,
    unlocked := [], held := .no, busyLevel := some .por, coreStep := false, wdtOff := false }

/-- Option bytes in force (14 Table 14-3). -/
structure OptBytes where
  bootOverlay : Nat
  spiDiv : Nat
  addrMode : Nat
  pfx : Nat
  staticIp : W32
  gateway : W32
  recoverySrv : W32
  mgmtMac : Option (BitVec 48)
  smbusAddr : Nat
  debugPolicy : Nat
  hoopEn : BitVec 8
  timePriority : Nat
  wdtNarby : Nat
  wdtSec : Nat
  deriving DecidableEq, Repr

/-- The "absent" column of 14 Table 14-3. -/
def OptBytes.absent : OptBytes := ⟨0, 2, 0, 0, 0, 0, 0, none, 0x4C, 0, 0x3F, 0, 2000, 500⟩

/-- OTP controller (14 Tables 14-14, 10-14): what was read at start-up, the overlay switch request, and the entries
of the record in force or being switched to. `optBody`, `recBody` and `nextBody` are the bodies of the option bytes in force, of the overlay
record in force and of the one being switched to (14 R476). -/
structure Otpc where
  fuse : Option (BitVec 1024)
  fuseDone : Bool
  opt : OptBytes
  optValid : Bool
  optDone : Bool
  pending : Bool
  refused : Bool
  target : Nat
  cause : Nat
  ents : List PartEnt
  optBody : List W8
  recBody : List W8
  nextBody : List W8
  deriving DecidableEq, Repr

def Otpc.reset : Otpc := ⟨none, false, OptBytes.absent, false, false, false, false, 0, 0, [], [], [], []⟩

/-- Stages of the security processor (14 Table 14-19): 0 ROM, 1 recovery, 2 firmware, 3 Narby running, 4 handover. `image` and `block` are the
recovery image fetched so far and its last block (14 R471). -/
structure Boot where
  stage : Nat
  failType : Nat
  failReason : Nat
  romStarted : Bool
  phyPower : Bool
  idleReleased : Bool
  perst : Bool
  dramTrained : Bool
  selfTested : Bool
  restarting : Bool
  handover : Bool
  handoverRec : Nat
  narby : Bool
  block : Nat
  image : List W8
  deriving DecidableEq, Repr

def Boot.reset : Boot := ⟨0, 0, 0, false, false, false, true, false, false, false, false, 0, false, 0, []⟩

/-- A component in force or ready: SVN and BODY_DIGEST (14 R469, R476). -/
structure Comp where
  svn : Nat
  digest : BitVec 256
  head : List W8
  deriving DecidableEq, Repr

/-- SPDM connection of one path (14 R475, 15 R489): 0 nothing, 1 version, 2 capabilities, 3 negotiated. -/
structure Spdm where
  st : Nat
  transcript : List W8
  deriving DecidableEq, Repr

/-- Security processor (14 Tables 14-17 to 14-19): measurement registers, components in force by type, components loaded for a
later activation, where the copies of the Narby components lie by type, partition keys generated since POR (08 Table 8-22). -/
structure Secm where
  args : Tbl W64
  done : Bool
  refused : Bool
  reason : Nat
  nonce : BitVec 256
  meas : Tbl (BitVec 256)
  comps : Tbl Comp
  next : Tbl Comp
  places : Tbl (Nat × Nat)
  nextPlaces : Tbl (Nat × Nat)
  ucodeTiles : List Nat
  phyLanes : List (Nat × Nat)
  scPend : List Nat
  spdm : Tbl Spdm
  keyGen : Nat
  deriving DecidableEq, Repr

def Secm.reset : Secm := ⟨[], false, false, 0, 0, [], [], [], [], [], [], [], [], [], 0⟩

/-- Management port (15 R486, R487, Tables 15-6, 15-7): frames held by class in the receive buffer, the second that
the ROM responder counts in and its replies in it. -/
structure MgmtPort where
  link : Bool
  fec : Nat
  osOwner : Bool
  dropOs : Nat
  dropSvc : Nat
  dropRom : Nat
  svc : List (List W8)
  os : List (List W8)
  replies : Nat
  second : Nat
  deriving DecidableEq, Repr

def MgmtPort.reset : MgmtPort := ⟨false, 1, false, 0, 0, 0, [], [], 0, 0⟩

/-- Sideband (15 Table 15-8). -/
structure Sideband where
  pecErr : Nat
  nacks : Nat
  addr : Nat
  deriving DecidableEq, Repr

def Sideband.reset : Sideband := ⟨0, 0, 0x4C⟩

/-- PCIe root port (15 Tables 15-9, 15-10); windows as their 128-bit registers. -/
structure Pcie where
  ur : Nat
  downs : Nat
  width : Nat
  speed : Nat
  windows : Tbl (BitVec 128)
  deriving DecidableEq, Repr

def Pcie.reset : Pcie := ⟨0, 0, 0, 0, []⟩

/-- Debug port (15 Table 15-9, R498 to R501): the captured nonce, tokens waiting for the security processor, halted cores. -/
structure Dbg where
  fails : Nat
  lockedOut : Bool
  level : Nat
  nonce : BitVec 256
  waiting : List (List W8)
  halted : List Nat
  deriving DecidableEq, Repr

def Dbg.reset : Dbg := ⟨0, false, 0, 0, [], []⟩

/-- A key slot (14 R465). -/
structure KeySlot where
  hash : BitVec 256
  programmed : Bool
  revoked : Bool
  deriving DecidableEq, Repr

/-- OTP: programmed slots of reprogrammable records by 4 * type + generation, as header and body; key slots 0 to 3;
rollback counters by type; serial number, the certificate chain, whether the wrapped identity key is there (14 Table 14-4). -/
structure Otp where
  serial : W64
  slots : Tbl (List W8)
  keys : Tbl KeySlot
  counters : Tbl Nat
  idKey : Bool
  chain : List W8
  deriving DecidableEq, Repr

/-- A programmed generation slot: its 16-byte header and the body (14 R463). -/
def otpSlot (ty gen : Nat) (body : List W8) : List W8 :=
  let h := leBytes 1 ty ++ leBytes 1 gen ++ leBytes 2 0 ++ leBytes 4 body.length
  h ++ leBytes 4 (crc32 (h ++ body)).toNat ++ leBytes 4 0 ++ body

/-- Partition entry p of the base record as shipped (10 R349). -/
def baseEntry (p : Nat) : List W8 :=
  leBytes 1 (2 ^ p) ++ leBytes 1 0 ++ leBytes 1 0xFF ++ leBytes 1 1 ++ leBytes 4 10000000 ++ leBytes 2 8 ++ leBytes 2 128
    ++ leBytes 2 2048 ++ leBytes 2 2048 ++ leBytes 4 131072 ++ leBytes 4 0x01010101 ++ leBytes 8 0 ++ leBytes 8 0
    ++ leBytes 8 0x07D0101800000001 ++ leBytes 8 0xFFFF1944001403E8 ++ leBytes 4 0x077777 ++ leBytes 4 0

/-- An overlay record: header and 512 bytes of partition entries (10 Table 10-4). -/
def overlayBody (number flags : Nat) (ents : List W8) : List W8 :=
  leBytes 2 1 ++ leBytes 1 number ++ leBytes 1 flags ++ leBytes 4 (crc32 ents).toNat ++ leBytes 24 0 ++ ents

/-- The OTP as shipped (log 6): fuse map with entry 63 driven low (16 Table 16-1), the base record of 10 R349, overlays 1 to 6
with VALID clear, key slot 0 programmed; the option bytes, coefficients and repair records are not programmed. -/
def Otp.shipped : Otp :=
  { serial := 0,
    slots := [(4 * 0x01, otpSlot 0x01 0 (leBytes 128 (2 ^ 252))),
              (4 * 0x10, otpSlot 0x10 0 (overlayBody 0 1 ((List.range 8).flatMap baseEntry)))]
      ++ (List.range 6).map (fun k => (4 * (0x11 + k), otpSlot (0x11 + k) 0 (overlayBody (k + 1) 0 (leBytes 512 0)))),
    keys := [(0, ⟨0, true, false⟩)], counters := [], idKey := false, chain := [] }

end Sys2Proof.Machine
end

