-- ==== Sys2Proof/Machine/State.lean ====
section
/-! DEFINITION. The state of the block: the queue of waiting commands, the device, the OTP. Plain data. -/

namespace Sys2Proof.Machine

/-- The module's copy of fabric time (10 R330, Table 11-16) and the model's own counter of free values (log 10). -/
structure Clk where
  now : Nat
  free : Nat
  deriving DecidableEq, Repr

/-- Identity and layout registers (01 Tables 1-8, 1-9). -/
structure Hid where
  moduleId : Nat
  lock : Bool
  layoutGen : W8
  overlay : Nat
  deriving DecidableEq, Repr

/-- The event ring of control software (15 R485), with the interrupts raised by core (log 20). -/
structure Evt where
  en : Bool
  core : Nat
  head : W32
  tail : W32
  drop : W32
  ring : Tbl (List W8)
  irqs : Tbl Nat
  deriving DecidableEq, Repr

/-- A write of an engine that waits until its sub-pages can take it: context, tile, address, data, and whether it belongs to a snapshot's
round or an earlier one (08 R284, R292, R299; 12 R402). -/
structure PendWr where
  ctx : Nat
  tile : Nat
  va : Nat
  data : List W8
  old : Bool
  deriving DecidableEq, Repr

/-- DRAM: bytes by local physical address as their owner reads them (what the stack stores for a partition that encrypts is `Dev.rawByte`),
local sub-pages in use with their partition, quarters that hold an uncorrectable error and those that hold a correctable one, with
the failing row of both (08 Table 8-16), accesses counted by stack, blocks of 64 bytes fetched for accesses served in place, by object, sub-page
and block, engines' writes that wait (08). -/
structure Dram where
  bytes : Mem
  used : Tbl Nat
  bad : List Nat
  soft : List Nat
  rows : Tbl Nat
  accs : Tbl Nat
  direct : List ((Nat × Nat × Nat) × List W8)
  waiting : List PendWr
  deriving DecidableEq, Repr

/-- The device. `energy` counts the events of 13 Table 13-5 of the running rounds by tile, context and class (64 for no context); `flash` is the module's SPI flash, `out` the last answer on each outward path (log 20). -/
structure Dev where
  clk : Clk
  hid : Hid
  evt : Evt
  obj : Obj
  parts : Tbl Part
  tiles : Tbl Tile
  clusters : Tbl Cluster
  plaits : Tbl Plait
  groups : Tbl WGroup
  cpys : List Cpy
  rcache : Tbl (List (Nat × Nat))
  arrays : Tbl MArray
  slices : Tbl Slice
  saved : List Saved
  stops : List FaultStop
  energy : Tbl Nat
  mem : Dram
  fab : Fab
  cole : Cole
  rse : Rse
  ptc : Ptc
  rstc : Rstc
  otpc : Otpc
  boot : Boot
  secm : Secm
  mgmt : MgmtPort
  sb : Sideband
  pcie : Pcie
  dbg : Dbg
  flash : Mem
  out : Tbl (List W8)
  deriving DecidableEq, Repr

/-- The state: commands waiting first in first out, the device, the OTP. -/
structure State where
  pending : List Instr
  dev : Dev
  otp : Otp
  deriving DecidableEq, Repr

/-- No command stops the model with a fault: nobody raises one, which is safe (INVENTORY.md, Faults). -/
inductive Fault where
  deriving DecidableEq, Repr

/-- Why the model refuses a command. -/
inductive Refusal where
  /-- A command without a meaning; raised by no arm, which is safe. -/
  | notModelled (mnemonic : String)
  deriving DecidableEq, Repr

/-- The device at a cold power-up: 50 V good, every block in reset (14 R453, R472; log 7). -/
def Dev.reset : Dev :=
  { clk := ⟨0, 0⟩, hid := ⟨0xFFF, false, 0, 0⟩, evt := ⟨true, 0, 0, 0, 0, [], []⟩, obj := Obj.reset, parts := [], tiles := [],
    clusters := [], plaits := [], groups := [], cpys := [], rcache := [], arrays := [], slices := [], saved := [],
    stops := [], energy := [], mem := ⟨[], [], [], [], [], [], [], []⟩, fab := Fab.reset, cole := ⟨[], 0, 0, 0, 0x00000FFF00000000, 0⟩, rse := Rse.reset, ptc := Ptc.reset,
    rstc := Rstc.reset, otpc := Otpc.reset, boot := Boot.reset, secm := Secm.reset, mgmt := MgmtPort.reset, sb := Sideband.reset,
    pcie := Pcie.reset, dbg := Dbg.reset, flash := [], out := [] }

/-- The machine right after a cold power-up; no command waits. -/
def State.reset : State := ⟨[], Dev.reset, Otp.shipped⟩

end Sys2Proof.Machine
end

