-- ==== Sys2Proof/Machine/Ops.lean ====
section
/-! DEFINITION. Named operations over the device: free values, ignored sequences, events, tables by index, DRAM with
its uncorrectable quarters, the placement of sub-pages (08 R271 to R280). -/

namespace Sys2Proof.Machine

/-- The next free value, and the device with the counter of free values advanced (log 10). -/
def Dev.draw (d : Dev) : W64 := Config.free d.clk.free
def Dev.drew (d : Dev) : Dev := { d with clk := { d.clk with free := d.clk.free + 1 } }

/-- An ignored sequence: counted, with cause, source and detail (09 R328). -/
def Dev.ignore (cause source detail : Nat) (d : Dev) : Dev :=
  { d with obj := { d.obj with ignoredCount := d.obj.ignoredCount + 1, ignCause := cause, ignSource := source, ignDetail := detail % 2 ^ 48 } }

/-- Fabric time moves forward to t, never back (11 R376). -/
def Dev.at (d : Dev) (t : Nat) : Dev := { d with clk := { d.clk with now := max d.clk.now t } }

/-- An event of control software: appended to the ring while it is enabled and has room, and the chosen core
interrupted (15 R485, Table 15-2): code, partition or 0xFF, unit, detail. -/
def Dev.event (code part unit detail : Nat) (d : Dev) : Dev :=
  if d.evt.en then
    if (d.evt.head - d.evt.tail).toNat < 256 then
      let e := leBytes 1 code ++ leBytes 1 part ++ leBytes 2 unit ++ leBytes 4 0 ++ leBytes 8 d.clk.now ++ leBytes 8 detail ++ leBytes 8 d.evt.head.toNat
      { d with evt := { d.evt with ring := d.evt.ring.set (d.evt.head.toNat % 256) e, head := d.evt.head + 1,
                                   irqs := d.evt.irqs.set d.evt.core (d.evt.irqs.getD d.evt.core 0 + 1) } }
    else { d with evt := { d.evt with drop := d.evt.drop + 1 } }
  else d

def Dev.tile (d : Dev) (t : Nat) : Tile := d.tiles.getD t Tile.reset
def Dev.updTile (d : Dev) (t : Nat) (f : Tile → Tile) : Dev := { d with tiles := d.tiles.set t (f (d.tile t)) }
def Dev.cluster (d : Dev) (ck : Nat) : Cluster := d.clusters.getD ck Cluster.clear
def Dev.updCluster (d : Dev) (ck : Nat) (f : Cluster → Cluster) : Dev := { d with clusters := d.clusters.set ck (f (d.cluster ck)) }
def Dev.array (d : Dev) (k : Nat) : MArray := d.arrays.getD k MArray.clear
def Dev.updArray (d : Dev) (k : Nat) (f : MArray → MArray) : Dev := { d with arrays := d.arrays.set k (f (d.array k)) }
def Dev.slice (d : Dev) (k : Nat) : Slice := d.slices.getD k Slice.clear
def Dev.updSlice (d : Dev) (k : Nat) (f : Slice → Slice) : Dev := { d with slices := d.slices.set k (f (d.slice k)) }
def Dev.updPart (d : Dev) (p : Nat) (f : Part → Part) : Dev := { d with parts := d.parts.upd p f }
def Dev.updPlait (d : Dev) (k : Nat) (f : Plait → Plait) : Dev := { d with plaits := d.plaits.upd k f }
def Dev.setPlait (d : Dev) (k : Nat) (p : Plait) : Dev := { d with plaits := d.plaits.set k p }
def Dev.updCtx (d : Dev) (c : Nat) (f : Ctx → Ctx) : Dev := { d with obj := { d.obj with ctxs := d.obj.ctxs.upd c f } }
def Dev.updQueue (d : Dev) (q : Nat) (f : Queue → Queue) : Dev := { d with obj := { d.obj with queues := d.obj.queues.upd q f } }
def Dev.updCmd (d : Dev) (q i : Nat) (f : Cmd → Cmd) : Dev := d.updQueue q (fun u => { u with cmds := u.cmds.upd i f })
def Dev.cmd? (d : Dev) (q i : Nat) : Option Cmd := (d.obj.queues.get? q).bind (fun u => u.cmds.get? i)
def Dev.updMobj (d : Dev) (m : Nat) (f : MObj → MObj) : Dev := { d with obj := { d.obj with mobjs := d.obj.mobjs.upd m f } }
def Dev.updFence (d : Dev) (m : Nat) (f : Fence → Fence) : Dev := { d with obj := { d.obj with fences := d.obj.fences.upd m f } }
def Dev.updMemp (d : Dev) (p : Nat) (f : Memp → Memp) : Dev := d.updPart p (fun u => { u with memp := f u.memp })
def Dev.updLsc (d : Dev) (p : Nat) (f : Lsc → Lsc) : Dev := d.updPart p (fun u => { u with lsc := f u.lsc })
def Dev.updRounds (d : Dev) (p : Nat) (f : Rounds → Rounds) : Dev := d.updPart p (fun u => { u with rnd := f u.rnd })

/-- Entry j of a partition's size table; zero while the partition does not exist (01 R34). -/
def Dev.sztE (d : Dev) (p j : Nat) : W64 :=
  match d.parts.get? p with
  | some u => u.szt.getD j 0
  | none => 0

/-- The partition that owns a tile (01 Table 1-10). -/
def ownerOf (parts : Tbl Part) (tile : Nat) : Option Nat :=
  (parts.find? (fun kv => kv.2.tiles.contains tile)).map (fun kv => kv.1)

/-- Partition of a context. -/
def Dev.partOf (d : Dev) (c : Nat) : Nat := ((d.obj.ctxs.get? c).map (fun x => x.part)).getD 0

/-- A format permitted in a partition (01 R32). -/
def Dev.fmtOk (d : Dev) (p f : Nat) : Bool := (d.sztE p 14).getLsbD f

/-- Is a tile's clock stopped: tripped, or its CCLK without lock (13 R441; 14 R460)? Domains 0 to 7 are the CCLKs, 8 to 15 the UCLKs, 16 WCLK,
17 HCLK, 18 NCLK, 19 to 24 the link clocks (log 63). -/
def Dev.stopped (d : Dev) (tile : Nat) : Bool :=
  (d.tile tile).trip.trip || d.rstc.unlocked.contains tile || d.ptc.psState = 1 || d.ptc.psState = 2

/-- Do the update engines of a tile stand still? -/
def Dev.ueStopped (d : Dev) (tile : Nat) : Bool := (d.tile tile).trip.trip || d.rstc.unlocked.contains (8 + tile)

/-- Is a hub peripheral released and not held (14 R459)? -/
def Dev.blockUp (d : Dev) (b : Nat) : Bool := d.rstc.stable.getLsbD b && !d.rstc.hold.getLsbD b

/-! Energy events (13 R445, Table 13-5): counted by tile and context for the running round; context 64 stands for none. -/

def energyKey (tile ctx cls : Nat) : Nat := (tile * 65 + ctx) * 16 + cls
def Dev.spend (tile ctx cls n : Nat) (d : Dev) : Dev :=
  if n = 0 then d else { d with energy := d.energy.set (energyKey tile ctx cls) (d.energy.getD (energyKey tile ctx cls) 0 + n) }

/-- Hoop flits of a packet with n data bytes sent for a context of partition p, at its lead tile (13 Table 13-5, class 12). -/
def Dev.hoopSpend (p ctx n : Nat) (d : Dev) : Dev := Dev.spend (((d.parts.get? p).map Part.lead).getD 0) ctx 12 (1 + ceilDiv n 256) d

/-- Weave edges that traffic between two tiles crosses, columns first (01 R14, R15). -/
def weaveEdges (a b : Nat) : Nat := (max (a % 4) (b % 4) - min (a % 4) (b % 4)) + (if a / 4 = b / 4 then 0 else 1)

/-! Encryption (08 R300, R301). -/

/-- A data unit after one transposition. -/
def swapUnit (x : BitVec 512) (s : BitVec 512 × BitVec 512) : BitVec 512 := if x = s.1 then s.2 else if x = s.2 then s.1 else x
def xtsEnc (key : BitVec 512) (tweak : Nat) (x : BitVec 512) : BitVec 512 := (Config.xtsSwaps key tweak).foldl swapUnit x
def xtsDec (key : BitVec 512) (tweak : Nat) (x : BitVec 512) : BitVec 512 := (Config.xtsSwaps key tweak).reverse.foldl swapUnit x

/-- Units of 64 bytes under consecutive tweaks from t on, with fuel. -/
def xtsRun (f : Nat → BitVec 512 → BitVec 512) (t : Nat) : Nat → List W8 → List W8
  | 0, l => l
  | n + 1, l => leBytes 64 (f t (BitVec.ofNat 512 (leNat (l.take 64)))).toNat ++ xtsRun f (t + 1) n (l.drop 64)

/-- The key of a partition that encrypts. -/
def Dev.keyOf (d : Dev) (p : Nat) : Option (BitVec 512) := (d.parts.get? p).bind (fun u => if u.ent.enc then some u.key else none)
/-- The key under which a local sub-page is stored. -/
def Dev.locKey (d : Dev) (loc : Nat) : Option (BitVec 512) := (d.mem.used.get? loc).bind d.keyOf

/-- A byte as its stack stores it: of a sub-page in use by a partition that encrypts, the byte of its quarter's ciphertext, whose tweak is
the address bits 51:6 (08 R300). -/
def Dev.rawByte (d : Dev) (a : Nat) : W8 :=
  match d.locKey (a / 65536) with
  | none => d.mem.bytes.read a
  | some k => BitVec.ofNat 8 ((xtsEnc k (a / 64) (BitVec.ofNat 512 (d.mem.bytes.readLE (a / 64 * 64) 64))).toNat / 256 ^ (a % 64))
def Dev.rawRead (d : Dev) (a n : Nat) : List W8 := (List.range n).map (fun k => d.rawByte (a + k))

/-- What stored bytes stand for to the owner of the sub-page: whole quarters from a quarter's start on. -/
def Dev.fromRaw (d : Dev) (a : Nat) (l : List W8) : List W8 :=
  match d.locKey (a / 65536) with
  | none => l
  | some k => xtsRun (xtsDec k) (a / 64) (l.length / 64) l

/-! DRAM bytes (08 R271, R294, R295, R515). -/

/-- Sub-pages of partition memory in a stack, and all sub-pages of a stack (08 R270 to R272). -/
def stackData : Nat := 770048
def stackPages : Nat := 786432

/-- Does a range lie in one stack's share of the carve-out below its steering region (08 R272, 15 R482)? -/
def carveOk (a n : Nat) : Bool :=
  let s := stackPages * 65536
  decide (a / s < 16) && decide (0xBC0000000 ≤ a % s) && decide (a % s + n ≤ 0xBFC000000)

/-- Every bit of a register. -/
def ones64 : W64 := 0xFFFFFFFFFFFFFFFF#64
/-- Stack of a sub-page number. -/
def stackOf (loc : Nat) : Nat := loc / stackPages

/-- Does a range of n bytes touch a quarter with an uncorrectable error? -/
def Dev.badIn (d : Dev) (a n : Nat) : Bool := d.mem.bad.any (fun q => decide (a < q * 64 + 64) && decide (q * 64 < a + n))

/-- An uncorrectable error met in the carve-out raises its event (15 R484). -/
def Dev.carveEvent (d : Dev) (a : Nat) : Dev := d.event 0x07 0xFF (a / 65536 / stackPages) a

/-- Does a write of n bytes need the old bytes of a quarter in error (a partial quarter write, 08 R515)? -/
def Dev.badPartial (d : Dev) (a n : Nat) : Bool :=
  d.mem.bad.any (fun q => (decide (a < q * 64 + 64) && decide (q * 64 < a + n)) && !(decide (a ≤ q * 64) && decide (q * 64 + 64 ≤ a + n)))

/-- A stack's controller, by number. -/
def Dev.sc (d : Dev) (s : Nat) : Sc := if s % 2 = 0 then (d.tile (s / 2)).sc0 else (d.tile (s / 2)).sc1
def Dev.updStack (d : Dev) (s : Nat) (f : Sc → Sc) : Dev :=
  d.updTile (s / 2) (fun t => if s % 2 = 0 then { t with sc0 := f t.sc0 } else { t with sc1 := f t.sc1 })

/-- Counts the bytes an access moves at its stack controller (08 Table 8-13). -/
def Dev.countBytes (rd : Bool) (a n : Nat) (d : Dev) : Dev :=
  d.updStack (a / 65536 / stackPages) (fun c => if rd then { c with bytesRd := wrapAdd 64 c.bytesRd n } else { c with bytesWr := wrapAdd 64 c.bytesWr n })

/-- Die, channel and bank of a remap entry (08 Table 8-16). -/
def remapBank (w : Nat) : Nat := w / 2 ^ 17 % 2 ^ 15

/-- Starts the repair of a row onto a spare of its bank, or sets REMAP_FULL (08 R297). -/
def Sc.repair (c : Sc) (row : Nat) : Sc :=
  if c.remap.any (fun kv => kv.2 = row) then c
  else
    let used := (c.remap.filter (fun kv => kv.2 ≥ 2 ^ 63 && remapBank kv.2 = remapBank row)).length
    match (List.range 256).find? (fun i => c.remap.getD i 0 < 2 ^ 63) with
    | some i => if 8 ≤ used then { c with remapFull := true }
        else { c with remap := c.remap.set i row, repairing := c.repairing ++ [i], sparesUsed := satAdd 0xFFFF c.sparesUsed 1 }
    | none => { c with remapFull := true }

/-- A corrected error of a row: counted, and at THRESH of them in one scrub period the row is repaired (08 R294, R297). -/
def Sc.correct (c : Sc) (row : Nat) : Sc :=
  let n := c.rowErrs.getD row 0 + 1
  let c : Sc := { c with corrected := wrapAdd 32 c.corrected 1, rowErrs := c.rowErrs.set row n }
  if c.thresh ≤ n then c.repair row else c

/-- An uncorrectable error that a read finds: counted, its row repaired (08 R297). -/
def Sc.uncorrect (c : Sc) (row : Option Nat) : Sc :=
  let c : Sc := { c with uncorrectable := satAdd 0xFFFF c.uncorrectable 1 }
  match row with | some r => c.repair r | none => c

/-- An error strikes a DRAM quarter: beyond correction, or one that the next reader corrects (08 R294, R515). -/
def Dev.strikeDram (d : Dev) (q row : Nat) (hard : Bool) : Dev :=
  let m := d.mem
  let soft := m.soft.filter (fun x => x != q)
  let bad := m.bad.filter (fun x => x != q)
  { d with mem := { m with rows := m.rows.set q row, bad := if hard || m.bad.contains q then bad ++ [q] else bad,
                           soft := if hard || m.bad.contains q then soft else soft ++ [q] } }

/-- Quarters of a list that a range of n bytes touches. -/
def quartersIn (l : List Nat) (a n : Nat) : List Nat := l.filter (fun q => decide (a < q * 64 + 64) && decide (q * 64 < a + n))

/-- The controllers' part in a read of n bytes: bytes counted, errors of its quarters corrected and counted, or found beyond correction
(08 R294, R295, R515; Tables 8-12, 8-13). -/
def Dev.loadAt (a n : Nat) (d : Dev) : Dev :=
  let st (q : Nat) : Nat := q / 1024 / stackPages
  let d := Dev.countBytes true a n d
  let d := (quartersIn d.mem.soft a n).foldl (fun (d : Dev) q => d.updStack (st q) (fun c => c.correct (d.mem.rows.getD q 0))) d
  (quartersIn d.mem.bad a n).foldl (fun (d : Dev) q => d.updStack (st q) (fun c => c.uncorrect (d.mem.rows.get? q))) d

/-- Lines that a stack's steering region holds at most (08 R272, R299). -/
def steerLines : Nat := 262144

/-- Lines of 256 bytes that a range touches. -/
def linesOf (a n : Nat) : List Nat := (List.range ((a + n + 255) / 256 - a / 256)).map (fun k => a / 256 + k)

/-- Does an access to n bytes of one stack stall because a retraining window is open there: a load of a line that the steering region
does not hold, a store for whose lines the region has no room (08 R299)? -/
def Dev.retrainStalls (d : Dev) (a n : Nat) (store : Bool) : Bool :=
  let c := d.sc (a / 65536 / stackPages)
  let fresh := (linesOf a n).filter (fun l => !c.steered.contains l)
  c.st == .retrain && (if store then !fresh.isEmpty && decide (steerLines < c.steered.length + fresh.length) else !fresh.isEmpty)

/-- A store to a stack in its retraining window goes to the steering region: its lines are held there (08 R299). -/
def Dev.steer (a n : Nat) (d : Dev) : Dev :=
  let s := a / 65536 / stackPages
  if (d.sc s).st != .retrain then d else
  d.updStack s (fun c => { c with steered := (linesOf a n).foldl (fun l k => if l.contains k then l else l ++ [k]) c.steered })

/-- Writes bytes to DRAM; quarters wholly rewritten lose their error (08 R515). -/
def Dev.dramWrite (d : Dev) (a : Nat) (l : List W8) : Dev :=
  let n := l.length
  let keeps (q : Nat) : Bool := !(decide (a ≤ q * 64) && decide (q * 64 + 64 ≤ a + n))
  Dev.steer a n <|
  Dev.countBytes false a n
    { d with mem := { d.mem with bytes := d.mem.bytes.writeN a l, bad := d.mem.bad.filter keeps, soft := d.mem.soft.filter keeps } }

def Dev.dramRead (d : Dev) (a n : Nat) : List W8 := d.mem.bytes.readN a n

/-- Fills a sub-page with zeros (08 R278, R515). -/
def Dev.zeroSub (d : Dev) (loc : Nat) : Dev :=
  { d with mem := { d.mem with bytes := d.mem.bytes.clear (loc * 65536) 65536,
                               bad := d.mem.bad.filter (fun q => q / 1024 != loc), soft := d.mem.soft.filter (fun q => q / 1024 != loc) } }

/-- Copies a sub-page; its errors stay behind. -/
def Dev.copySub (d : Dev) (src dst : Nat) : Dev :=
  { d with mem := { d.mem with bytes := d.mem.bytes.paste (dst * 65536) 65536 (d.mem.bytes.slice (src * 65536) 65536),
                               bad := d.mem.bad.filter (fun q => q / 1024 != dst), soft := d.mem.soft.filter (fun q => q / 1024 != dst) } }

/-! Placement (08 R276, R280). -/

/-- Lend-pool sub-pages that lie in stack s: the pool fills the partition's stacks from the last one downward (log 24). -/
def poolIn (u : Part) (s : Nat) : Nat :=
  let n := u.ent.lendPool / 65536
  let last := 2 * (u.tiles.getLastD 0) + 1
  if last < s then 0 else min stackData (n - (last - s) * stackData)

/-- Sub-pages in use on stack s. -/
def Dev.usedIn (d : Dev) (s : Nat) : Nat := (d.mem.used.filter (fun kv => stackOf kv.1 = s)).length

/-- Copies that the protected sub-pages on stack s may still take from their pair pools (12 R396, R400). -/
def Dev.pairsOn (d : Dev) (s : Nat) : Nat :=
  ((d.rse.wgs.filter (fun w => w.2.st != 0)).map (fun w =>
    (w.2.prot.map (fun o => match d.obj.mobjs.get? o.1 with
      | none => 0
      | some m =>
        let u := m.subs.getD o.2 Sub.absent
        if u.st == .absent || stackOf u.loc != s then 0
        else 2 - ((w.2.base ++ w.2.snapAt).filter (fun e => e.1 = o && e.2 != u.loc)).eraseDups.length)).foldl (· + ·) 0)).foldl (· + ·) 0

/-- Free sub-pages of stack s for its partition. -/
def Dev.freeIn (d : Dev) (u : Part) (s : Nat) : Nat := stackData - poolIn u s - d.usedIn s - d.pairsOn s

/-- Lowest number from k on that is not a key, with fuel. -/
def firstFree {α : Type} (t : Tbl α) : Nat → Nat → Nat
  | 0, k => k
  | n + 1, k => match t.get? k with | some _ => firstFree t n (k + 1) | none => k

/-- Local sub-pages in use by partition p (page tables, data, old code copies). -/
def Dev.usedBy (d : Dev) (p : Nat) : Nat := (d.mem.used.filter (fun kv => kv.2 = p)).length

/-- Sub-pages of the pair pool of the partition's waling slot that no copy uses: they count against its memory (12 R400). -/
def Dev.poolLeft (d : Dev) (p : Nat) : Nat := ((d.rse.wgs.get? p).map (fun w => w.poolLeft)).getD 0

/-- Free local sub-pages of partition p: its quota less what is in use (08 Table 8-20). -/
def Dev.localFree (d : Dev) (p : Nat) : Nat := (d.sztE p 15).toNat / 65536 - d.usedBy p - d.poolLeft p

/-- Sub-pages of the objects of partition p, with object and number. -/
def Dev.subsOf (d : Dev) (p : Nat) : List ((Nat × Nat) × Sub) :=
  (d.obj.mobjs.filter (fun kv => kv.2.part = p)).flatMap (fun kv => kv.2.subs.map (fun s => ((kv.1, s.1), s.2)))

/-- Room held by pinned ABSENT sub-pages (08 R291). -/
def Dev.heldRoom (d : Dev) (p : Nat) : Nat := ((d.subsOf p).filter (fun s => s.2.st == .absent && s.2.pins != 0)).length

/-- Free local sub-pages that no pin holds. -/
def Dev.room (d : Dev) (p : Nat) : Nat := d.localFree p - d.heldRoom p

/-- Tiles of a partition in the order searched from tile t (08 R280). -/
def searchOrder (u : Part) (t : Nat) : List Nat := u.tiles.filter (fun x => decide (t ≤ x)) ++ u.tiles.filter (fun x => decide (x < t))

/-- The sub-page that the rule of 08 R280 picks for tile t: on its stack with more free sub-pages, else on the next tile's. -/
def Dev.placeFor (d : Dev) (p t : Nat) : Option Nat :=
  (d.parts.get? p).bind (fun u => (searchOrder u t).findSome? (fun x =>
    let f0 := d.freeIn u (2 * x)
    let f1 := d.freeIn u (2 * x + 1)
    let s := if f0 < f1 then 2 * x + 1 else 2 * x
    if f0 = 0 && f1 = 0 then none else some (firstFree d.mem.used d.mem.used.length (s * stackPages))))

/-- An allocation on behalf of tile t, beside the room that pins hold (08 R280, R291). -/
def Dev.pickSub (d : Dev) (p t : Nat) : Option Nat := if d.room p = 0 then none else d.placeFor p t

/-- The allocation of a pinned ABSENT sub-page, whose pin holds room for it (08 R291). -/
def Dev.pickHeld (d : Dev) (p t : Nat) : Option Nat := if d.localFree p = 0 then none else d.placeFor p t

/-- Takes a sub-page into use. -/
def Dev.takeSub (d : Dev) (loc p : Nat) : Dev := { d with mem := { d.mem with used := d.mem.used.set loc p } }
/-- Returns a sub-page to the allocator. What its stack stores stays: of a partition that encrypts, ciphertext (08 R300, R301). -/
def Dev.freeSub (d : Dev) (loc : Nat) : Dev :=
  let m := if (d.locKey loc).isSome then d.mem.bytes.writeN (loc * 65536) (d.rawRead (loc * 65536) 65536) else d.mem.bytes
  { d with mem := { d.mem with used := d.mem.used.del loc, bytes := m } }

/-- Page-table bytes of a set of mapped 2 MiB pages (08 R276): root, directories, page directories, sub-page tables (log 15). -/
def ptBytes (pages : Tbl Page) : Nat :=
  let ks := pages.map (fun kv => kv.1)
  let n3 := (ks.map (fun k => k / 2 ^ 27)).eraseDups.length
  let n2 := (ks.map (fun k => k / 2 ^ 18)).eraseDups.length
  let n1 := (ks.map (fun k => k / 2 ^ 9)).eraseDups.length
  2048 + 4096 * n3 + 4096 * n2 + 8192 * n1 + 256 * ks.length

/-- Takes n sub-pages on the lead tile for page tables; none when they cannot all be had (08 R276). -/
def Dev.takePt (d : Dev) (p : Nat) : Nat → Option (List Nat × Dev)
  | 0 => some ([], d)
  | n + 1 =>
    match d.pickSub p (((d.parts.get? p).map Part.lead).getD 0) with
    | none => none
    | some loc =>
      match Dev.takePt (d.takeSub loc p) p n with
      | none => none
      | some (l, d') => some (loc :: l, d')

/-- What a new set of pages meets: it is in place, or a number of sub-pages must be freed for its page tables first. -/
inductive PtRes where
  | ok (d : Dev)
  | need (n : Nat)

/-- Gives a context a new set of pages, taking or returning page-table sub-pages (08 R276, 09 R322). -/
def Dev.setPages (d : Dev) (c : Nat) (pages : Tbl Page) : PtRes :=
  match d.obj.ctxs.get? c with
  | none => .ok d
  | some x =>
    let need := ceilDiv (ptBytes pages) 65536
    let have_ := x.ptLocs.length
    if need ≤ have_ then
      let d := (x.ptLocs.drop need).foldl Dev.freeSub d
      .ok (d.updCtx c (fun x => { x with pages := pages, ptLocs := x.ptLocs.take need }))
    else
      match d.takePt x.part (need - have_) with
      | none => .need (max 1 (need - have_ - d.room x.part))
      | some (l, d) => .ok (d.updCtx c (fun x => { x with pages := pages, ptLocs := x.ptLocs ++ l }))

/-- Sub-page of an object. -/
def MObj.sub (m : MObj) (k : Nat) : Sub := m.subs.getD k Sub.absent

/-- Object slot and sub-page number that virtual sub-page k of a context names (08 R277). -/
def Ctx.where_ (x : Ctx) (k : Nat) : Option (Nat × Nat) :=
  (x.pages.get? (k / 32)).map (fun pg => (pg.obj, pg.idx * 32 + k % 32))

/-- Entry of a sub-page, by object and number. -/
def Dev.osub (d : Dev) (o : Nat × Nat) : Sub :=
  match d.obj.mobjs.get? o.1 with
  | some m => m.sub o.2
  | none => Sub.absent

/-- Entry of virtual sub-page k of a context, ABSENT when nothing is mapped there. -/
def Dev.sub (d : Dev) (x : Ctx) (k : Nat) : Sub :=
  match x.where_ k with
  | some o => d.osub o
  | none => Sub.absent

/-- Rewrites the entry of a sub-page, by object and number. -/
def Dev.updSub (d : Dev) (o : Nat × Nat) (f : Sub → Sub) : Dev :=
  d.updMobj o.1 (fun m => { m with subs := m.subs.set o.2 (f (m.sub o.2)) })

end Sys2Proof.Machine
end

