-- ==== Sys2Proof/Machine/Route.lean ====
section
/-! DEFINITION. Routing over the map of links (11 R353, R354, R369, R370) and the sending of packets (11 R368, R371). -/

namespace Sys2Proof.Machine

/-- Coordinate of module id m in dimension k (11 R354). -/
def coord (m k : Nat) : Nat := (m >>> (4 * k)) % 16
def withCoord (m k v : Nat) : Nat := m - (coord m k) * 2 ^ (4 * k) + v * 2 ^ (4 * k)
/-- Size of dimension k. -/
def Fab.dim (f : Fab) (k : Nat) : Nat := if k = 0 then f.dx else if k = 1 then f.dy else f.dz

/-- Neighbour of m in dimension k, in the + direction or the − direction. -/
def Fab.nb (f : Fab) (m k : Nat) (plus : Bool) : Nat :=
  let n := f.dim k
  withCoord m k ((coord m k + (if plus then 1 else n - 1)) % n)

/-- The port that faces a direction of a dimension (11 R353). -/
def portOf (k : Nat) (plus : Bool) : Nat := 2 * k + (if plus then 1 else 0)

/-- A port that carries all virtual channels (11 R367, R370). -/
def HPort.carries (p : HPort) : Bool := (p.st == .up || p.st == .degraded) && !p.miswired && !p.dimMismatch

/-- Does a port carry packets at all: UP or DEGRADED? -/
def HPort.on (h : HPort) : Bool := h.st == .up || h.st == .degraded

def Fab.port (f : Fab) (p : Nat) : HPort := f.ports.getD p HPort.reset

/-- Has a position reported no ports of its own: nothing is known of it, or a HELLO only, of a module that forwards straight through
(11 R368, R370; log 109)? -/
def Fab.mute (f : Fab) (self m : Nat) : Bool :=
  m != self && (match f.map.get? m with
    | some e => e.fwdOnly && e.seq = 0
    | none => true)

/-- Is port p of module m reported up? -/
def Fab.portUp (f : Fab) (self m p : Nat) : Bool :=
  if m = self then (f.port p).carries
  else match f.map.get? m with
    | some e => !e.down.getLsbD p
    | none => false

/-- Is the link from m in a direction up: both of its ports reported, that of a mute module by its neighbour, whose own port is up only once it
has had a HELLO (11 R370; log 109)? For MGMT and STRETCH a port of this module carries that is up at all (11 R367). -/
def Fab.linkUp (f : Fab) (ctl : Bool) (self m k : Nat) (plus : Bool) : Bool :=
  let a := f.nb m k plus
  let mine := f.portUp self m (portOf k plus)
  let yours := f.portUp self a (portOf k (!plus))
  (ctl && ((m = self && (f.port (portOf k plus)).on) || (a = self && (f.port (portOf k (!plus))).on)))
  || (if f.mute self m then !f.mute self a && yours else if f.mute self a then mine else mine && yours)

/-- Does module m forward straight through: ROUTE_EN is 0, it has no identifier, or nothing else is known of it (01 R30, 11 R368, R370)? -/
def Fab.fwdOnly (f : Fab) (self m : Nat) : Bool :=
  if m = self then !f.routeEn || self = 0xFFF else match f.map.get? m with
    | some e => e.fwdOnly
    | none => true

/-- Are the next n links of the hoop open? -/
def Fab.segOk (f : Fab) (ctl : Bool) (self : Nat) (k : Nat) (plus : Bool) : Nat → Nat → Bool
  | _, 0 => true
  | m, n + 1 => f.linkUp ctl self m k plus && Fab.segOk f ctl self k plus (f.nb m k plus) n

/-- Breaks of the hoop through m in dimension k: links down next to each other, as beside an absent module, are one (11 R370). -/
def Fab.breaks (f : Fab) (ctl : Bool) (self m k : Nat) : Nat :=
  let up (v : Nat) : Bool := f.linkUp ctl self (withCoord m k v) k true
  let n := f.dim k
  let starts := ((List.range n).filter (fun v => !up v && up ((v + n - 1) % n))).length
  if (List.range n).any up then starts else 1

/-- Steps from m to dest in dimension k going one way. -/
def Fab.steps (f : Fab) (m dest k : Nat) (plus : Bool) : Nat :=
  let n := f.dim k
  if plus then (coord dest k + n - coord m k) % n else (coord m k + n - coord dest k) % n

/-- Dimensions still to be resolved, in order; copy 1 of STRETCH takes them in reverse (11 R374). -/
def Fab.todo (f : Fab) (m dest : Nat) (rev : Bool) : List Nat := (if rev then [2, 1, 0] else [0, 1, 2]).filter (fun k => f.steps m dest k true != 0)

/-- The shorter way, + on a tie (11 R369). -/
def Fab.way (f : Fab) (m dest k : Nat) : Bool := decide (2 * f.steps m dest k true ≤ f.dim k)

/-- The hop of a packet for dest at module m that has taken no detour: dimension, direction, and whether it goes straight on (0), steps aside
of a down link (1) or turns one hop early (2) (11 R369, R370; log 25). -/
def Fab.hop (f : Fab) (ctl : Bool) (self m dest : Nat) (rev : Bool) : Option (Nat × Bool × Nat) :=
  match f.todo m dest rev with
  | [] => none
  | k :: rest =>
    let up := f.linkUp ctl self
    let way := f.way m dest k
    let n := f.steps m dest k way
    let turn := f.fwdOnly self (withCoord m k (coord dest k))
    let open_ := f.segOk ctl self k way m n
    if turn && rest.isEmpty then none
    else if open_ && !turn then some (k, way, 0)
    else if !open_ && !turn && f.breaks ctl self m k = 1 && f.segOk ctl self k (!way) m (f.steps m dest k (!way)) then some (k, !way, 0)
    else if up m k way && (1 < n) then some (k, way, 0)
    else if turn && up m k way then
      match rest with
      | [] => none
      | b :: _ =>
        let w := f.way m dest b
        if up m b w && up (f.nb m b w) k way then some (b, w, 2) else none
    else
      ([0, 1, 2].filter (fun e => e != k && decide (1 < f.dim e))).findSome? (fun e =>
        [true, false].findSome? (fun w =>
          let a := f.nb m e w
          if up m e w && up a k way && up (f.nb a k way) e (!w) then some (e, w, 1) else none))

/-- Dimension and direction in which a packet for dest crosses beside the module that it left by a detour. -/
def Fab.across (f : Fab) (m dest : Nat) (rev : Bool) : Option (Nat × Bool) := (f.todo m dest rev).head?.map (fun k => (k, f.way m dest k))

/-- The hop of a DETOURED packet that came to m in a dimension and direction: it crosses after its step aside or early turn, steps back
after crossing, and otherwise goes on in dimension order without another detour (11 R370). -/
def Fab.hopDet (f : Fab) (ctl : Bool) (self m dest : Nat) (arr : Option (Nat × Bool)) (rev : Bool) : Option (Nat × Bool) :=
  let plain := match f.hop ctl self m dest rev with
    | some (k, w, 0) => some (k, w)
    | _ => none
  match arr with
  | none => plain
  | some (j, dir) =>
    let prev := f.nb m j (!dir)
    match f.hop ctl self prev dest rev with
    | some (e, w, n + 1) => if e = j && w = dir then f.across prev dest rev else plain
    | _ =>
      let back := [0, 1, 2].findSome? (fun e => [true, false].findSome? (fun w =>
        let m0 := f.nb prev e (!w)
        if e != j && f.hop ctl self m0 dest rev = some (e, w, 1) && f.across m0 dest rev = some (j, dir) then some (e, !w) else none))
      match back with
      | some b => some b
      | none => plain

/-- The hop that a packet takes at m: dimension, direction, whether it is DETOURED from there on. -/
def Fab.next (f : Fab) (ctl : Bool) (self m dest : Nat) (det : Bool) (arr : Option (Nat × Bool)) (rev : Bool) : Option (Nat × Bool × Bool) :=
  if det then (f.hopDet ctl self m dest arr rev).map (fun h => (h.1, h.2, true))
  else (f.hop ctl self m dest rev).map (fun h => (h.1, h.2.1, decide (0 < h.2.2)))

/-- Is dest reached from m, with fuel? -/
def Fab.reach (f : Fab) (self dest : Nat) : Nat → Nat → Bool → Option (Nat × Bool) → Bool
  | 0, _, _, _ => false
  | n + 1, m, det, arr =>
    if m = dest then !f.fwdOnly self dest
    else match f.next false self m dest det arr false with
      | none => false
      | some (k, w, d) => Fab.reach f self dest n (f.nb m k w) d (some (k, w))

def Fab.reachable (f : Fab) (self dest : Nat) : Bool := f.reach self dest 40 self false none

/-- All positions of the fabric. -/
def Fab.positions (f : Fab) : List Nat :=
  (List.range f.dz).flatMap (fun z => (List.range f.dy).flatMap (fun y => (List.range f.dx).map (fun x => x + 16 * y + 256 * z)))

def Fab.updPort (f : Fab) (p : Nat) (g : HPort → HPort) : Fab := { f with ports := f.ports.set p (g (f.port p)) }
def Dev.updPort (d : Dev) (p : Nat) (g : HPort → HPort) : Dev := { d with fab := d.fab.updPort p g }

/-- Virtual channel of a packet type (11 Table 11-4): 0 COLL, 1 MEM, 2 STATE, 3 CTRL. -/
def vcOf (ty : Nat) : Nat := if ty < 0x10 then 3 else if ty < 0x20 then 1 else if ty < 0x30 then 0 else 2

/-- Does the hop from m cross the dateline of its dimension (11 R369)? -/
def Fab.dateline (f : Fab) (m k : Nat) (plus : Bool) : Bool :=
  if plus then coord m k + 1 == f.dim k else coord m k == 0

/-- Puts a packet on the transmit queue of a port, in a buffer class. -/
def Dev.queueOn (d : Dev) (p cls : Nat) (fwd : Bool) (k : Pkt) : Dev :=
  d.updPort p (fun h => { h with txq := h.txq ++ [⟨vcOf k.ty, cls, fwd, 0, k⟩] })

/-- Dimension and direction in which a packet travels that came in by a port: the − port faces the module it came from in the + direction. -/
def arrivalOf (p : Nat) : Nat × Bool := (p / 2, p % 2 = 0)

/-- Has a packet that arrived by a port crossed the dateline with its last hop? -/
def Fab.crossed (f : Fab) (self p : Nat) : Bool :=
  let a := arrivalOf p
  f.dateline (f.nb self a.1 (!a.2)) a.1 a.2

/-- Routes a packet at this module, by the port it came in by: own packets start in class A; past the dateline of a dimension it travels in
class B until it turns, a detour travels in class D (11 R369, R370). A packet in transit without a route waits in `stuck` for the next
recomputation; an own one has no destination (11 R370, R372; log 25). -/
def Dev.route (d : Dev) (fwd : Bool) (arr : Option Nat) (k : Pkt) : Dev :=
  let self := d.hid.moduleId
  let rev := k.ty = 3 && bits k.args 112 8 = 1
  match d.fab.next (k.ty = 3 || k.ty = 7) self self (k.dest.toNat % 4096) (k.flags.getLsbD 1) (arr.map arrivalOf) rev with
  | none => if fwd then { d with fab := { d.fab with stuck := d.fab.stuck ++ [(arr.getD 15, k)] } } else d
  | some (dim, w, det) =>
    let same := match arr with
      | some p => p / 2 = dim && (k.flags.getLsbD 2 || d.fab.crossed self p)
      | none => false
    let cls := if det then 2 else if same then 1 else 0
    let fl : W8 := (k.flags &&& 0xF9#8) ||| (if cls = 2 then 2#8 else if cls = 1 then 4#8 else 0#8)
    d.queueOn (portOf dim w) cls fwd { k with flags := fl, hops := k.hops + (if fwd then 1 else 0) }

/-- The packets that found no route are routed again (11 R372). -/
def Dev.unstick (d : Dev) : Dev :=
  d.fab.stuck.foldl (fun (d : Dev) x => d.route true (if x.1 = 15 then none else some x.1) x.2) { d with fab := { d.fab with stuck := [] } }

/-- This module sends a packet of its own to a module and partition: none but directed CTRL while it has no identifier or forwards
straight through (01 R30, 11 R368); a packet to itself waits in `inbox` (log 26). -/
def Dev.send (d : Dev) (ty destMod destPart srcPart : Nat) (tag : W32) (args : BitVec 128) (data : List W8) : Dev :=
  let k : Pkt := { ty := ty, flags := 0, dest := BitVec.ofNat 16 (destMod + 4096 * destPart),
                   src := BitVec.ofNat 16 (d.hid.moduleId + 4096 * srcPart), hops := 0, tag := tag, args := args, inl := [], data := data }
  if !d.fab.routeEn || d.hid.moduleId == 0xFFF || destMod = 0xFFF then d
  else if destMod = d.hid.moduleId then { d with fab := { d.fab with inbox := d.fab.inbox ++ [(15, k)] } }
  else d.route false none k

/-- A DIRECTED CTRL packet out of a port, delivered where HOPS reaches zero (11 R368). -/
def Dev.sendDirected (d : Dev) (p ty : Nat) (hops : Nat) (tag : W32) (args : BitVec 128) (data : List W8) : Dev :=
  d.queueOn p 0 false { ty := ty, flags := 1, dest := 0xFFF, src := BitVec.ofNat 16 d.hid.moduleId, hops := hops, tag := tag,
                        args := args, inl := [], data := data }

/-- Little-endian packing of argument fields given as (bytes, value). -/
def packArgs : List (Nat × Nat) → Nat
  | [] => 0
  | (n, v) :: t => v % 256 ^ n + 256 ^ n * packArgs t

def mkArgs (l : List (Nat × Nat)) : BitVec 128 := BitVec.ofNat 128 (packArgs l)
end Sys2Proof.Machine

namespace Sys2Proof

/-- Bytes lo to lo + n - 1 of ARGS as a number. -/
def Pkt.arg (k : Pkt) (lo n : Nat) : Nat := bits k.args (8 * lo) (8 * n)
def Pkt.srcMod (k : Pkt) : Nat := k.src.toNat % 4096
def Pkt.srcPart (k : Pkt) : Nat := bits k.src 12 3
def Pkt.destPart (k : Pkt) : Nat := bits k.dest 12 3
/-- Inline data followed by the data flits. -/
def Pkt.body (k : Pkt) : List W8 := k.inl ++ k.data

end Sys2Proof
end

