-- ==== Sys2Proof/Machine/Paging.lean ====
section
/-! DEFINITION. Accesses through a context's page tables: causes, backing, paging in and out, samples, pins
(08 R275 to R292; 02 R51, R73). -/

namespace Sys2Proof.Machine

/-- What an access does to a page: load, store (or atomic), instruction fetch. -/
inductive Acc where
  | load
  | store
  | fetch
  deriving DecidableEq, Repr

/-- Virtual sub-page number of an address. -/
def subNo (va : W64) : Nat := va.toNat / 65536

/-- Cause of 08 Table 8-5 that an address of a context meets at once, zero for none. -/
def Dev.cause (d : Dev) (x : Ctx) (k : Acc) (va : W64) : Nat :=
  if 2 ^ 56 ≤ va.toNat then 3
  else match x.pages.get? (subNo va / 32) with
    | none => 1
    | some pg =>
      let ok := match k with | .load => pg.r | .store => pg.w | .fetch => pg.x
      if !ok then 2
      else if (d.sub x (subNo va)).st == .lost then 6 else 0

/-- An ACTIVE far entry with a free slot, and the slot (08 R283). -/
def freeFarSlot (m : Memp) : Option (Nat × Nat) :=
  m.far.findSome? (fun kv =>
    if kv.2.st = 1 && kv.2.used.length < kv.2.subpages
    then some (kv.1, ((List.range kv.2.subpages).find? (fun s => !kv.2.used.contains s)).getD 0) else none)

/-- Clock position of a sub-page (log 28). -/
def clockKey (o : Nat × Nat) : Nat := o.1 * 2 ^ 40 + o.2

/-- Does the waling slot of partition p hold a sub-page where it is: protected, or part of its rings and parity area
(12 R396; log 32)? -/
def Dev.wgKeeps (d : Dev) (p : Nat) (o : Nat × Nat) : Bool :=
  match d.rse.wgs.get? p with
  | some w => w.st != 0 && (w.prot.contains o || w.areas.contains o)
  | none => false

/-- Sub-pages that may be paged out, from the clock hand on (08 R283). -/
def Dev.coldSubs (d : Dev) (p : Nat) : List ((Nat × Nat) × Sub) :=
  let l := (d.subsOf p).filter (fun s => s.2.st == .local && s.2.pins == 0 && !s.2.usedPrev && !d.wgKeeps p s.1)
  let h := ((d.parts.get? p).map (fun u => u.memp.clock)).getD 0
  l.filter (fun s => decide (h ≤ clockKey s.1)) ++ l.filter (fun s => decide (clockKey s.1 < h))

/-- Context for which a MEM request goes out: the one that needs the data, else the owner of the object; 64 for a handshake (log 92). -/
def Dev.reqCtx (d : Dev) : MemWhy → Nat
  | .pageIn c _ _ => c
  | .directW c _ _ _ => c
  | .pageOut m _ => ((d.obj.mobjs.get? m).map (fun o => o.home)).getD 64
  | .direct m _ _ => ((d.obj.mobjs.get? m).map (fun o => o.home)).getD 64
  | .lend _ _ => 64

/-- A new MEM request, numbered and sent (11 R363). -/
def Dev.memReq (d : Dev) (part entry dest ty : Nat) (args : BitVec 128) (data : List W8) (why : MemWhy) : Dev :=
  let tag := d.fab.nextTag
  let k : Pkt := { ty := ty, flags := 0, dest := BitVec.ofNat 16 dest, src := BitVec.ofNat 16 (d.hid.moduleId + 4096 * part),
                   hops := 0, tag := BitVec.ofNat 32 tag, args := args, inl := [], data := data }
  let d := (Dev.hoopSpend part (d.reqCtx why) data.length d).send ty dest 0 part (BitVec.ofNat 32 tag) args data
  { d with fab := { d.fab with nextTag := tag + 1, reqs := d.fab.reqs.set tag ⟨part, entry, dest, k, false, why⟩ } }

/-- Fabric address of a slot of a far entry (00 R5, 08 R287). -/
def farAddr (f : Far) (slot off : Nat) : Nat := f.module * 2 ^ 52 + (f.base + slot) * 65536 + off

/-- Frees a slot of a far entry. -/
def Dev.freeSlot (d : Dev) (p j slot : Nat) : Dev :=
  d.updMemp p (fun m => { m with far := m.far.upd j (fun f => { f with used := f.used.filter (fun z => z != slot) }) })

/-- First tweak of a far sub-page: borrower, far entry, slot, line 0 (08 R300). -/
def Dev.farTweak (d : Dev) (entry slot : Nat) : Nat := d.hid.moduleId * 2 ^ 40 + entry * 2 ^ 36 + slot * 2 ^ 10

/-- Data of a far sub-page from line n on as it leaves the module, and as the owner reads what comes back (08 R300). -/
def Dev.toFar (d : Dev) (p entry slot n : Nat) (l : List W8) : List W8 :=
  match d.keyOf p with
  | some k => xtsRun (xtsEnc k) (d.farTweak entry slot + n) (l.length / 64) l
  | none => l
def Dev.fromFar (d : Dev) (p entry slot n : Nat) (l : List W8) : List W8 :=
  match d.keyOf p with
  | some k => xtsRun (xtsDec k) (d.farTweak entry slot + n) (l.length / 64) l
  | none => l

/-- Starts paging out the next cold sub-page, past those with an error (log 60), while page-out is enabled: OUTBOUND, the data sent to
its lender slot (08 R283, R300). -/
def Dev.pageOut (d : Dev) (p : Nat) : Option Dev :=
  match d.parts.get? p with
  | none => none
  | some u =>
    if !u.memp.pag.getLsbD 31 then none else
    match freeFarSlot u.memp, (d.coldSubs p).find? (fun c => !d.badIn (c.2.loc * 65536) 65536) with
    | some (j, slot), some (o, s) =>
      let f := u.memp.far.getD j Far.reset
      let d := Dev.loadAt (s.loc * 65536) 65536 (d.updSub o (fun s => { s with st := .outbound, lender := j, target := slot }))
      let d := d.updMemp p (fun m => { m with far := m.far.upd j (fun f => { f with used := slot :: f.used }), clock := clockKey o + 1 })
      some (d.memReq p j f.module 0x12 (mkArgs [(8, farAddr f slot 0), (4, 65536)]) (d.toFar p j slot 0 (d.dramRead (s.loc * 65536) 65536)) (.pageOut o.1 o.2))
    | _, _ => none

/-- Page-outs that are to free n sub-pages: enough are under way, or one more starts; none when no sub-page can be paged out. -/
def Dev.makeRoom (d : Dev) (p n : Nat) : Option Dev :=
  let out := ((d.subsOf p).filter (fun s => s.2.st == .outbound)).length
  if n ≤ out then some d else
  match d.pageOut p with
  | some d' => some d'
  | none => if out = 0 then none else some d

/-- Cancels a page-out: the sub-page stays LOCAL, the slot is freed (08 R291). -/
def Dev.cancelOut (d : Dev) (p : Nat) (o : Nat × Nat) : Dev :=
  let s := d.osub o
  if s.st == .outbound then
    let d := d.updSub o (fun s => { s with st := .local })
    (d.freeSlot p s.lender s.target).updMemp p (fun m => { m with countCancel := wrapAdd 64 m.countCancel 1 })
  else d

/-- Has a request for a reason not been answered yet? -/
def Dev.waits (d : Dev) (f : MemWhy → Bool) : Bool := d.fab.reqs.any (fun r => f r.2.why)

/-- Drops the blocks fetched from a far sub-page. -/
def Dev.dropBlocks (d : Dev) (o : Nat × Nat) : Dev :=
  { d with mem := { d.mem with direct := d.mem.direct.filter (fun e => !(e.1.1 = o.1 && e.1.2.1 = o.2)) } }

/-- Starts paging in a FAR sub-page of context c for tile t (08 R284): INBOUND with a local sub-page allocated, the data
requested. `demand` marks a page-in caused by an access or a pin. None when no local sub-page is free, and while a write made in place there
has not been acknowledged. -/
def Dev.pageIn (d : Dev) (c p : Nat) (o : Nat × Nat) (t : Nat) (demand : Bool) : Option Dev :=
  match d.pickSub p t, d.parts.get? p with
  | some loc, some u =>
    if d.waits (fun w => match w with | .directW _ m s _ => m = o.1 && s = o.2 | _ => false) then none else
    let s := d.osub o
    let f := u.memp.far.getD s.lender Far.reset
    let d := ((d.takeSub loc p).updSub o (fun s => { s with st := .inbound, target := loc, demand := demand })).dropBlocks o
    some (d.memReq p s.lender f.module 0x10 (mkArgs [(8, farAddr f s.loc 0), (4, 65536)]) [] (.pageIn c o.1 o.2))
  | _, _ => none

/-- Counts an access at its stack; one in 64 is sampled for the tile that made it (08 R281; log 28). -/
def Dev.touch (d : Dev) (o : Nat × Nat) (t : Nat) : Dev :=
  let s := d.osub o
  if s.st == .absent then d else
  let st := stackOf s.loc
  let n := d.mem.accs.getD st 0 + 1
  let d := { d with mem := { d.mem with accs := d.mem.accs.set st (n % 64) } }
  d.updSub o (fun s => { s with used := true, samples := if n = 64 then s.samples.set t (s.samples.getD t 0 + 1) else s.samples })

/-- Running kernels of a context, by queue and index. -/
def Dev.kernels (d : Dev) (c : Nat) : List (Nat × Nat) :=
  d.obj.queues.flatMap (fun qv => if qv.2.ctx = c then (qv.2.cmds.filter (fun kv => kv.2.st == .running && bits kv.2.ent 0 8 = 1)).map (fun kv => (qv.1, kv.1)) else [])

/-- Kernels that may fetch code from an object: those of the contexts that map it with X (02 R51). -/
def Dev.fetchers (d : Dev) (m : MObj) : List (Nat × Nat) :=
  (m.maps.filter (fun a => a.perm % 2 = 1)).flatMap (fun a => d.kernels a.ctx)

/-- Does a store to a sub-page need a new copy because a running kernel may fetch from it (02 R51)? -/
def Dev.needsCopy (d : Dev) (o : Nat × Nat) : Bool :=
  match d.obj.mobjs.get? o.1 with
  | none => false
  | some m => ((m.sub o.2).st == .local || (m.sub o.2).st == .outbound || (m.sub o.2).st == .far) && (d.fetchers m).any (fun u => !(m.oldCode.any (fun q => q.sub = o.2 && q.users.contains u)))

/-- Gives a code sub-page a new copy for data; the old one stays for the running kernels (02 R51). -/
def Dev.copyCode (d : Dev) (p : Nat) (o : Nat × Nat) (t : Nat) : Dev :=
  match d.obj.mobjs.get? o.1, d.pickSub p t with
  | some m, some loc =>
    let old := (m.sub o.2).loc
    let d := ((d.takeSub loc p).copySub old loc).updSub o (fun s => { s with loc := loc })
    d.updMobj o.1 (fun m' => { m' with oldCode := ⟨o.2, old, d.fetchers m⟩ :: m'.oldCode })
  | _, _ => d

/-- Backs an ABSENT sub-page with a zeroed local one (08 R278); a pinned one has its room held (08 R291). -/
def Dev.back (d : Dev) (p : Nat) (o : Nat × Nat) (t : Nat) : Dev :=
  match (if (d.osub o).pins = 0 then d.pickSub p t else d.pickHeld p t) with
  | none => d
  | some loc => ((d.takeSub loc p).zeroSub loc).updSub o (fun s => { s with st := .local, loc := loc })

/-- What an access meets: it may go on, it faults with a cause, a mask of strands and an address, or it waits. -/
inductive Prep where
  | ok (d : Dev)
  | fault (cause : Nat) (mask : W32) (addr : W64)
  | stall (d : Dev)

/-- Mask of a list of strands. -/
def maskOf (l : List Nat) : W32 := l.foldl (fun m k => m ||| (1#32 <<< k)) 0

/-- Bytes va to va + n - 1 cut at sub-page boundaries, as (address, count), with fuel. -/
def runsOf : Nat → Nat → Nat → List (Nat × Nat)
  | 0, _, _ => []
  | f + 1, va, n => if n = 0 then [] else
    let k := min n (65536 - va % 65536)
    (va, k) :: runsOf f (va + k) (n - k)

/-- Bytes of one sub-page that a strand accesses: strand, first address, count. -/
abbrev Span := Nat × W64 × Nat

/-- A range as spans, one for each sub-page. -/
def spansOf (va n : Nat) : List Span := (runsOf (n / 65536 + 2) va n).map (fun r => (0, BitVec.ofNat 64 r.1, r.2))

/-- A range that a command or an engine names: how it is accessed, its address, its bytes. -/
abbrev Rng := Acc × Nat × Nat

/-- Ranges that are read, and that are read and written. -/
def rngOf (k : Acc) (va n : Nat) : List Rng := if n = 0 then [] else [(k, va, n)]
def rngRw (va n : Nat) : List Rng := rngOf .load va n ++ rngOf .store va n

/-- The first address of each sub-page that ranges touch. -/
def pagesOf (l : List Rng) : List (Acc × W64) := l.flatMap (fun a => (spansOf a.2.1 a.2.2).map (fun s => (a.1, s.2.1)))

/-- A block of 64 bytes fetched from a far sub-page, by object, sub-page and block. -/
def Dev.directBlk (d : Dev) (b : Nat × Nat × Nat) : Option (List W8) := (d.mem.direct.find? (fun e => e.1 = b)).map (fun e => e.2)

/-- The far entry that a sub-page of partition p lies in. -/
def Dev.farOf (d : Dev) (p : Nat) (s : Sub) : Far := ((d.parts.get? p).bind (fun u => u.memp.far.get? s.lender)).getD Far.reset

/-- Requests one block of a FAR sub-page at its lender. -/
def Dev.fetchBlk (d : Dev) (p : Nat) (b : Nat × Nat × Nat) : Dev :=
  let s := d.osub (b.1, b.2.1)
  let f := d.farOf p s
  d.memReq p s.lender f.module 0x10 (mkArgs [(8, farAddr f s.loc (64 * b.2.2)), (4, 64)]) [] (.direct b.1 b.2.1 b.2.2)

/-- Blocks of FAR sub-pages that spans touch. -/
def Dev.farBlocks (d : Dev) (x : Ctx) (l : List Span) : List (Nat × Nat × Nat) :=
  (l.flatMap (fun a => match x.where_ (subNo a.2.1) with
    | some o => if (d.osub o).st == .far then
        let lo := a.2.1.toNat % 65536
        (List.range ((lo + a.2.2 + 63) / 64 - lo / 64)).map (fun k => (o.1, o.2, lo / 64 + k)) else []
    | none => [])).eraseDups

/-- An access that no page-in can serve is served in place at the lender: its blocks are fetched, and once all are here it goes on; a block
whose last write has not been acknowledged is neither fetched nor written (08 R284, 02 R75; log 29). Answers the device while it must wait. -/
def Dev.inPlace (d : Dev) (x : Ctx) (store : Bool) (l : List Span) : Option Dev :=
  let blks := d.farBlocks x l
  let writing (b : Nat × Nat × Nat) : Bool := d.waits (fun w => match w with | .directW _ m s k => (m, s, k) = b | _ => false)
  let miss := blks.filter (fun b => (d.directBlk b).isNone)
  if miss.isEmpty && !(store && blks.any writing) then none
  else
    let ask := miss.filter (fun b => !writing b && !d.waits (fun w => w = .direct b.1 b.2.1 b.2.2))
    some (ask.foldl (fun d b => d.fetchBlk x.part b) d)

/-- Drops the blocks that an access served in place was fetched. -/
def Dev.dropDirect (d : Dev) (c : Nat) (l : List Span) : Dev :=
  match d.obj.ctxs.get? c with
  | none => d
  | some x =>
    let blks := d.farBlocks x l
    { d with mem := { d.mem with direct := d.mem.direct.filter (fun e => !blks.contains e.1) } }

/-- The distinct sub-pages (object and number) that a list of (strand, address) names, in order. -/
def subsNamed (x : Ctx) (l : List (Nat × W64)) : List (Nat × Nat) := (l.filterMap (fun a => x.where_ (subNo a.2))).eraseDups

/-- Starts page-ins of FAR sub-pages; true when any could start. -/
def Dev.pageIns (d : Dev) (c p t : Nat) (far : List (Nat × Nat)) : Dev × Bool :=
  far.foldl (fun (r : Dev × Bool) o => match r.1.pageIn c p o t true with | some d' => (d', true) | none => r) (d, false)

/-- Physical address of a virtual one in a sub-page, when that has local backing. -/
def Sub.phys (s : Sub) (va : Nat) : Option Nat :=
  if s.st == .local || s.st == .migrating || s.st == .outbound then some (s.loc * 65536 + va % 65536) else none

/-- Does a retraining window hold up an access to sub-pages with local backing (08 R299)? -/
def Dev.windowStalls (d : Dev) (x : Ctx) (store : Bool) (l : List Span) : Bool :=
  l.any (fun a => match (d.sub x (subNo a.2.1)).phys a.2.1.toNat with
    | some pa => d.retrainStalls pa a.2.2 store
    | none => false)

/-- What loads of spans do at the stack controllers, with the energy events of tile t (08 R294; 13 Table 13-5, classes 9 and 10). -/
def Dev.countLoads (d : Dev) (c t : Nat) (x : Ctx) (l : List Span) : Dev :=
  l.foldl (fun (d : Dev) a => match (d.sub x (subNo a.2.1)).phys a.2.1.toNat with
    | some pa =>
      let s := pa / 65536 / stackPages / 2
      Dev.spend s c 9 ((pa + a.2.2 + 63) / 64 - pa / 64) (Dev.spend t c 10 (weaveEdges t s * ceilDiv a.2.2 256) (Dev.loadAt pa a.2.2 d))
    | none => d) d

/-- An access whose pages have been waited for: FAR sub-pages left are served in place, ABSENT ones stored to are backed, code
that a kernel may fetch is copied (08 R278, R284, R291; 02 R51). -/
def Dev.serve (d : Dev) (c t : Nat) (x : Ctx) (k : Acc) (l : List Span) (subs : List (Nat × Nat)) : Prep :=
  let far := (l.filter (fun a => (d.sub x (subNo a.2.1)).st == .far)).length
  let count (d : Dev) : Dev := if far = 0 then d else d.updMemp x.part (fun m => { m with countDirect := wrapAdd 64 m.countDirect far })
  if k == .store then
    let absent := subs.filter (fun o => (d.osub o).st == .absent)
    let fresh := absent.filter (fun o => (d.osub o).pins == 0)
    let copies := subs.filter (fun o => d.needsCopy o)
    let need := fresh.length + copies.length
    if d.room x.part < need then
      match d.makeRoom x.part (need - d.room x.part) with
      | some d' => .stall d'
      | none =>
        let who := l.filter (fun a => match x.where_ (subNo a.2.1) with
          | some o => (d.osub o).st == .absent || copies.contains o
          | none => false)
        .fault 4 (maskOf (who.map (fun a => a.1))) ((who.head?.map (fun a => a.2.1)).getD 0)
    else match d.inPlace x true l with
      | some d' => .stall d'
      | none =>
        let d := subs.foldl (fun d o => d.cancelOut x.part o) d
        let d := copies.foldl (fun d o => d.copyCode x.part o t) d
        let d := absent.foldl (fun d o => d.back x.part o t) d
        .ok (count (subs.foldl (fun d o => d.touch o t) d))
  else match d.inPlace x false l with
    | some d' => .stall d'
    | none => .ok (count ((subs.foldl (fun d o => d.touch o t) d).countLoads c t x l))

/-- Prepares an access of a context's strands or engines from tile t to the listed spans: finds unresolvable causes, starts
page-ins, waits for pages on their way and for retraining windows, then serves it (08 R278, R284, R291, R292, R299; 02 R51, R73). -/
def Dev.prepare (d : Dev) (c t : Nat) (k : Acc) (l : List Span) : Prep :=
  match d.obj.ctxs.get? c with
  | none => .fault 1 (maskOf (l.map (fun a => a.1))) ((l.head?.map (fun a => a.2.1)).getD 0)
  | some x =>
    match l.filter (fun a => d.cause x k a.2.1 != 0) with
    | a :: rest => .fault (d.cause x k a.2.1) (maskOf ((a :: rest).map (fun a => a.1))) a.2.1
    | [] =>
      let subs := subsNamed x (l.map (fun a => (a.1, a.2.1)))
      let far := subs.filter (fun o => (d.osub o).st == .far)
      let start := d.pageIns c x.part t far
      if start.2 then .stall start.1 else
      match (if far.isEmpty then none else d.makeRoom x.part far.length) with
      | some d' => .stall d'
      | none =>
        if subs.any (fun o => (d.osub o).st == .inbound || (k == .store && (d.osub o).st == .migrating)) || d.windowStalls x (k == .store) l
        then .stall d else d.serve c t x k l subs

/-- Physical address of a virtual one, when its sub-page has local backing. -/
def Dev.phys (d : Dev) (x : Ctx) (va : Nat) : Option Nat := (d.sub x (va / 65536)).phys va

/-- One byte of a context's memory as its data accesses see it; ABSENT reads zero (08 R278). -/
def Dev.vbyte (d : Dev) (c va : Nat) : W8 :=
  match d.obj.ctxs.get? c with
  | none => 0
  | some x => match d.phys x va with
    | some a => d.mem.bytes.read a
    | none => match x.where_ (va / 65536) with
      | some o => if (d.osub o).st == .far then ((d.directBlk (o.1, o.2, va % 65536 / 64)).getD []).getD (va % 64) 0 else 0
      | none => 0

/-- Bytes of a context's memory. -/
def Dev.vread (d : Dev) (c va : Nat) : Nat → List W8
  | 0 => []
  | n + 1 => d.vbyte c va :: Dev.vread d c (va + 1) n

/-- Does a read of a range meet an uncorrectable error (08 R515)? -/
def Dev.vbad (d : Dev) (c va n : Nat) : Bool :=
  match d.obj.ctxs.get? c with
  | none => false
  | some x => (runsOf (n / 65536 + 2) va n).any (fun r => match d.phys x r.1 with
    | some a => d.badIn a r.2
    | none => false)

/-- Does a write of a range need the bytes of a quarter in error (08 R515)? -/
def Dev.vbadPartial (d : Dev) (c va n : Nat) : Bool :=
  match d.obj.ctxs.get? c with
  | none => false
  | some x => (runsOf (n / 65536 + 2) va n).any (fun r => match d.phys x r.1 with
    | some a => d.badPartial a r.2
    | none => false)

/-- The controllers' part in an uncorrectable error met in n bytes of a context's memory: counted, the row repaired (08 R294, R297). -/
def Dev.metBad (d : Dev) (c va n : Nat) : Dev :=
  match d.obj.ctxs.get? c with
  | none => d
  | some x => (runsOf (n / 65536 + 2) va n).foldl (fun (d : Dev) r => match d.phys x r.1 with
    | some a => (quartersIn d.mem.bad a r.2).foldl (fun (d : Dev) q => d.updStack (q / 1024 / stackPages) (fun k => k.uncorrect (d.mem.rows.get? q))) d
    | none => d) d

/-- Writes bytes of one sub-page at its lender, block by block; the blocks fetched take the new bytes (08 R284, 02 R75). -/
def Dev.directWrite (d : Dev) (c : Nat) (x : Ctx) (va : Nat) (l : List W8) : Dev :=
  match x.where_ (va / 65536) with
  | none => d
  | some o =>
    let s := d.osub o
    let f := d.farOf x.part s
    let lo := va % 65536
    ((List.range ((lo + l.length + 63) / 64 - lo / 64)).map (fun k => lo / 64 + k)).foldl (fun (d : Dev) b =>
      let old := (d.directBlk (o.1, o.2, b)).getD (List.replicate 64 0)
      let new := (List.range 64).map (fun j =>
        let a := b * 64 + j
        if lo ≤ a && a < lo + l.length then l.getD (a - lo) 0 else old.getD j 0)
      let dir := d.mem.direct.map (fun e => if e.1 = (o.1, o.2, b) then (e.1, new) else e)
      Dev.memReq { d with mem := { d.mem with direct := dir } } x.part s.lender f.module 0x12
        (mkArgs [(8, farAddr f s.loc (64 * b)), (4, 64)]) (d.toFar x.part s.lender s.loc b new) (.directW c o.1 o.2 b)) d

/-- Has a write that a context made in place at a lender not been acknowledged (02 R77)? -/
def Dev.farWrites (d : Dev) (c : Nat) : Bool := d.waits (fun w => match w with | .directW c' _ _ _ => c' = c | _ => false)

/-- Carries the drain of far entries on: FAR sub-pages are paged in while local room lasts, else moved out of the way of others to
another ACTIVE entry; an empty entry becomes UNUSED and its lender is told by a LEND_REQ for no sub-pages (08 R288; log 41). -/
def Dev.drainFar (d : Dev) (p : Nat) : Dev :=
  match d.parts.get? p with
  | none => d
  | some u => (u.memp.far.filter (fun kv => kv.2.st = 2)).foldl (fun (d : Dev) kv =>
    let subs := (d.subsOf p).filter (fun s => s.2.st == .far && s.2.lender = kv.1)
    let d := subs.foldl (fun (d : Dev) s =>
      let c := ((d.obj.mobjs.get? s.1.1).map (fun m => m.home)).getD 64
      match d.pageIn c p s.1 u.lead false with
      | some d' => d'
      | none => (d.makeRoom p subs.length).getD d) d
    let f := ((d.parts.get? p).bind (fun u => u.memp.far.get? kv.1)).getD Far.reset
    if !f.used.isEmpty then d else
    let d := d.updMemp p (fun m => { m with far := m.far.upd kv.1 (fun f => { f with st := 0 }) })
    d.memReq p kv.1 f.module 0x14 (mkArgs [(1, kv.1), (8, f.base * 65536), (4, 0)]) [] (.lend p kv.1)) d

def Dev.updWg (d : Dev) (p : Nat) (f : Wg → Wg) : Dev := { d with rse := { d.rse with wgs := d.rse.wgs.upd p f } }

/-- A free sub-page of a stack for a copy of a protected sub-page: the lowest below the lend pool, else wherever the partition has one (12 R396,
R400; log 32). -/
def Dev.freeOn (d : Dev) (p s : Nat) : Option Nat :=
  let k := firstFree d.mem.used d.mem.used.length (s * stackPages)
  let pool := ((d.parts.get? p).map (fun u => poolIn u s)).getD 0
  if k + pool < s * stackPages + stackData then some k else d.placeFor p (s / 2)

/-- A new copy, out of the pair pool, of the sub-page at `loc`; a sub-page that had no backing is copied as zeros (12 R400). -/
def Dev.pairCopy (d : Dev) (p s : Nat) (loc : Option Nat) : Option (Nat × Dev) :=
  (d.freeOn p s).map (fun new =>
    let d := d.takeSub new p
    let d := match loc with | some l => d.copySub l new | none => d.zeroSub new
    (new, d.updWg p (fun w => { w with poolLeft := w.poolLeft - 1 })))

/-- Before a write to a sub-page whose LIVE copy is also its SNAP or BASE copy, the LIVE copy becomes a new one on the same
stack (12 R400). A write of an update command of the snapshot's round or earlier (`old`) goes to the shared LIVE and SNAP
copy; where that is BASE too, both move to the new copy (12 R402; log 33). -/
def Dev.guardWrite (d : Dev) (p : Nat) (o : Nat × Nat) (old : Bool) : Dev :=
  match d.rse.wgs.get? p with
  | none => d
  | some w =>
    let loc := (d.osub o).loc
    let isBase := w.base.contains (o, loc)
    let isSnap := w.snapAt.contains (o, loc)
    if !(isBase || isSnap) || (old && isSnap && !isBase) then d else
    match d.pairCopy p (stackOf loc) (some loc) with
    | none => d
    | some (new, d) =>
      (d.updSub o (fun s => { s with loc := new })).updWg p (fun w =>
        { w with snapAt := if old && isSnap then w.snapAt.map (fun e => if e.1 = o then (o, new) else e) else w.snapAt })

/-- The SNAP copy that a write of an earlier round's update also reaches, where LIVE has left it: its own copy, or one made now of a
sub-page that had no backing at the freeze; one whose LIVE is still all zeros is shared (12 R402; log 33). -/
def Dev.snapCopy (d : Dev) (p : Nat) (o : Nat × Nat) : Option (Nat × Dev) :=
  match d.rse.wgs.get? p with
  | none => none
  | some w =>
    let loc := (d.osub o).loc
    if !(w.snap.map (fun z => z.frozen)).getD false || !w.prot.contains o then none else
    match w.snapAt.find? (fun e => e.1 = o) with
    | some e =>
      if e.2 = loc then none
      else if w.base.contains e then (d.pairCopy p (stackOf loc) (some e.2)).map (fun r =>
        (r.1, r.2.updWg p (fun w => { w with snapAt := w.snapAt.map (fun z => if z.1 = o then (o, r.1) else z) })))
      else some (e.2, d)
    | none =>
      if (d.mem.bytes.slice (loc * 65536) 65536).isEmpty then some (loc, d.updWg p (fun w => { w with snapAt := w.snapAt ++ [(o, loc)] }))
      else (d.pairCopy p (stackOf loc) none).map (fun r => (r.1, r.2.updWg p (fun w => { w with snapAt := w.snapAt ++ [(o, r.1)] })))

/-- Writes bytes of one sub-page, which has been prepared, for tile t. -/
def Dev.subWrite (old : Bool) (d : Dev) (c t : Nat) (x : Ctx) (va : Nat) (l : List W8) : Dev :=
  match x.where_ (va / 65536) with
  | none => d
  | some o =>
    let d := d.guardWrite x.part o old
    match (d.osub o).phys va with
    | none => if (d.osub o).st == .far then d.directWrite c x va l else d
    | some a =>
      let s := a / 65536 / stackPages / 2
      let d := match (if old then d.snapCopy x.part o else none) with
        | some (loc, d) => if loc = (d.osub o).loc then d else d.dramWrite (loc * 65536 + va % 65536) l
        | none => d
      Dev.spend s c 9 ((a + l.length + 63) / 64 - a / 64) (Dev.spend t c 10 (weaveEdges t s * ceilDiv l.length 256) (d.dramWrite a l))

/-- Writes bytes to a context's memory for tile t; the sub-pages have been prepared. -/
def Dev.vwriteAs (old : Bool) (d : Dev) (c t va : Nat) (l : List W8) : Dev :=
  match d.obj.ctxs.get? c with
  | none => d
  | some x => (runsOf (l.length / 65536 + 2) va l.length).foldl (fun (d : Dev) r => d.subWrite old c t x r.1 ((l.drop (r.1 - va)).take r.2)) d

def Dev.vwrite (d : Dev) (c t va : Nat) (l : List W8) : Dev := d.vwriteAs false c t va l

/-- A write of a hub or tile engine to a context's memory: an ABSENT sub-page is backed first (08 R278); a write that must wait for
its sub-pages, or behind one of its context that waits, is kept and made when they can take it (08 R284, R292, R299; log 100). -/
def Dev.engWriteAs (old : Bool) (d : Dev) (c t va : Nat) (l : List W8) : Dev :=
  let keep (d : Dev) : Dev := { d with mem := { d.mem with waiting := d.mem.waiting ++ [⟨c, t, va, l, old⟩] } }
  if d.mem.waiting.any (fun w => w.ctx = c) then keep d else
  match d.prepare c t .store (spansOf va l.length) with
  | .ok d => (d.vwriteAs old c t va l).dropDirect c (spansOf va l.length)
  | .stall d => keep d
  | .fault _ _ _ => d

def Dev.engWrite (d : Dev) (c t va : Nat) (l : List W8) : Dev := d.engWriteAs false c t va l

/-- Bytes of a context's memory as its engine's writes leave them, those that still wait among them. -/
def Dev.vreadNew (d : Dev) (c va n : Nat) : List W8 :=
  (d.mem.waiting.filter (fun w => w.ctx = c)).foldl (fun (l : List W8) w =>
    l.zipIdx.map (fun b => if decide (w.va ≤ va + b.2) && decide (va + b.2 < w.va + w.data.length) then w.data.getD (va + b.2 - w.va) 0 else b.1)) (d.vread c va n)

/-- Can an engine of tile t make all of these accesses of a context now? The device that waits, where not; an access that faults waits
for nothing. -/
def Dev.engWaits (d : Dev) (c t : Nat) (acc : List Rng) : Option Dev :=
  if d.mem.waiting.any (fun w => w.ctx = c) then some d else
  acc.findSome? (fun a => match d.prepare c t a.1 (spansOf a.2.1 a.2.2) with | .stall d => some d | _ => none)

/-- The controllers' part in the loads of an engine of tile t. -/
def Dev.engLoads (d : Dev) (c t : Nat) (acc : List Rng) : Dev :=
  match d.obj.ctxs.get? c with
  | none => d
  | some x => d.countLoads c t x ((acc.filter (fun a => a.1 == .load)).flatMap (fun a => spansOf a.2.1 a.2.2))

/-- Pins a list of sub-pages once each (08 R290). -/
def Dev.pin (d : Dev) (l : List (Nat × Nat)) : Dev := l.foldl (fun d o => d.updSub o (fun s => { s with pins := s.pins + 1 })) d
/-- Releases pins. -/
def Dev.unpin (d : Dev) (l : List (Nat × Nat)) : Dev := l.foldl (fun d o => d.updSub o (fun s => { s with pins := s.pins - 1 })) d

/-- What pinning sub-pages at dispatch or issue meets (08 R290, R291). -/
inductive PinRes where
  | ok (d : Dev) (pins : List (Nat × Nat))
  | fault (store : Bool) (cause : Nat) (addr : W64)
  | wait (d : Dev)

/-- Local sub-pages of a partition that data can have: its quota less page tables and the pair pool of its waling slot, with the copies
taken from it (08 R276, R291; 12 R400). -/
def Dev.pinQuota (d : Dev) (p : Nat) : Nat :=
  let pt := ((d.obj.ctxs.filter (fun kv => kv.2.part = p)).map (fun kv => kv.2.ptLocs.length)).foldl (· + ·) 0
  let copies := match d.rse.wgs.get? p with
    | some w => ((w.base ++ w.snapAt).filter (fun e => (d.osub e.1).loc != e.2)).eraseDups.length
    | none => 0
  (d.sztE p 15).toNat / 65536 - pt - d.poolLeft p - copies

/-- Pins every sub-page named: FAR ones are first paged in, page-outs cancelled, migrations awaited; too many for the
quota faults PIN_EXCEEDS; a full pin count waits (08 R290, R291). -/
def Dev.pinAll (d : Dev) (c t : Nat) (l : List Rng) : PinRes :=
  match d.obj.ctxs.get? c with
  | none => .fault false 1 0
  | some x =>
    let acc := pagesOf l
    match acc.filter (fun a => d.cause x a.1 a.2 != 0) with
    | a :: _ => .fault (a.1 == .store) (d.cause x a.1 a.2) a.2
    | [] =>
      let subs := subsNamed x (acc.map (fun a => (0, a.2)))
      let pinned := ((d.subsOf x.part).filter (fun s => s.2.pins != 0)).length
      let fresh := (subs.filter (fun o => (d.osub o).pins == 0)).length
      if d.pinQuota x.part < pinned + fresh then .fault ((acc.head?.map (fun a => a.1 == .store)).getD false) 5 ((acc.head?.map (fun a => a.2)).getD 0)
      else if subs.any (fun o => (d.osub o).pins == 65535) then .wait d
      else
        let far := subs.filter (fun o => (d.osub o).st == .far)
        if !far.isEmpty then
          let start := d.pageIns c x.part t far
          if start.2 then .wait start.1 else .wait ((d.makeRoom x.part far.length).getD d)
        else if subs.any (fun o => (d.osub o).st == .inbound || (d.osub o).st == .migrating) then .wait d
        else .ok ((subs.foldl (fun d o => d.cancelOut x.part o) d).pin subs) subs

end Sys2Proof.Machine
end

