-- ==== Sys2Proof/Machine/Shard.lean ====
section
/-! DEFINITION. The waling slot of a partition (12): its members, STATE packets, and the loss of a member's own context (12 R423). -/

namespace Sys2Proof.Machine

def Dev.wg (d : Dev) (p : Nat) : Wg := d.rse.wgs.getD p Wg.reset
def Dev.setWg (d : Dev) (p : Nat) (w : Wg) : Dev := { d with rse := { d.rse with wgs := d.rse.wgs.set p w } }
/-- Is a slot armed: neither FREE nor FAILED? -/
def Wg.armed (w : Wg) : Bool := w.st != 0 && w.st != 4

/-- Entry of a member table: module, partition, LOST, REBUILDING (12 R406). -/
def Dev.member (d : Dev) (w : Wg) (r : Nat) : Nat := leNat (d.dramRead (w.table * 2 ^ 20 + 4 * r) 4)
def Dev.setMember (d : Dev) (w : Wg) (r v : Nat) : Dev := d.dramWrite (w.table * 2 ^ 20 + 4 * r) (leBytes 4 v)
def memMod (v : Nat) : Nat := v % 4096
def memPart (v : Nat) : Nat := v / 4096 % 8

/-- ARGS of a STATE packet: WALING_ID, EPOCH, then further fields as (bytes, value) (12 R426). -/
def Wg.args (w : Wg) (l : List (Nat × Nat)) : BitVec 128 := mkArgs ([(2, w.walingId), (4, w.epoch.toNat)] ++ l)

/-- Sends a STATE packet of the slot of partition p to a rank. -/
def Dev.sendRank (d : Dev) (p : Nat) (w : Wg) (r ty : Nat) (l : List (Nat × Nat)) (data : List W8) : Dev :=
  let m := d.member w r
  (Dev.hoopSpend p w.context data.length d).send ty (memMod m) (memPart m) p 0 (w.args l) data

/-- Sends to several ranks. -/
def Dev.sendRanks (d : Dev) (p : Nat) (w : Wg) (rs : List Nat) (ty : Nat) (l : List (Nat × Nat)) : Dev :=
  rs.foldl (fun (d : Dev) r => d.sendRank p w r ty l []) d

/-- Ranks other than this member's. -/
def Wg.others (w : Wg) : List Nat := (List.range w.size).filter (fun r => r != w.rank && !w.lostMask.getLsbD r)

/-- Is a context LOST: the RSE writes no parity and no log from it any more (12 R423)? -/
def Dev.ctxLost (d : Dev) (c : Nat) : Bool := ((d.obj.ctxs.get? c).map (fun x => x.st == .lost)).getD false

/-- Where the copies of the protected sub-pages of a slot stand: LIVE, SNAP and BASE (12 R400). -/
def Dev.copies (d : Dev) (w : Wg) : List Nat :=
  (w.prot.filter (fun o => (d.osub o).st == .local)).map (fun o => (d.osub o).loc) ++ (w.snapAt ++ w.base).map (fun e => e.2)

/-- The own rank is told to every member as REBUILDING once the slot's context is lost and a copy of a protected sub-page holds an
uncorrectable error, by a JOURNAL that names this module as the destination (12 R423; log 44). -/
def Dev.ownLoss (d : Dev) (p : Nat) : Dev :=
  let w := d.wg p
  if !w.armed || !d.ctxLost w.context || w.rebuildMask.getLsbD w.rank || !(d.copies w).any (fun a => d.badIn (a * 65536) 65536) then d else
  let d := (d.setMember w w.rank (d.member w w.rank ||| 2 ^ 16)).updWg p (fun w => { w with rebuildMask := w.rebuildMask ||| (1#16 <<< w.rank) })
  d.sendRanks p w w.others 0x3C [(1, w.rank), (2, d.hid.moduleId), (1, 0)]

end Sys2Proof.Machine
end

