-- ==== Sys2Proof/Machine/ObjOps.lean ====
section
/-! DEFINITION. Operations over the shared objects (09): fences, references, the retiring of a command, the loss of a
context, strand faults (02 R90 to R92), the stopping of a command's work. -/

namespace Sys2Proof.Machine

/-! Status codes (00 Table 0-5). -/
def cOk : Nat := 0
def cAborted : Nat := 1
def cAlreadyDone : Nat := 2
def cQueueFull : Nat := 3
def cBlocked : Nat := 4
def cContextLost : Nat := 0x10
def cProducerLost : Nat := 0x11
def cDependencyLost : Nat := 0x12
def cDiverged : Nat := 0x20
def cIllegal : Nat := 0x21
def cMisaligned : Nat := 0x22
def cPage : Nat := 0x23
def cBounds : Nat := 0x24
def cUncorrectable : Nat := 0x30
def cLinkLost : Nat := 0x31
def cMemberLost : Nat := 0x32
def cOverrun : Nat := 0x33

/-! Fields of a command entry (09 Table 9-4). -/
def Cmd.opc (c : Cmd) : Nat := bits c.ent 0 8
def Cmd.wait (c : Cmd) : Bool := c.ent.getLsbD 8
def Cmd.signal (c : Cmd) : Bool := c.ent.getLsbD 9
def Cmd.concurrent (c : Cmd) : Bool := c.ent.getLsbD 10
def Cmd.nobj (c : Cmd) : Nat := bits c.ent 16 8
def Cmd.cost (c : Cmd) : Nat := bits c.ent 64 64
def Cmd.roundF (c : Cmd) : W64 := c.ent.extractLsb' 128 64
def Cmd.waitFence (c : Cmd) : Nat := bits c.ent 192 32
def Cmd.sigFence (c : Cmd) : Nat := bits c.ent 224 32
def Cmd.waitValue (c : Cmd) : W64 := c.ent.extractLsb' 256 64
def Cmd.sigValue (c : Cmd) : W64 := c.ent.extractLsb' 320 64
def Cmd.objH (c : Cmd) (k : Nat) : Nat := bits c.ent (384 + 32 * k) 32
def Cmd.objs (c : Cmd) : List Nat := (List.range c.nobj).map c.objH
/-- Payload bytes lo to lo + n - 1 as a number. -/
def Cmd.pay (c : Cmd) (lo n : Nat) : Nat := bits c.ent (640 + 8 * lo) (8 * n)

/-! LAUNCH payload (09 Table 9-5). -/
def Cmd.entryVa (c : Cmd) : Nat := c.pay 0 8
def Cmd.argVa (c : Cmd) : Nat := c.pay 8 8
def Cmd.nGroups (c : Cmd) : Nat := c.pay 16 8
def Cmd.window (c : Cmd) : Nat := c.pay 24 4
def Cmd.strands (c : Cmd) : Nat := c.pay 28 2
def Cmd.nRegs (c : Cmd) : Nat := c.pay 30 1
def Cmd.argBytes (c : Cmd) : Nat := c.pay 32 2

/-! Memory objects and fences. -/

/-- Slot and generation of handles (09 Table 9-1). -/
def mobjSlot (h : Nat) : Nat := h % 2 ^ 20
def mobjGenOf (h : Nat) : Nat := h / 2 ^ 20
def fenceSlot (h : Nat) : Nat := h % 2 ^ 14
def fenceGenOf (h : Nat) : Nat := h / 2 ^ 14

/-- A live memory object by its handle (09 R304, R324). -/
def Dev.mobjLive (d : Dev) (h : Nat) : Option MObj :=
  match d.obj.mobjs.get? (mobjSlot h) with
  | some m => if m.gen = mobjGenOf h && m.live then some m else none
  | none => none

/-- A live fence by its handle. -/
def Dev.fenceLive (d : Dev) (h : Nat) : Option Fence :=
  match d.obj.fences.get? (fenceSlot h) with
  | some f => if f.gen = fenceGenOf h && !f.dead then some f else none
  | none => none

/-- The generation after g: after the largest it wraps to 1 (09 R305). -/
def nextGen (width g : Nat) : Nat := if g + 1 = 2 ^ width then 1 else g + 1

/-- Removes the pages of object slot m from a context and returns page-table sub-pages no longer needed. -/
def Dev.unmap (d : Dev) (c m : Nat) : Dev :=
  match d.obj.ctxs.get? c with
  | none => d
  | some x =>
    let d := match d.setPages c (x.pages.filter (fun kv => kv.2.obj != m)) with | .ok d => d | .need _ => d
    d.updMobj m (fun o => { o with maps := o.maps.filter (fun a => a.ctx != c) })

/-- Returns the backing of a sub-page to the allocator: local, far, on its way (09 R324). -/
def Dev.freeBacking (d : Dev) (p : Nat) (s : Sub) : Dev :=
  match s.st with
  | .absent => d
  | .local => d.freeSub s.loc
  | .far => d.freeSlot p s.lender s.loc
  | .migrating => (d.freeSub s.loc).freeSub s.target
  | .outbound => (d.freeSub s.loc).freeSlot p s.lender s.target
  | .inbound => (d.freeSub s.target).freeSlot p s.lender s.loc
  | .lost => d

/-- Frees a memory object whose counts are both zero: mappings, sub-pages, reservation, slot (09 R324, R305). -/
def Dev.freeMobj (d : Dev) (m : Nat) : Dev :=
  match d.obj.mobjs.get? m with
  | none => d
  | some o =>
    let d := o.maps.foldl (fun d a => d.unmap a.ctx m) d
    let d := o.subs.foldl (fun d s => d.freeBacking o.part s.2) d
    let d := o.oldCode.foldl (fun d c => d.freeSub c.loc) d
    let d : Dev := { d with mem := { d.mem with direct := d.mem.direct.filter (fun e => e.1.1 != m) } }
    Dev.drainFar { d with obj := { d.obj with mobjs := d.obj.mobjs.del m, mobjGen := d.obj.mobjGen.set m (nextGen 12 o.gen),
                                              ctxs := d.obj.ctxs.mapV (fun _ x => { x with lastIn := x.lastIn.del m }) } } o.part

/-- Frees the object when DRV_REFS and CMD_REFS are both zero. -/
def Dev.reapMobj (d : Dev) (m : Nat) : Dev :=
  match d.obj.mobjs.get? m with
  | some o => if o.drv = 0 && o.cmd = 0 then d.freeMobj m else d
  | none => d

/-- Drops one DRV_REFS reference; at zero the handle dies (09 R324). -/
def Dev.dropDrv (d : Dev) (m : Nat) : Dev :=
  (d.updMobj m (fun o => { o with drv := o.drv - 1, live := o.live && decide (1 < o.drv) })).reapMobj m

/-- Frees a dead fence that no command references (09 R321, R305). -/
def Dev.reapFence (d : Dev) (s : Nat) : Dev :=
  match d.obj.fences.get? s with
  | some f => if f.dead && f.refs = 0 then
      { d with obj := { d.obj with fences := d.obj.fences.del s, fenceGen := d.obj.fenceGen.set s (nextGen 18 f.gen) } } else d
  | none => d

/-- F_DESTROY: the handle dies (09 R321). -/
def Dev.killFence (d : Dev) (s : Nat) : Dev := (d.updFence s (fun f => { f with dead := true })).reapFence s

/-- A signal of a fence, and a failure of one (09 R320); a destroyed fence changes no more (09 R321). -/
def Fence.signalled (f : Fence) (v : W64) : Fence := if f.status = 0 && !f.dead then { f with value := if f.value < v then v else f.value } else f
def Fence.failed (f : Fence) (code : Nat) : Fence := if f.status = 0 && !f.dead then { f with status := code } else f

/-- What a wait for w on a fence finds: satisfied, failed with a code, or neither (09 R320). -/
inductive WaitRes where
  | satisfied
  | failed (code : Nat)
  | waiting
  deriving DecidableEq, Repr

def Fence.eval (f : Fence) (w : W64) : WaitRes :=
  if w ≤ f.value then .satisfied else if f.status != 0 then .failed f.status else .waiting

/-! Queues. -/

/-- Moves HEAD past retired entries, with fuel, freeing their slots (09 R314, R318). -/
def Queue.advance (u : Queue) : Nat → Queue
  | 0 => u
  | n + 1 => match u.cmds.get? u.head.toNat with
    | some c => if c.st == .retired then Queue.advance { u with cmds := u.cmds.del u.head.toNat, head := u.head + 1 } n else u
    | none => u

/-- Frees a queue being destroyed once its last command has retired (09 R319). -/
def Dev.reapQueue (d : Dev) (q : Nat) : Dev :=
  match d.obj.queues.get? q with
  | some u => if u.st == .destroying && u.cmds.all (fun kv => kv.2.st == .retired)
      then { d with obj := { d.obj with queues := d.obj.queues.del q } } else d
  | none => d

/-- The physical address of an entry of a queue's ring (09, Queues and commands). -/
def Queue.entryAddr (u : Queue) (i : Nat) : Nat := u.ring + 128 * (i % 2 ^ u.log2)

/-- Old code copies lose a user; those without users are freed (02 R51). -/
def Dev.dropFetcher (d : Dev) (q i : Nat) : Dev :=
  let gone (m : MObj) : List OldCopy := m.oldCode.filter (fun o => o.users.contains (q, i) && (o.users.filter (fun u => u != (q, i))).isEmpty)
  let locs := d.obj.mobjs.flatMap (fun kv => (gone kv.2).map (fun o => o.loc))
  let d := locs.foldl Dev.freeSub d
  { d with obj := { d.obj with mobjs := d.obj.mobjs.mapV (fun _ m =>
      { m with oldCode := (m.oldCode.map (fun o => { o with users := o.users.filter (fun u => u != (q, i)) })).filter (fun o => !o.users.isEmpty) }) } }

/-- Codes that a retiring command passes to its SIG_FENCE as a failure (09 Tables 9-7, 9-9). -/
def failsFence (code : Nat) : Bool := !(code == cOk || code == cContextLost || code == cDependencyLost)

/-- What a retired command adds to its round's cost × progress (10 R340). -/
def Cmd.doneCost (c : Cmd) (code : Nat) : Nat :=
  if c.unsummed then 0 else if code = cOk then c.cost else if c.opc = 1 then c.cost * c.groupsDone / max 1 c.nGroups else 0

/-- Retires a command: COMPLETION written, then the fence action, then references and pins dropped, then the ring
advanced; an ABORT that waited for it gets its answer (09 R318, R326). -/
def Dev.retire (d : Dev) (q i code : Nat) : Dev :=
  match d.obj.queues.get? q, d.cmd? q i with
  | some u, some c =>
    if c.st == .retired then d else
    let d := d.dramWrite (u.entryAddr i + 0x78) (leBytes 8 (2 ^ 63 + code))
    let d := if c.signal then
        (if code == cOk then d.updFence (fenceSlot c.sigFence) (fun f => f.signalled c.sigValue)
         else if failsFence code then d.updFence (fenceSlot c.sigFence) (fun f => f.failed code) else d) else d
    let d := d.unpin c.pins
    let d := c.objs.foldl (fun d h => (d.updMobj (mobjSlot h) (fun o => { o with cmd := o.cmd - 1 })).reapMobj (mobjSlot h)) d
    let d := if c.wait then (d.updFence (fenceSlot c.waitFence) (fun f => { f with refs := f.refs - 1 })).reapFence (fenceSlot c.waitFence) else d
    let d := if c.signal then (d.updFence (fenceSlot c.sigFence) (fun f => { f with refs := f.refs - 1 })).reapFence (fenceSlot c.sigFence) else d
    let d := if c.opc = 1 then d.dropFetcher q i else d
    let d := c.abortPorts.foldl (fun (d : Dev) p =>
      { d with obj := { d.obj with ports := d.obj.ports.set p.1 { d.obj.ports.getD p.1 OPort.zero with busy := false, status := if code = cAborted && p.2 then cAborted else cAlreadyDone } } }) d
    let d := if c.st == .admitted || c.st == .running then d.updRounds u.part (fun r => { r with doneCost := r.doneCost + c.doneCost code }) else d
    let d := if code = cOverrun then d.updRounds u.part (fun r => { r with failed := wrapAdd 32 r.failed 1 }) else d
    let d := d.updCmd q i (fun c => { c with st := .retired, code := code, pins := [], abortPorts := [], stop := none })
    let d := if code = cDependencyLost then d.updQueue q (fun u => if u.st == .active then { u with st := .blocked } else u) else d
    (d.updQueue q (fun u => u.advance (u.cmds.length + 1))).reapQueue q
  | _, _ => d

/-! Stopping work (02 R91, 09 R326). -/

/-- Unspecified contents of a bank or buffer, within its 16,384 bytes (02 R91; log 11). -/
def freeBank (n : Nat) : Mem := (Config.freeBytes n).foldl (fun m c => if c.1 < 16384 then Mem.write m c.1 c.2 else m) []

/-- Bit fields of a matrix descriptor's CTRL (04 Table 4-2). -/
def AOp.ctrl (o : AOp) (lo len : Nat) : Nat := (o.desc >>> lo) % 2 ^ len

/-- Weight bank and accumulator buffer that an operation writes. -/
def AOp.bank? (o : AOp) : Option Nat := match o.kind with
  | .matmul => if o.ctrl 6 1 = 1 then some (o.ctrl 5 1) else none
  | .loadw => some (o.ctrl 5 1)
  | .drain => none
  | .mxw f _ => some (f / 32)
  | .mxr _ _ _ => none
def AOp.buf? (o : AOp) : Option Nat := match o.kind with
  | .matmul => some (o.ctrl 7 1)
  | _ => none
def AOp.fuse (o : AOp) : Bool := match o.kind with
  | .matmul => o.ctrl 11 1 = 1 && o.ctrl 10 1 = 1
  | .drain => o.ctrl 11 1 = 1
  | _ => false

/-- Discards the operations of an array that satisfy f; the banks and buffers they name hold unspecified values. -/
def MArray.discard (a : MArray) (n : Nat) (f : Issuer → Bool) : MArray :=
  let out := a.queue.filter (fun o => f o.by_)
  let b (k : Nat) : Bool := out.any (fun o => o.bank? == some k)
  let c (k : Nat) : Bool := out.any (fun o => o.buf? == some k)
  { a with queue := a.queue.filter (fun o => !f o.by_),
           wb0 := if b 0 then freeBank n else a.wb0, wb1 := if b 1 then freeBank (n + 1) else a.wb1,
           ab0 := if c 0 then freeBank (n + 2) else a.ab0, ab1 := if c 1 then freeBank (n + 3) else a.ab1 }

/-- Does a standalone chain run on its slice: started, its output not yet passed (06 R224)? -/
def ChainOp.running (o : ChainOp) : Bool := o.ph == .started || o.ph == .loaded || o.ph == .stepped

/-- Discards the chains of a slice that satisfy f; a running one of them ends. -/
def Slice.discard (u : Slice) (f : Issuer → Bool) (fusedGone : Bool) : Slice :=
  { u with queue := u.queue.filter (fun c => !f c.by_),
           run := if fusedGone || u.queue.any (fun c => f c.by_ && c.running) then none else u.run,
           fused := if fusedGone then none else u.fused,
           staging := if fusedGone then [] else u.staging }

/-- Discards the asynchronous operations of every issuer that satisfies f on the clusters that satisfy g: of arrays, of slices, CPY
operations (02 R91). -/
def Dev.discardOps (d : Dev) (f : Nat → Nat → Nat → Bool) (g : Nat → Bool) : Dev :=
  let fi (ck : Nat) (b : Issuer) : Bool := f b.ctx b.q b.i && g ck
  let fusedGone (k : Nat) : Bool := match (d.slice k).fused with
    | some a => (d.array a).queue.any (fun o => o.fuse && o.drain == .run && o.slice = k && fi (a / 4) o.by_)
    | none => false
  let n := d.clk.free
  let gone := d.cpys.filter (fun c => match d.plaits.get? c.pk with
    | some p => f p.ctx p.q p.i && g (pkCluster c.pk)
    | none => false)
  let d := d.unpin (gone.flatMap (fun c => c.pins))
  { d with
    slices := d.slices.mapV (fun k u => u.discard (fi (k / 4)) (fusedGone k)),
    arrays := d.arrays.mapV (fun k a => a.discard (n + 4 * k) (fi (k / 4))),
    cpys := d.cpys.filter (fun c => !gone.contains c),
    clk := { d.clk with free := n + 4 * 1280 + 4 } }

/-- Stops and discards the work of every issuer that satisfies f on the clusters that satisfy g: plaits, work groups and their
asynchronous operations (02 R91). -/
def Dev.discard (d : Dev) (f : Nat → Nat → Nat → Bool) (g : Nat → Bool) : Dev :=
  let d := d.discardOps f g
  { d with
    plaits := d.plaits.filter (fun kv => !(f kv.2.ctx kv.2.q kv.2.i && g (pkCluster kv.1))),
    groups := d.groups.filter (fun kv => match d.obj.queues.get? kv.2.q with
      | some u => !(f u.ctx kv.2.q kv.2.i && g kv.2.ck)
      | none => true) }

/-- Does a stop cover work of a command of a context on a cluster? -/
def FaultStop.covers (z : FaultStop) (ck c q i : Nat) : Bool := z.ck = ck && (match z.cmd with
  | none => z.ctx = c
  | some t => t = (q, i))

/-- Is a plait stopped by a fault whose cycle may still be under way (02 R91)? -/
def Dev.stopOf (d : Dev) (pk : Nat) (p : Plait) : Option FaultStop := d.stops.find? (fun z => z.covers (pkCluster pk) p.ctx p.q p.i)

/-- The cycle of a stop is over: what is left there for it is discarded. -/
def Dev.endStop (d : Dev) (z : FaultStop) : Dev :=
  Dev.discard { d with stops := d.stops.filter (fun s => s != z) } (fun c q i => z.covers z.ck c q i) (fun k => k == z.ck)

/-- The cycles of all faults on a cluster are over. -/
def Dev.endStops (d : Dev) (ck : Nat) : Dev := (d.stops.filter (fun z => z.ck = ck)).foldl Dev.endStop d

/-- A scheduler has issued in the cycle of a fault. -/
def Dev.spent (d : Dev) (pk : Nat) (p : Plait) : Dev :=
  match d.stopOf pk p with
  | none => d
  | some z =>
    let y := { z with scheds := z.scheds.filter (fun s => s != pk / 16 % 4) }
    let d : Dev := { d with stops := d.stops.map (fun s => if s = z then y else s) }
    if y.scheds.isEmpty then d.endStop y else d

/-- A cluster stops for a context, or for one command of it, at a fault of scheduler `by_` (none for a fault of an operation): its pending
operations are discarded; the plaits of the other schedulers may issue once more each, in the cycle of the fault (02 R91; log 99). -/
def Dev.stopHere (d : Dev) (ck c : Nat) (cmd : Option (Nat × Nat)) (by_ : Option Nat) : Dev :=
  let z : FaultStop := ⟨ck, c, cmd, []⟩
  let f (c' q i : Nat) : Bool := z.covers ck c' q i
  let d := d.discardOps f (fun k => k == ck)
  let now := match d.stops.find? (fun s => s.ck = ck && s.ctx = c && s.cmd = cmd) with
    | some s => s.scheds
    | none => List.range 4
  let may := now.filter (fun s => some s != by_
    && d.plaits.any (fun kv => pkCluster kv.1 = ck && kv.1 / 16 % 4 = s && kv.2.active != 0 && f kv.2.ctx kv.2.q kv.2.i))
  let d : Dev := { d with stops := d.stops.filter (fun s => !(s.ck = ck && s.ctx = c && s.cmd = cmd)) ++ [{ z with scheds := may }] }
  if may.isEmpty then d.endStop z else d

/-- Has a LAUNCH plaits in residence or saved, beside those that a fault has stopped? -/
def Dev.hasPlaits (d : Dev) (q i : Nat) : Bool :=
  d.plaits.any (fun kv => kv.2.q = q && kv.2.i = i && (d.stopOf kv.1 kv.2).isNone) || d.saved.any (fun s => s.plaits.any (fun kv => kv.2.q = q && kv.2.i = i))

/-- Does an engine still run a command: an UPDATE or a COPY that has started? -/
def Dev.onEngine (d : Dev) (q i : Nat) : Bool :=
  match d.cmd? q i with
  | some c => c.st == .running && (c.opc = 2 || c.opc = 3)
  | none => false

/-- Stops a command with a code: one without plaits and engine retires at once; another when its last cluster has stopped
issuing (02 R91, CLUSTER_STOP_ISSUE) or its engine has stopped (07 R247, 09 R326: UPDATE_COMPLETE, COPY_COMPLETE). -/
def Dev.stopCmd (d : Dev) (q i code : Nat) : Dev :=
  if d.hasPlaits q i || d.onEngine q i then d.updCmd q i (fun c => { c with stop := c.stop <|> some code }) else d.retire q i code

/-- Retires the stopped commands that have no plait left. -/
def Dev.reapStopped (d : Dev) : Dev :=
  let l := d.obj.queues.flatMap (fun qv => qv.2.cmds.filterMap (fun kv => match kv.2.stop with
    | some code => if kv.2.st != .retired && !d.hasPlaits qv.1 kv.1 && !d.onEngine qv.1 kv.1 then some (qv.1, kv.1, code) else none
    | none => none))
  l.foldl (fun d t => d.retire t.1 t.2.1 t.2.2) d

/-- Removes a command's collective from its group and tells the members (11 R390); the epoch moves on here as it does at the
members (log 36). -/
def Dev.withdraw (d : Dev) (q i : Nat) : Dev :=
  d.cole.groups.foldl (fun (d : Dev) kv =>
    match kv.2.runs.find? (fun r => r.q = q && r.i = i) with
    | none => d
    | some r =>
      let ms := (List.range kv.2.size).map (fun k => leNat (d.dramRead (kv.2.table * 32 + 4 * k) 4))
      let d := (ms.zipIdx.filter (fun m => m.2 != kv.2.rank && m.1 / 2 ^ 15 % 2 = 0)).foldl (fun (d : Dev) m =>
        d.send 0x24 (m.1 % 4096) (m.1 / 4096 % 8) kv.2.part (BitVec.ofNat 32 r.seq) (mkArgs [(2, kv.2.id), (4, kv.2.epoch.toNat), (4, r.seq)]) []) d
      { d with cole := { d.cole with groups := d.cole.groups.upd kv.1 (fun g => ({ g with runs := g.runs.filter (fun z => z.seq != r.seq), epoch := g.epoch + 1 } : Group).settle) } }) d

/-- Every fence of a context fails with PRODUCER_LOST (09 R311, R325). -/
def Dev.failFences (d : Dev) (c : Nat) : Dev :=
  { d with obj := { d.obj with fences := d.obj.fences.mapV (fun _ f => if f.owner = c then f.failed cProducerLost else f) } }

/-- Commands of a context's queues that satisfy f and have not retired, by queue and index. -/
def Dev.cmdsOf (d : Dev) (c : Nat) (f : Cmd → Bool) : List (Nat × Nat) :=
  d.obj.queues.flatMap (fun qv => if qv.2.ctx = c then qv.2.cmds.filterMap (fun kv => if kv.2.st != .retired && f kv.2 then some (qv.1, kv.1) else none) else [])

/-- Has a command started: is it running (09 R311, Table 9-7)? -/
def Cmd.started (c : Cmd) : Bool := c.st == .running

/-- Where a fault arose: the cluster, and the scheduler whose instruction it was. -/
abbrev FaultAt := Option (Nat × Option Nat)

/-- The cluster that a fault stops at once (02 R91). -/
def Dev.stopAt (d : Dev) (c : Nat) (cmd : Option (Nat × Nat)) (here : FaultAt) : Dev :=
  match here with
  | some h => d.stopHere h.1 c cmd h.2
  | none => d

/-- A context becomes LOST (09 R311): `why` is the command whose fault or failure did it, with its code; `here` the
cluster that stops at once (02 R91), as each cluster does where a context that is LOST already faults again. -/
def Dev.loseCtx (d : Dev) (c : Nat) (why : Option (Nat × Nat × Nat)) (here : FaultAt) : Dev :=
  match d.obj.ctxs.get? c with
  | none => d
  | some x =>
    if x.st != .active then (if x.st == .lost then (d.stopAt c none here).reapStopped else d) else
    let d := d.updCtx c (fun x => { x with st := .lost })
    let d := d.event 0x04 x.part c ((why.map (fun w => w.2.2)).getD cContextLost)
    let d := if ((why.map (fun w => w.2.2)).getD cContextLost) = cUncorrectable && (d.wg x.part).context = c then d.ownLoss x.part else d
    let d := d.failFences c
    let d := { d with obj := { d.obj with queues := d.obj.queues.mapV (fun _ (u : Queue) => if u.ctx = c && u.st != QSt.destroying then { u with st := .stopped } else u) } }
    let d := { d with saved := d.saved.filter (fun s => s.ctx != c) }
    let d := d.stopAt c none here
    let l := d.cmdsOf c (fun _ => true)
    l.foldl (fun (d : Dev) (t : Nat × Nat) =>
      let code := match why with | some w => if w.1 = t.1 && w.2.1 = t.2 then w.2.2 else cContextLost | none => cContextLost
      (d.withdraw t.1 t.2).stopCmd t.1 t.2 code) d

/-- A command fails with a code: the context becomes LOST, or under the fence binding the command alone stops
(09 R310, R312). In TEARDOWN, which Table 9-3 leaves only by its end, the command alone stops too (log 37). -/
def Dev.failCmd (d : Dev) (c q i code : Nat) (here : FaultAt) : Dev :=
  match d.obj.ctxs.get? c with
  | none => d
  | some x =>
    if (x.compat && code != cUncorrectable) || x.st == .teardown then
      ((d.stopAt c (some (q, i)) here).withdraw q i).stopCmd q i code
    else d.loseCtx c (some (q, i, code)) here

/-- Was a fault raised in the cycle of the recorded one, by a plait with lower numbers (02 R92)? `same` says that the cycle is the same. -/
def FaultRec.before (r f : FaultRec) (same : Bool) : Bool :=
  same && r.tile = f.tile && r.cluster = f.cluster && decide (r.sched * 16 + r.slot < f.sched * 16 + f.slot)

/-- Records a fault of a context: the first is kept, of two in one cycle that of the lower numbers; later ones are counted (02 R92, 08 R292). -/
def Ctx.record (x : Ctx) (r : FaultRec) (m : Option MemFault) (same : Bool) : Ctx :=
  match x.fault with
  | none => { x with fault := some r, memFault := m }
  | some f =>
    let n := satAdd 0xFFFFFFFF f.suppressed 1
    if r.before f same then { x with fault := some { r with more := true, suppressed := n }, memFault := m }
    else { x with fault := some { f with more := true, suppressed := n } }

/-- An uncorrectable error that no command's own read found loses its context (08 R295); no queue has the number given for the command. -/
def Dev.loseUncorr (d : Dev) (c : Nat) : Dev := d.loseCtx c (some (65536, 0, cUncorrectable)) none

/-- An uncorrectable error met in a context's memory loses the owners of the objects met there (08 R295). -/
def Dev.loseMet (d : Dev) (c va n : Nat) (store : Bool) : Dev :=
  match d.obj.ctxs.get? c with
  | none => d
  | some x =>
    let hit := (runsOf (n / 65536 + 2) va n).filter (fun r => match d.phys x r.1 with
      | some a => if store then d.badPartial a r.2 else d.badIn a r.2
      | none => false)
    ((hit.filterMap (fun r => x.where_ (r.1 / 65536))).filterMap (fun o => (d.obj.mobjs.get? o.1).map (fun m => m.home))).eraseDups.foldl Dev.loseUncorr d

/-- A write of an engine that acts for no command: where it covers part of a quarter in error it is not applied, and it is handled as
the read that found the error (08 R515). -/
def Dev.engStore (d : Dev) (c t va : Nat) (l : List W8) : Dev :=
  if d.vbadPartial c va l.length then d.loseMet c va l.length true else d.engWrite c t va l

/-- The engines' writes that wait are tried again, in their order (08 R284, R292, R299; log 100). -/
def Dev.flush (d : Dev) : Dev :=
  d.mem.waiting.foldl (fun (d : Dev) w =>
    if d.vbadPartial w.ctx w.va w.data.length then d.loseMet w.ctx w.va w.data.length true
    else d.engWriteAs w.old w.ctx w.tile w.va w.data) { d with mem := { d.mem with waiting := [] } }

/-- A fault of a command: recorded, then the context or the command stops (02 R90 to R92, 09 R310, R312). -/
def Dev.faultCmd (d : Dev) (c q i : Nat) (r : FaultRec) (m : Option MemFault) (here : FaultAt) : Dev :=
  let same := match here with
    | some h => d.stops.any (fun z => z.covers h.1 c q i)
    | none => false
  (d.updCtx c (fun x => x.record r m same)).failCmd c q i r.code here

/-- A cluster whose register files, local memory or array storage held an uncorrectable error is to be retired (12 R424). -/
def Dev.queueSwap (d : Dev) (ck : Nat) : Dev :=
  d.updTile (ckTile ck) (fun t => if t.spare.map.contains (ck % 40) && !t.maint.contains (.swap (ck % 40)) then { t with maint := t.maint ++ [.swap (ck % 40)] } else t)

/-- An uncorrectable error that an asynchronous operation reads is recorded with the instruction that issued it (02 R90, 04 R139, 06 R237). -/
def Dev.opFault (d : Dev) (ck : Nat) (b : Issuer) (a : Nat) : Dev :=
  let r : FaultRec := { code := cUncorrectable, more := false, tile := ckTile ck, cluster := ck % 40, sched := b.pk / 16 % 4, slot := b.pk % 16,
                        pc := b.pc, mask := b.mask, addr := BitVec.ofNat 64 a, ins := b.ins, ext := b.ext, time := d.clk.now, suppressed := 0 }
  (d.queueSwap ck).faultCmd b.ctx b.q b.i r none (some (ck, none))

end Sys2Proof.Machine
end

