-- ==== Sys2Proof/Machine/Operands.lean ====
section
/-! DEFINITION. Operand forms of Shorek instructions: register groups, guards, participants, immediates, and the checks
of an encoding (03 R93 to R103, and the class tables). -/

namespace Sys2Proof.Machine

/-! Registers and predicates of a plait (02 R62, 03 R97, R98). -/

/-- Register r of a strand; 255 reads as zero. -/
def Plait.rd (p : Plait) (r : Nat) (lane : Nat) : W32 := if r = 255 then 0 else p.regs.getD (32 * r + lane) 0
/-- Pair and group of four, as one number. -/
def Plait.rd64 (p : Plait) (r : Nat) (lane : Nat) : W64 := if r = 255 then 0 else (p.rd (r + 1) lane) ++ (p.rd r lane)
/-- Operand of n registers, lowest register first. -/
def Plait.rdN (p : Plait) (r n lane : Nat) : List W32 := (List.range n).map (fun k => if r = 255 then 0 else p.rd (r + k) lane)
/-- Integer operand of width 64 when w, else 32. -/
def Plait.rdW (p : Plait) (w : Bool) (r lane : Nat) : Nat := if w then (p.rd64 r lane).toNat else (p.rd r lane).toNat

/-- Writes register r of a strand; 255 discards. -/
def Plait.wr (p : Plait) (r lane : Nat) (v : W32) : Plait := if r = 255 then p else { p with regs := p.regs.set (32 * r + lane) v }
/-- Writes a group of registers, lowest first. -/
def Plait.wrN (p : Plait) (r lane : Nat) : List W32 → Plait
  | [] => p
  | v :: t => if r = 255 then p else Plait.wrN (p.wr r lane v) (r + 1) lane t
/-- The registers of a 64-bit or 32-bit result. -/
def splitW (w : Bool) (v : Nat) : List W32 := if w then [BitVec.ofNat 32 v, BitVec.ofNat 32 (v / 2 ^ 32)] else [BitVec.ofNat 32 v]

/-- Mask of a predicate over the strands. -/
def Plait.pred (p : Plait) (n : Nat) : W32 := p.preds.getD n 0
/-- Sets predicate n to m for the strands in `who`, leaving the others. -/
def Plait.setPred (p : Plait) (n : Nat) (who m : W32) : Plait := { p with preds := p.preds.set n ((p.pred n &&& ~~~who) ||| (m &&& who)) }
/-- A predicate operand with its negate flag (03 R101). -/
def Plait.predOp (p : Plait) (v : Nat) : W32 := if v / 8 % 2 = 1 then ~~~(p.pred (v % 8)) else p.pred (v % 8)

/-- Guard of each strand (03 Table 3-2). -/
def Plait.guardMask (p : Plait) (g : BitVec 5) : W32 :=
  if g.getLsbD 4 then (if g.getLsbD 3 then ~~~(p.pred (g.toNat % 8)) else p.pred (g.toNat % 8)) else 0xFFFFFFFF#32
/-- Participants of an instruction (03 R103). -/
def Plait.parts (p : Plait) (e : Enc) : W32 := p.active &&& p.guardMask e.guard

/-- Strands of a mask in ascending order. -/
def lanes (m : W32) : List Nat := (List.range 32).filter (fun k => m.getLsbD k)
/-- Mask of the strands of m that satisfy f. -/
def maskIf (m : W32) (f : Nat → Bool) : W32 := maskOf ((lanes m).filter f)

/-- Applies to each strand of a mask the writing of what f gives it; f reads the plait as it was (03 R96). -/
def Plait.eachW (p : Plait) (m : W32) (r : Nat) (f : Nat → List W32) : Plait := (lanes m).foldl (fun q k => q.wrN r k (f k)) p

/-! Checks of an encoding (03 R95 and the class tables). -/

/-- How an instruction uses a field: unassigned, a register operand of n registers, an immediate, a predicate operand. -/
inductive Fld where
  | zero
  | reg (n : Nat)
  | imm
  | pred
  deriving DecidableEq, Repr

/-- A register group named by v: 255, or aligned, within s254 and within the allocation (02 R62, R63). -/
def grpOk (alloc n v : Nat) : Bool := v == 255 || (v % n == 0 && decide (v + n ≤ 255) && decide (v + n ≤ alloc))

/-- A field and its reuse hint as the class assigns them. -/
def Fld.ok (alloc : Nat) (f : Fld) (v : W8) (hint : Bool) : Bool :=
  match f with
  | .zero => v == 0 && !hint
  | .reg n => grpOk alloc n v.toNat
  | .imm => !hint
  | .pred => decide (v.toNat < 16) && !hint

/-- What a class table says of an instruction: its fields, whether the extension word stands, whether MOD, AUX and the
rest are acceptable. -/
structure Shape where
  d : Fld
  a : Fld
  b : Fld
  c : Fld
  x : Bool
  ok : Bool
  deriving DecidableEq, Repr

def md (e : Enc) (lo len : Nat) : Nat := bits e.md lo len
def au (e : Enc) (lo len : Nat) : Nat := bits e.aux lo len
/-- Registers of an integer operand by W. -/
def wN (w : Bool) : Nat := if w then 2 else 1
/-- Registers of four elements by format (03 Table 3-7). -/
def fmtRegs (f : Nat) : Nat := if f = 0 then 4 else if f = 1 || f = 2 then 2 else 1
/-- Registers by SIZE of a load or store (03 R116). -/
def sizeRegs (s : Nat) : Nat := if s = 3 then 2 else if s = 4 then 4 else 1

/-- Integer class (03 R105, Table 3-5). -/
def shapeInt (op : Nat) (e : Enc) : Shape :=
  let w := e.md.getLsbD 0
  let n := wN w
  let ib := e.md.getLsbD 7
  let sgnOk := op = 3 || op = 11 || op = 12 || op = 13 || !e.md.getLsbD 1
  let fnOk := if op = 13 then decide (md e 2 3 < 6) else if op = 15 then decide (md e 2 3 < 3) else md e 2 3 = 0
  let auxOk := if op = 13 then decide (e.aux.toNat < 8) else if op = 14 then decide (e.aux.toNat < 16) else e.aux == 0
  let dF : Fld := if op = 13 then .zero else if op = 15 then (if md e 2 3 = 2 then .reg n else .reg 1) else .reg n
  let bF : Fld := if op = 15 then .zero else if ib then .zero else .reg n
  ⟨dF, .reg n, bF, if op = 4 then .reg n else .zero, ib, sgnOk && fnOk && auxOk && md e 5 2 = 0 && !(op = 15 && ib)⟩

/-- Floating class (03 R106 to R109, Table 3-6). -/
def shapeFloat (op : Nat) (e : Enc) : Shape :=
  let ib := e.md.getLsbD 7
  let unary := decide (0x17 ≤ op)
  let condOk := if op = 0x16 then true else if op = 0x17 then !e.md.getLsbD 6 else md e 4 3 = 0
  let fmtOk := if op = 0x16 then md e 0 2 = 0 else if 0x18 ≤ op then md e 0 3 = 0 else decide (md e 0 2 < 3)
  let auxOk := if op = 0x16 then decide (e.aux.toNat < 8) else e.aux == 0
  ⟨if op = 0x16 then .zero else .reg 1, .reg 1, if unary || ib then .zero else .reg 1, if op = 0x13 then .reg 1 else .zero, ib,
   condOk && fmtOk && auxOk && !e.md.getLsbD 3 && !(unary && ib)⟩

/-- Conversion and random class (03 R110 to R113). -/
def shapeConv (op : Nat) (e : Enc) : Shape :=
  if op = 0x20 then
    let s := md e 0 3
    let t := md e 3 3
    let sc := e.md.getLsbD 6
    let sto := au e 0 2 = 2
    ⟨.reg (fmtRegs t), .reg (fmtRegs s), if sc then .reg 1 else .zero, if sto then .reg 4 else .zero, false,
     !e.md.getLsbD 7 && decide (e.aux.toNat < 3) && (!sc || narrow s != narrow t)⟩
  else if op = 0x21 then
    let n := wN (e.md.getLsbD 2)
    let toInt := e.md.getLsbD 0
    ⟨if toInt then .reg n else .reg 1, if toInt then .reg 1 else .reg n, .zero, .zero, false,
     md e 5 3 = 0 && decide (md e 3 2 < 3) && decide (e.aux.toNat < 2)⟩
  else ⟨.reg 1, .reg 4, .reg 2, .reg 1, false, e.md == 0 && e.aux == 0⟩

/-- Predicate class (03 Table 3-8). -/
def shapePred (op : Nat) (e : Enc) : Shape :=
  if op = 0x28 then ⟨.pred, .pred, .pred, .pred, false, e.aux == 0 && decide (e.d.toNat < 8)⟩
  else if op = 0x29 then ⟨.reg 1, .zero, .zero, .zero, false, e.md == 0 && e.aux == 0⟩
  else ⟨.zero, .reg 1, .zero, .zero, false, e.aux == 0⟩

/-- Scope as ORD allows it (03 R115). -/
def scopeOk (ord scope : Nat) : Bool := decide (scope < 3) && (ord != 0 || scope == 0)

/-- Memory and atomic classes (03 R115 to R117). -/
def shapeMem (op : Nat) (e : Enc) : Shape :=
  if op = 0x40 then
    let o := md e 0 4
    let n := wN (e.md.getLsbD 4)
    ⟨.reg n, .reg (wN (e.aux.getLsbD 2)), .reg n, if o = 9 then .reg n else .zero, e.x,
     decide (o < 13) && (decide (o < 10) || !e.md.getLsbD 4) && !e.md.getLsbD 7 && scopeOk (md e 5 2) (au e 0 2) && au e 3 4 = 0⟩
  else
    let s := md e 0 3
    let ord := md e 5 2
    let base := decide (s < 5) && !e.md.getLsbD 7 && scopeOk ord (au e 0 2) && au e 2 5 = 0
    let aF : Fld := .reg (wN (e.md.getLsbD 4))
    if op = 0x30 then ⟨.reg (sizeRegs s), aF, .zero, .zero, e.x, base && decide (ord < 2) && (!e.md.getLsbD 3 || decide (s < 2))⟩
    else ⟨.zero, aF, .reg (sizeRegs s), .zero, e.x, base && (ord == 0 || ord == 2) && !e.md.getLsbD 3⟩

/-- Cross-strand class (03 R118 to R120). -/
def shapeCross (op : Nat) (e : Enc) : Shape :=
  if op = 0x48 then
    let n := wN (e.md.getLsbD 2)
    ⟨.reg n, .reg n, .reg 1, .zero, false, md e 3 5 = 0 && e.aux == 0⟩
  else if op = 0x49 then
    let m := md e 0 2
    if m = 3 then ⟨.zero, .zero, .reg 1, .zero, false, md e 2 6 = 0 && decide (e.aux.toNat < 8)⟩
    else if m = 2 then ⟨.reg 1, .pred, .zero, .zero, false, md e 2 6 = 0 && e.aux == 0⟩
    else ⟨.zero, .pred, .zero, .zero, false, md e 2 6 = 0 && decide (e.aux.toNat < 8)⟩
  else
    let n := wN (e.md.getLsbD 3)
    ⟨.reg n, .reg n, .zero, .zero, false, md e 4 4 = 0 && e.aux == 0⟩

/-- Asynchronous issue, synchronisation, control flow, queries, system (03 R121 to R133). -/
def shapeRest (op : Nat) (e : Enc) : Shape :=
  let tok := decide (e.aux.toNat < 16)
  match op with
  | 0x50 => ⟨.zero, .reg 1, .zero, .zero, false, tok && decide (e.md.toNat < 4)⟩
  | 0x51 => ⟨.zero, .reg 1, .zero, .zero, false, tok && decide (e.md.toNat < 4)⟩
  | 0x52 => ⟨.zero, .reg 4, .zero, .zero, false, tok⟩
  | 0x53 => ⟨.reg 4, .zero, .zero, .zero, false, tok⟩
  | 0x54 => ⟨.zero, .reg 1, .zero, .zero, false, tok && e.md == 0⟩
  | 0x55 => ⟨.zero, .reg 2, .reg 1, .reg 1, false, tok && decide (e.md.toNat < 2)⟩
  | 0x58 => ⟨.zero, .imm, .imm, .zero, false, e.md == 0 && e.aux == 0 && decide (e.a.toNat < 16) && decide (e.b.toNat < 65)⟩
  | 0x59 => ⟨.zero, .zero, .zero, .zero, false, e.md == 0 && decide (e.aux.toNat < 3)⟩
  | 0x5A => ⟨.zero, .imm, .imm, .zero, false, e.md == 0 && e.aux == 0⟩
  | 0x5B => ⟨.zero, .zero, .zero, .zero, false, e.md == 0 && e.aux == 0 && e.guard == 0⟩
  | 0x5C => ⟨.zero, .zero, .zero, .zero, false, e.md == 0 && e.aux == 0 && e.guard == 0⟩
  | 0x60 => ⟨.zero, .zero, .zero, .zero, true, e.md == 0 && e.aux == 0⟩
  | 0x61 => ⟨.zero, .reg 2, .zero, .zero, true, e.md == 0 && e.aux == 0 && bits e.ext 0 32 = 0⟩
  | 0x62 => ⟨.reg 2, .zero, .zero, .zero, true, e.md == 0 && e.aux == 0⟩
  | 0x63 => ⟨.zero, .zero, .zero, .zero, false, e.md == 0 && e.aux == 0⟩
  | 0x68 => ⟨.reg 2, if e.md.getLsbD 0 then .reg 1 else .imm, .zero, .zero, false, decide (e.md.toNat < 2) && e.aux == 0⟩
  | 0x69 => ⟨.reg (wN (e.md == 3 || e.md == 4)), .zero, .zero, .zero, false, decide (e.md.toNat < 10) && e.aux == 0⟩
  | 0x6A => ⟨.reg 2, .zero, .zero, .zero, false, decide (e.md.toNat < 5) && e.aux == 0⟩
  | 0x70 => ⟨.zero, .zero, .zero, .zero, false, e.md == 0 && e.aux == 0⟩
  | 0x71 => ⟨.reg 2, .reg 2, .zero, .zero, false, e.md == 0 && e.aux == 0⟩
  | 0x72 => ⟨.zero, .reg 2, .zero, .zero, false, e.md == 0 && e.aux == 0⟩
  | _ => ⟨.zero, .zero, .zero, .zero, false, false⟩

/-- The shape of an opcode (03 Table 3-4); a reserved opcode has none that is acceptable. -/
def shape (op : Nat) (e : Enc) : Shape :=
  if op < 0x10 then shapeInt op e
  else if op < 0x1E then shapeFloat op e
  else if 0x20 ≤ op && op < 0x23 then shapeConv op e
  else if 0x28 ≤ op && op < 0x2B then shapePred op e
  else if op = 0x30 || op = 0x31 || op = 0x40 then shapeMem op e
  else if 0x48 ≤ op && op < 0x4B then shapeCross op e
  else shapeRest op e

/-- A guard value of 03 Table 3-2. -/
def guardOk (g : BitVec 5) : Bool := g.getLsbD 4 || g == 0

/-- An encoding that does not fault under 03 R95, 02 R62 and R63. -/
def encOk (op : Nat) (e : Enc) (alloc : Nat) : Bool :=
  let s := shape op e
  s.ok && s.x == e.x && guardOk e.guard && s.d.ok alloc e.d e.hd && s.a.ok alloc e.a e.ha && s.b.ok alloc e.b e.hb && s.c.ok alloc e.c e.hc

/-- The instruction word of an opcode and fields (03 Table 3-1). -/
def insWord (op : Nat) (e : Enc) : W64 :=
  bit1 1 e.x ++ BitVec.ofNat 7 op ++ e.d ++ e.a ++ e.b ++ e.c ++ e.md ++ e.guard ++ bit1 1 e.hd ++ bit1 1 e.ha ++ bit1 1 e.hb ++ bit1 1 e.hc ++ e.aux

/-- Registers that a field names. -/
def Fld.regs (f : Fld) (v : W8) : List Nat := match f with
  | .reg n => if v == 255 then [] else (List.range n).map (fun k => v.toNat + k)
  | _ => []

/-- Registers an instruction names, in any field. -/
def Shape.regs (s : Shape) (e : Enc) : List Nat := s.d.regs e.d ++ s.a.regs e.a ++ s.b.regs e.b ++ s.c.regs e.c

/-- Source B of the integer and floating classes: the immediate or the register (03 R102). -/
def Plait.srcB (p : Plait) (e : Enc) (w : Bool) (lane : Nat) : Nat :=
  if e.md.getLsbD 7 then (if w then e.ext.toNat else e.ext.toNat % 2 ^ 32) else p.rdW w e.b.toNat lane

end Sys2Proof.Machine
end

