-- ==== Sys2Proof/Machine/Flags.lean ====
section
/-! DEFINITION. Comparisons that set predicates: the integer conditions of 03 R105 and the floating ones of R108. -/

namespace Sys2Proof.Machine

/-- The signed reading of an unsigned number of w bits. -/
def signedOf (w v : Nat) : Int := if 2 * v < 2 ^ w then (v : Int) else (v : Int) - 2 ^ w

/-- Order of two integers of w bits, signed or not: below. -/
def intLt (w : Nat) (sg : Bool) (a b : Nat) : Bool := if sg then decide (signedOf w a < signedOf w b) else decide (a < b)

/-- COND 000 to 101: EQ NE LT LE GT GE (03 R105). -/
def intCond (w : Nat) (sg : Bool) (c a b : Nat) : Bool :=
  match c with
  | 0 => a == b
  | 1 => a != b
  | 2 => intLt w sg a b
  | 3 => !intLt w sg b a
  | 4 => intLt w sg b a
  | _ => !intLt w sg a b

/-- FCMP in FP32 (03 R108). -/
def floatCond (c : Nat) (a b : W32) : Bool := fcmpB fp32 c a.toNat b.toNat

end Sys2Proof.Machine
end

