-- ==== Sys2Proof/Machine/Issue.lean ====
section
/-! DEFINITION. The issue of a Shorek instruction by a plait: readiness, fetch and encoding faults, the advance of the
program counter with the join points of the mask stack, the register cache (02 R48 to R65, R90 to R92). -/

namespace Sys2Proof.Machine

/-- What the operation of an instruction leads to: results (the program counter advances), a program counter already
set, a fault with its mask, address and memory cause, or waiting (nothing issues). -/
inductive InsRes where
  | done (d : Dev) (p : Plait)
  | jump (d : Dev) (p : Plait)
  | fault (code : Nat) (mask : W32) (addr : W64) (mem : Option MemFault)
  | wait (d : Dev)

/-- Bytes of an instruction (03 R93). -/
def insLen (e : Enc) : W64 := if e.x then 16 else 8

/-- Follows the mask stack while the plait stands at a join point or has no active strand, with fuel (02 R54, R55). -/
def Plait.rejoin (p : Plait) : Nat → Plait
  | 0 => p
  | n + 1 =>
    match p.stack with
    | [] => p
    | top :: rest =>
      if p.active != 0 && p.pc != top.join then p else
      match top.rest with
      | (t, m) :: more => Plait.rejoin { p with pc := t, active := m &&& p.live, stack := { top with rest := more } :: rest } n
      | [] => Plait.rejoin { p with pc := top.join, active := top.full &&& p.live, stack := rest } n

def Plait.settle (p : Plait) : Plait := p.rejoin 2048

/-- Is a plait ready to issue this instruction (02 R48, R78, R82, R91; 03 R122; 13 R441)? Which of the ready plaits of a scheduler issues next
rests on result latencies, which are timing: the command names it (log 4). -/
def Dev.ready (d : Dev) (pk : Nat) (p : Plait) (op : Nat) (e : Enc) : Bool :=
  (match p.stall with
    | .none => true
    | .tokens m => p.tokens &&& m == 0
    | _ => false)
  && p.active != 0
  && !(d.cluster (pkCluster pk)).saveReq && !d.stopped (pkTile pk)
  && (match d.stopOf pk p with | none => true | some z => z.scheds.contains (pk / 16 % 4))
  && !p.held.any (fun h => ((shape op e).regs e).any (fun r => decide (h.2 ≤ r) && decide (r < h.2 + 4)))

/-- Fetches of the instruction's words: the pages must allow it (08 R292). -/
def Dev.fetchCause (d : Dev) (p : Plait) (e : Enc) : Option (Nat × W64) :=
  match d.obj.ctxs.get? p.ctx with
  | none => some (1, p.pc)
  | some x =>
    let c0 := d.cause x .fetch p.pc
    if c0 != 0 then some (c0, p.pc)
    else if e.x then (let c1 := d.cause x .fetch (p.pc + 8); if c1 != 0 then some (c1, p.pc + 8) else none)
    else none

/-- Slice-cycles of an instruction on its slice (02 Table 2-2, 06 R207); zero for those a slice does not execute. -/
def sliceCycles (op : Nat) (e : Enc) : Nat :=
  if (op = 2 || op = 3 || op = 4) && e.md.getLsbD 0 then 4
  else if 0x18 ≤ op && op < 0x1E then 4
  else if op = 0x22 then 2
  else if op < 0x30 || (0x48 ≤ op && op < 0x50) then 1 else 0

/-- Keeps or frees a register in a scheduler's register cache by its reuse hint (02 R65), most recently read last: a source that is read
moves to the end, a cached destination is updated where it stands, a value newly kept is put at the end (log 101). -/
def rcTouch (slot : Nat) (keep dest : Bool) (l : List (Nat × Nat)) (r : Nat) : List (Nat × Nat) :=
  let rest := l.filter (fun x => x != (slot, r))
  if dest && (!keep || l.contains (slot, r)) then l
  else if keep then (if rest.length < 16 then rest else rest.drop 1) ++ [(slot, r)]
  else rest

/-- The register cache after an instruction's reads and writes (02 R65, R66). -/
def Dev.rcUpdate (d : Dev) (pk : Nat) (op : Nat) (e : Enc) : Dev :=
  let s := shape op e
  let slot := pk % 16
  let l := d.rcache.getD (pk / 16) []
  let l := (s.a.regs e.a).foldl (rcTouch slot e.ha false) l
  let l := (s.b.regs e.b).foldl (rcTouch slot e.hb false) l
  let l := (s.c.regs e.c).foldl (rcTouch slot e.hc false) l
  let l := (s.d.regs e.d).foldl (rcTouch slot e.hd true) l
  { d with rcache := d.rcache.set (pk / 16) l }

/-- Records the issue: slice cycles and register cache, the energy events of the slice (13 Table 13-5, classes 6 and 7), and the issue of a
scheduler in the cycle of a fault. -/
def Dev.issued (d : Dev) (pk : Nat) (p : Plait) (op : Nat) (e : Enc) : Dev :=
  let n := sliceCycles op e
  let d := if n = 0 then d else Dev.spend (pkTile pk) p.ctx 6 n
    (d.updTile (pkTile pk) (fun t => { t with ve := { t.ve with plait := wrapAdd 64 t.ve.plait n } }))
  let d := Dev.spend (pkTile pk) p.ctx 7 (if 0x18 ≤ op && op < 0x1E then 1 else 0) d
  (d.rcUpdate pk op e).spent pk p

/-- Participants whose source registers hold an uncorrectable error (02 Table 2-6). -/
def Plait.badReads (p : Plait) (op : Nat) (e : Enc) : W32 :=
  if p.bad.isEmpty then 0 else
  let s := shape op e
  maskIf (p.parts e) (fun k => (s.a.regs e.a ++ s.b.regs e.b ++ s.c.regs e.c).any (fun r => p.bad.contains (32 * r + k)))

/-- The errors left once an instruction has written its destination registers. -/
def Plait.healed (q p : Plait) (op : Nat) (e : Enc) : Plait :=
  if q.bad.isEmpty then q else
  { q with bad := q.bad.filter (fun b => !(((shape op e).d.regs e.d).contains (b / 32) && (p.parts e).getLsbD (b % 32))) }

/-- A strand fault of a plait at its program counter (02 R90 to R92, Table 2-7). -/
def Dev.strandFault (d : Dev) (pk : Nat) (p : Plait) (ins ext : W64) (code : Nat) (mask : W32) (addr : W64) (mem : Option MemFault) : Dev :=
  let r : FaultRec := { code := code, more := false, tile := pkTile pk, cluster := pkCluster pk % 40, sched := pk / 16 % 4, slot := pk % 16,
                        pc := p.pc, mask := mask, addr := addr, ins := ins, ext := ext, time := d.clk.now, suppressed := 0 }
  d.faultCmd p.ctx p.q p.i r mem (some (pkCluster pk, some (pk / 16 % 4)))

/-- What an instruction leads to once the registers it read are looked at: a word in error is met with the lowest priority (02 R90). -/
def InsRes.checked (r : InsRes) (bad : W32) : InsRes :=
  if bad == 0 then r else match r with
  | .done _ _ => .fault cUncorrectable bad 0 none
  | .jump _ _ => .fault cUncorrectable bad 0 none
  | .wait d => .wait d
  | .fault c m a x => if c != cUncorrectable then .fault c m a x else
    .fault c (m ||| bad) (if (lanes (m ||| bad)).head? == (lanes m).head? then a else 0) x

/-- Does an instruction read or write the cluster's local memory? -/
def onClm (op : Nat) (e : Enc) : Bool :=
  ((op = 0x30 || op = 0x31) && !e.md.getLsbD 4) || (op = 0x40 && !e.aux.getLsbD 2) || op = 0x50 || op = 0x51 || op = 0x54

/-- An uncorrectable error that an instruction found: of the cluster's own storage, which is then to be retired (12 R424), or of DRAM, which its
controller counts and repairs (08 R294, R297). -/
def Dev.foundBad (d : Dev) (pk : Nat) (p : Plait) (op : Nat) (e : Enc) (addr : W64) : Dev :=
  if onClm op e || p.badReads op e != 0 then d.queueSwap (pkCluster pk) else d.metBad p.ctx addr.toNat 1

/-- One instruction of a plait: nothing when the plait is absent or not ready (log 16); otherwise the first fault it
meets, or its operation. An instruction whose guard is true for no active strand meets no fault and has no effect (02 R52, R90). -/
def runIns (op : Nat) (body : Dev → Nat → Plait → InsRes) (r : PlaitRef) (e : Enc) (d : Dev) : Dev :=
  let pk := pkey r
  match d.plaits.get? pk with
  | none => d
  | some p =>
    if !d.ready pk p op e then d else
    match d.fetchCause p e with
    | some (c, va) => d.strandFault pk p (if va = p.pc then 0 else insWord op e) 0 cPage p.active va (some ⟨true, false, c, va⟩)
    | none =>
      let w := insWord op e
      let x := if e.x then e.ext else 0
      let p := { p with stall := .none }
      let res := if encOk op e p.alloc then (body d pk p).checked (p.badReads op e)
        else .fault cIllegal (if guardOk e.guard then p.parts e else p.active) 0 none
      match res with
        | .done d q => (d.setPlait pk (({ q with pc := q.pc + insLen e }).settle.healed p op e)).issued pk p op e
        | .jump d q => (d.setPlait pk (q.settle.healed p op e)).issued pk p op e
        | .fault code mask addr mem =>
          if mask == 0 then (d.setPlait pk ({ p with pc := p.pc + insLen e }).settle).issued pk p op e
          else ((if code = cUncorrectable then d.foundBad pk p op e addr else d).strandFault pk p w x code mask addr mem).spent pk p
        | .wait d => d

/-- An instruction that only changes its plait. -/
def runReg (op : Nat) (f : Nat → Plait → Plait) (r : PlaitRef) (e : Enc) (d : Dev) : Dev :=
  runIns op (fun d pk p => .done d (f pk p)) r e d

/-- A meaning that changes the device only. -/
def onDev (f : Dev → Dev) (s : State) : Host.Outcome State Fault Refusal := .next { s with dev := f s.dev }

end Sys2Proof.Machine
end

