-- ==== Sys2Proof/Machine/TileOut.lean ====
section
/-! DEFINITION. Element runs in cluster local memory (05 R181), and the encoding of an output tile with its rim and block
scales (04 R164 to R166, 07 R250): shared by array drains and chain outputs. -/

namespace Sys2Proof.Machine

/-- Bytes of a run of n elements of a format. -/
def runBytes (f n : Nat) : Nat := ceilDiv (fmtBits f * n) 8

/-- A run of n elements in memory form: every format packs element k at bit width * k of the little-endian run (05 R181). -/
def readRun (m : Mem) (a f n : Nat) : List Nat :=
  let x := m.readLE a (runBytes f n)
  (List.range n).map (fun k => x / 2 ^ (fmtBits f * k) % 2 ^ fmtBits f)

/-- Number that a list of elements of w bits packs to. -/
def packRun (w : Nat) : List Nat → Nat
  | [] => 0
  | e :: t => e % 2 ^ w + 2 ^ w * packRun w t

/-- The writes of a run: only the bits of its elements (05 R181). -/
def runWrites (a f : Nat) (es : List Nat) : List BitWr :=
  let n := runBytes f es.length
  let v := leBytes n (packRun (fmtBits f) es)
  let k := leBytes n (2 ^ (fmtBits f * es.length) - 1)
  (List.range n).map (fun i => (a + i, k.getD i 0, v.getD i 0))

/-- The writes of whole bytes. -/
def byteWrites (a : Nat) (l : List W8) : List BitWr := l.zipIdx.map (fun b => (a + b.2, 0xFF#8, b.1))

/-- Carries out writes under their masks, in order. -/
def Mem.apply (m : Mem) (l : List BitWr) : Mem := l.foldl (fun m w => m.write w.1 ((m.read w.1 &&& ~~~w.2.1) ||| (w.2.2 &&& w.2.1))) m

/-- What an output tile of m rows and l columns is encoded with; offsets are positions in cluster local memory. -/
structure OutSpec where
  m : Nat
  l : Nat
  fmt : Nat
  rnd : Nat
  rsmax : Nat
  rim : W32
  seed : W64
  round : W64
  tensor : W32
  base : W64
  pitch : Nat
  trans : Bool
  off : Nat
  stride : Nat
  scOff : Nat
  scPitch : Nat
  rimOff : Nat

/-- Element index of 04 R166 and 06 R218. -/
def elemIdx (base : W64) (pitch : Nat) (trans : Bool) (m j : Nat) : W64 :=
  if trans then base + BitVec.ofNat 64 (pitch * j + m) else base + BitVec.ofNat 64 (pitch * m + j)

/-- round_fp32(v / r) with saturation (04 R164, 05 R195). -/
def quot32 (v r : W32) : W32 := sat32 (divV (dec32 v) (dec32 r))

/-- The larger of two magnitudes. -/
def maxV (a b : FVal) : FVal := if cmpV a b < 0 then b else a
/-- Is |v| at or below maxfin of a format times 2^s? -/
def leMax (c s : Nat) : FVal → Bool
  | .fin _ n d => !aboveMax c n (d * 2 ^ s)
  | _ => false

/-- Contribution of one finite value to `need`: |x0|, or the exact quotient where that is above maxfin of FP32. -/
def needOf (v rim : W32) : FVal :=
  let q := (divV (dec32 v) (dec32 rim)).abs
  if saturates 0 q then q else (dec32 (quot32 v rim)).abs

/-- Rim shift and whether the tile overflowed (04 R164). -/
def rimShift (fmt rsmax : Nat) (rim : W32) (nonfinite : Bool) (need : FVal) : Nat × Bool :=
  if nonfinite then (0, true)
  else if leMax fmt 0 need then (0, false)
  else
    let s := ((List.range 300).find? (fun s => decide (1 ≤ s) && leMax fmt s need)).getD 300
    let t := min (min s rsmax) (254 - bits rim 23 8)
    (t, decide (t < s))

/-- The smallest power of two p with amax at or below maxfin times p (07 R250). -/
def amaxRim (fmt : Nat) (amax : FVal) : W32 :=
  match (List.range 254).find? (fun k => match amax with
    | .fin _ n d => !aboveMax fmt (n * 2 ^ 126) (d * 2 ^ k)
    | _ => false) with
  | some k => pow2f ((k : Int) - 126)
  | none => pow2f 127

/-- Block scale of a block of quotients (04 R165). -/
def blockScale (fmt : Nat) (xs : List W32) : Nat :=
  if !narrow fmt then 127
  else ((List.range 128).find? (fun (b : Nat) => xs.all (fun x => leMax fmt 0 ((dec32 x).abs.shift (127 - (b : Int)))))).getD 127

/-- Rounding mode of element (m, j) by RND (04 R148, R166). -/
def OutSpec.mode (o : OutSpec) (m j : Nat) : Rnd :=
  match o.rnd with
  | 0 => .rne
  | 1 => .rtz
  | _ => .sto (gen o.seed o.round o.tensor (elemIdx o.base o.pitch o.trans m j))

/-- One element encoded under scale b, and whether it is a saturated element (04 R165, 05 R191). -/
def OutSpec.enc (o : OutSpec) (r : W32) (b m j : Nat) (v : W32) : Nat × Bool :=
  let q := divV (dec32 v) (dec32 r)
  let x := (dec32 (sat32 q)).shift (127 - (b : Int))
  (convertV o.fmt (o.mode m j) x, saturates 0 q || (q.isFin && saturates o.fmt x))

/-- Row i of a list of values of l columns. -/
def rowOf {α : Type} (l : Nat) (vs : List α) (i : Nat) : List α := (vs.drop (i * l)).take l

/-- Encodes an output tile: shift, scales, elements, writes in the order rows with their scales, then the applied rim. -/
def drainOut (o : OutSpec) (jit : Bool) (vs : List W32) : DrainOut :=
  let fin := vs.filter (fun v => (dec32 v).isFin)
  let nonfinite := fin.length != vs.length
  let amax := (fin.map (fun v => (dec32 v).abs)).foldl maxV (.fin false 0 1)
  let need := (fin.map (fun v => needOf v o.rim)).foldl maxV (.fin false 0 1)
  let first := jit && !nonfinite && !amax.isZero
  let so := if first then (0, false) else rimShift o.fmt o.rsmax o.rim nonfinite need
  let r := if first then amaxRim o.fmt amax else o.rim + BitVec.ofNat 32 (so.1 * 2 ^ 23)
  let rows := (List.range o.m).map (fun i => (i, rowOf o.l vs i))
  let scales := rows.map (fun iv => (List.range (ceilDiv o.l 32)).map (fun g => blockScale o.fmt (((iv.2.drop (32 * g)).take 32).map (fun v => quot32 v r))))
  let es := rows.map (fun iv => iv.2.zipIdx.map (fun vj => o.enc r ((scales.getD iv.1 []).getD (vj.2 / 32) 127) iv.1 vj.2 vj.1))
  let wr := (List.range o.m).flatMap (fun i =>
    runWrites (o.off + 32 * o.stride * i) o.fmt ((es.getD i []).map (fun e => e.1))
      ++ (if narrow o.fmt then byteWrites (o.scOff + o.scPitch * i) ((scales.getD i []).map (BitVec.ofNat 8)) else []))
  { writes := wr ++ byteWrites o.rimOff (leBytes 4 r.toNat), shift := so.1, rim := r, amax := rne32 amax,
    saturated := ((es.flatMap id).filter (fun e => e.2)).length, recomputed := decide (so.1 != 0), overflowed := so.2, nonfinite := nonfinite,
    sampled := false, elems := (es.flatMap id).map (fun e => e.1), scales := scales.flatMap id }

/-- The completion status record of 04 Table 4-5. -/
def statusRecord (out : Option DrainOut) (cycles : W64) : List W8 :=
  match out with
  | none => leBytes 16 0 ++ leBytes 8 cycles.toNat ++ leBytes 8 0
  | some o =>
    leBytes 1 ((if o.recomputed then 1 else 0) + (if o.overflowed then 2 else 0) + (if o.nonfinite then 4 else 0) + (if o.sampled then 8 else 0))
      ++ leBytes 1 o.shift ++ leBytes 2 0 ++ leBytes 4 o.amax.toNat ++ leBytes 4 o.rim.toNat ++ leBytes 4 o.saturated
      ++ leBytes 8 cycles.toNat ++ leBytes 8 0

/-- A tile that overflowed is reported to the loss-scale controller for the round of its command; a report after that
round has latched or ticked is also counted in LATE; with LSC_CTRL.EN clear no flag is raised (04 R167, 07 R240). -/
def Dev.report (d : Dev) (p round : Nat) : Dev :=
  d.updPart p (fun u =>
    if !u.lsc.ctrl.getLsbD 0 then u else
    let late := u.lsc.latched || u.rnd.index.toNat != round
    { u with lsc := { u.lsc with pending := true, reports := u.lsc.reports + 1, late := if late then satAdd 0xFFFFFFFF u.lsc.late 1 else u.lsc.late } })

/-- Does a drain or chain output of this format run amax-first now (07 R250)? -/
def Dev.jitFor (d : Dev) (ctx fmt rsmax : Nat) : Bool :=
  match d.parts.get? (d.partOf ctx) with
  | some u => decide (u.lsc.jitLeft != 0) && decide (3 ≤ fmt) && decide (1 ≤ rsmax)
  | none => false

end Sys2Proof.Machine
end

