-- ==== Sys2Proof/Machine/MxaDesc.lean ====
section
/-! DEFINITION. Matrix descriptors (04 Tables 4-1, 4-2) and chain descriptors (06 Tables 6-1 to 6-6): fields, and the
checks made when they are accepted (04 R153, 06 R220). -/

namespace Sys2Proof.Machine

/-- Bytes lo to lo + n - 1 of a descriptor. -/
def df (x lo n : Nat) : Nat := x / 256 ^ lo % 256 ^ n
/-- Bits lo to lo + len - 1 of its first word, CTRL or CCTRL. -/
def dc (x lo len : Nat) : Nat := x / 2 ^ lo % 2 ^ len

/-- A check that failed: its code and the address recorded. -/
abbrev DescErr := Nat × Nat

/-- The fault chosen among those met: the code of lowest priority number, the first offset (02 R90, 04 R153). -/
def firstErr : List DescErr → Option DescErr
  | [] => none
  | e :: t => match firstErr t with
    | none => some e
    | some x => some (if e.1 < x.1 || (e.1 = x.1 && e.2 ≤ x.2) then e else x)

/-- Errors of offsets that must be multiples of a size. -/
def misErrs (n : Nat) (l : List Nat) : List DescErr := (l.filter (fun o => o % n != 0)).map (fun o => (cMisaligned, o))
/-- Errors of ranges that reach beyond the window. -/
def boundErrs (size : Nat) (l : List (Nat × Nat)) : List DescErr :=
  (l.filter (fun r => r.2 != 0 && decide (size < r.1 + r.2))).map (fun r => (cBounds, max r.1 size))
/-- Rows of a strided operand. -/
def strided (off pitch n count : Nat) : List (Nat × Nat) := (List.range count).map (fun i => (off + pitch * i, n))
def illIf (b : Bool) : List DescErr := if b then [(cIllegal, 0)] else []
/-- Element rows of a tile with its block scales where the format has them (04 R151, R152). -/
def tileRanges (f m l off stride scOff scPitch : Nat) : List (Nat × Nat) :=
  strided off (32 * stride) (runBytes f l) m ++ (if narrow f then strided scOff scPitch (ceilDiv l 32) m else [])

/-! Matrix descriptors. -/

def dM (x : Nat) : Nat := dc x 32 7
def dK (x : Nat) : Nat := dc x 40 7
def dN (x : Nat) : Nat := dc x 48 7
def dOpc (x : Nat) : Nat := dc x 0 4
def dTrans (x : Nat) : Bool := dc x 4 1 = 1
/-- Contraction length and output width (04 R150); a DRAIN covers N columns (R149). -/
def dLc (x : Nat) : Nat := if dTrans x then dN x else dK x
def dLo (x : Nat) : Nat := if dOpc x = 2 then dN x else if dTrans x then dK x else dN x
def dAfmt (x : Nat) : Nat := dc x 12 3
def dWfmt (x : Nat) : Nat := dc x 15 3
def dDfmt (x : Nat) : Nat := dc x 18 3
def dInit (x : Nat) : Nat := dc x 8 2
def dWload (x : Nat) : Bool := dOpc x = 1 || (dOpc x = 0 && dc x 6 1 = 1)
def dDrains (x : Nat) : Bool := dOpc x = 2 || (dOpc x = 0 && dc x 10 1 = 1)
def dFuse (x : Nat) : Bool := dDrains x && dc x 11 1 = 1
def dStat (x : Nat) : Bool := dc x 29 1 = 1

/-- Input and weight formats that form a pair (04 R155). -/
def pairOk (a w : Nat) : Bool := (narrow a && narrow w) || (a = w && (a = 7 || a < 3))

/-- Illegal fields of a matrix descriptor (04 R153). -/
def descIllegal (x : Nat) (fmt : Nat → Bool) : Bool :=
  let dim (v : Nat) : Bool := decide (1 ≤ v) && decide (v ≤ 64)
  let opc := dOpc x
  let rim (lo : Nat) : Bool := posNormal (BitVec.ofNat 32 (df x lo 4))
  dc x 55 9 != 0 || dc x 47 1 != 0 || dc x 39 1 != 0 || dc x 31 1 != 0 || df x 0x36 2 != 0 || df x 0x68 8 != 0
  || decide (2 < opc) || dInit x = 3 || dc x 21 2 = 3
  || !dim (dN x) || (opc != 1 && !dim (dM x)) || (opc != 2 && !dim (dK x))
  || (opc = 0 && (!pairOk (dAfmt x) (dWfmt x) || !fmt (dAfmt x) || !rim 0x38 || !rim 0x3C))
  || (opc != 2 && !fmt (dWfmt x)) || (dDrains x && (!fmt (dDfmt x) || !rim 0x40))

/-- Ranges of the window that the streaming of a MATMUL, its initial-accumulator load and a weight load read (04 R151, R152). -/
def streamReads (x : Nat) : List (Nat × Nat) :=
  tileRanges (dAfmt x) (dM x) (dLc x) (df x 0x08 4) (df x 0x28 2) (df x 0x0C 4) (df x 0x30 2)
  ++ (if narrow (dWfmt x) then
      (if dc x 30 1 = 1 then strided (df x 0x14 4) (df x 0x32 2) (ceilDiv (dN x) 32) (dK x)
       else strided (df x 0x14 4) (df x 0x32 2) (dN x) (ceilDiv (dK x) 32)) else [])
def initReads (x : Nat) : List (Nat × Nat) := strided (df x 0x18 4) (32 * df x 0x2C 2) (4 * dLo x) (dM x)
def weightReads (x : Nat) : List (Nat × Nat) := strided (df x 0x10 4) (32 * df x 0x2A 2) (runBytes (dWfmt x) (dN x)) (dK x)

/-- Ranges of the window that a matrix descriptor reads or writes. -/
def descRanges (x : Nat) : List (Nat × Nat) :=
  (if dOpc x = 0 then streamReads x ++ (if dInit x = 2 then initReads x else []) else [])
  ++ (if dWload x then weightReads x else [])
  ++ (if dDrains x then tileRanges (dDfmt x) (dM x) (dLo x) (df x 0x1C 4) (df x 0x2E 2) (df x 0x20 4) (df x 0x34 2) ++ [(df x 0x24 4, 4)] else [])
  ++ (if dStat x then [(df x 0x44 4, 32)] else [])

/-- Offsets of a matrix descriptor that must be multiples of 32. -/
def descAligned (x : Nat) : List Nat :=
  (if dOpc x = 0 then [df x 0x08 4] else []) ++ (if dWload x then [df x 0x10 4] else [])
  ++ (if dOpc x = 0 && dInit x = 2 then [df x 0x18 4] else []) ++ (if dDrains x then [df x 0x1C 4] else [])
  ++ (if dStat x then [df x 0x44 4] else [])

/-! Chain descriptors. -/

def cN (x : Nat) : Nat := dc x 40 7
def cM (x : Nat) : Nat := dc x 32 7
def cXfmt (x : Nat) : Nat := dc x 15 3
def cYfmt (x : Nat) : Nat := dc x 18 3
def cYwr (x : Nat) : Bool := dc x 12 1 = 1
def cRed (x : Nat) : Nat := dc x 13 2
def cNinstr (x : Nat) : Nat := dc x 0 6
def cStat (x : Nat) : Bool := dc x 29 1 = 1
/-- Channel k, its enable, offset, stride, axis, format (06 Table 6-6). -/
def chan (x k : Nat) : Nat := df x (0x60 + 8 * k) 8
def chEn (c : Nat) : Bool := c % 2 = 1
def chOff (c : Nat) : Nat := c / 2 ^ 32
def chStride (c : Nat) : Nat := c / 2 ^ 16 % 2 ^ 16
def chAxis (c : Nat) : Nat := c / 2 ^ 14 % 2
def chFmt (c : Nat) : Nat := c / 2 ^ 12 % 4
def chSize (c : Nat) : Nat := if chFmt c = 0 then 4 else 2
/-- Elements of channel k over a region of m rows and l columns (06 R215, R225). -/
def chCount (k c m l : Nat) : Nat := if 6 ≤ k then 1 else if chAxis c = 1 then m else l
/-- Instruction k and its fields (06 Table 6-4). -/
def cIns (x k : Nat) : Nat := df x (0xA0 + 8 * k) 8
def iImm (w : Nat) : Nat := w / 2 ^ 32
def iOp (w : Nat) : Nat := w / 2 ^ 26 % 64
def iD (w : Nat) : Nat := w / 2 ^ 22 % 16
def iA (w : Nat) : Nat := w / 2 ^ 17 % 32
def iB (w : Nat) : Nat := w / 2 ^ 12 % 32
def iC (w : Nat) : Nat := w / 2 ^ 7 % 32
def iRm (w : Nat) : Nat := w / 2 ^ 5 % 4
def iFn (w : Nat) : Nat := w % 32

/-- Operands that an opcode reads, and its cost (06 Table 6-5). -/
def opReads (op : Nat) : Nat :=
  if op = 0 || (7 ≤ op && op < 0x10) || op = 0x12 || op = 0x13 then 1
  else if op = 4 || op = 0x11 || op = 0x15 then 3 else if op = 0x14 then 0 else 2
def opCost (op : Nat) : Nat := if 8 ≤ op && op < 0x10 then 4 else if op = 0x14 || op = 0x15 then 2 else 1

/-- A selector that names an operand (06 R211, R214); `imm` where IMM may be named. -/
def selOk (x : Nat) (imm : Bool) (s : Nat) : Bool :=
  decide (s < 17) || (17 ≤ s && s < 25 && chEn (chan x (s - 17))) || s = 25 || s = 26 || (imm && s = 27)

/-- An instruction that the checks accept (06 R212, R213, R220). -/
def insOk (x : Nat) (fmt : Nat → Bool) (w : Nat) : Bool :=
  let op := iOp w
  let n := opReads op
  let rm := iRm w
  let fn := iFn w
  let names : List Nat := [iA w, iB w, iC w].take n
  let fnOk := if op = 7 || op = 0x13 then decide (fn < 4) else if op = 0x10 || op = 0x12 then decide (fn < 8) else fn = 0
  let rmOk := rm = 0 || (rm = 1 && ((1 ≤ op && op ≤ 4) || op = 0x12)) || (rm = 2 && op = 0x12)
  let immUsed := names.contains 27 || op = 0x14 || op = 0x15 || (op = 0x12 && rm = 2)
  decide (op ≤ 0x16) && names.all (selOk x true) && (([iA w, iB w, iC w].drop n).all (fun s => s == 0))
  && fnOk && rmOk && (immUsed || iImm w = 0) && (op != 0x12 || fmt fn)

/-- Illegal fields of a chain descriptor. -/
def chainIllegal (x : Nat) (fused : Bool) (fmt : Nat → Bool) : Bool :=
  let dim (v : Nat) : Bool := decide (1 ≤ v) && decide (v ≤ 64)
  let ninstr := cNinstr x
  let chOk (k : Nat) : Bool :=
    let c := chan x k
    c / 2 % 2 ^ 11 = 0 && c / 2 ^ 15 % 2 = 0
    && (!chEn c || (chFmt c != 3 && (if 6 ≤ k then chStride c = 0 && chAxis c = 0 else chStride c != 0)))
  dc x 61 3 != 0 || dc x 53 3 != 0 || dc x 47 1 != 0 || dc x 39 1 != 0 || dc x 6 3 != 0 || df x 0x3C 4 != 0 || df x 0x58 8 != 0
  || cRed x = 3 || decide (3 < dc x 9 3) || decide (32 < ninstr) || !(List.range 8).all chOk
  || !(List.range (min ninstr 32)).all (fun k => insOk x fmt (cIns x k))
  || !selOk x false (dc x 56 5) || (cRed x != 0 && !selOk x false (dc x 48 5))
  || (!fused && (dc x 21 2 = 3 || !dim (cM x) || !dim (cN x) || !fmt (cXfmt x) || !posNormal (BitVec.ofNat 32 (df x 0x30 4))
      || (cYwr x && (!fmt (cYfmt x) || !posNormal (BitVec.ofNat 32 (df x 0x34 4))))))

/-- The source tile of a standalone chain, the places of the reduction results, the channels (06 R215 to R217, R221). -/
def sourceReads (x m l : Nat) : List (Nat × Nat) := tileRanges (cXfmt x) m l (df x 0x08 4) (df x 0x28 2) (df x 0x0C 4) (df x 0x2C 2)
def redPlaces (x m l : Nat) : List (Nat × Nat) := if cRed x = 0 then [] else [(df x 0x20 4, 4 * (if cRed x = 1 then m else l))]
def chanReads (x m l : Nat) : List (Nat × Nat) :=
  (List.range 8).flatMap (fun k =>
    let c := chan x k
    if chEn c && chFmt c != 3 then strided (chOff c) (chStride c * chSize c) (chSize c) (chCount k c m l) else [])

/-- What a chain over a region of m rows and l columns reads of its window (06 R223). -/
def chainReads (x : Nat) (fused : Bool) (m l : Nat) : List (Nat × Nat) :=
  (if fused then [] else sourceReads x m l) ++ chanReads x m l ++ (if dc x 30 1 = 1 then redPlaces x m l else [])

/-- Ranges that a chain reads or writes beside its own descriptor; m and l are the region's size. -/
def chainRanges (x : Nat) (fused : Bool) (m l : Nat) : List (Nat × Nat) :=
  (if fused then [] else
    sourceReads x m l
    ++ (if cYwr x then tileRanges (cYfmt x) m l (df x 0x10 4) (df x 0x2A 2) (df x 0x14 4) (df x 0x2E 2) ++ [(df x 0x18 4, 4)] else [])
    ++ (if cStat x then [(df x 0x1C 4, 32)] else []))
  ++ redPlaces x m l ++ chanReads x m l

/-- Misaligned offsets of a chain. -/
def chainMis (x : Nat) (fused : Bool) : List DescErr :=
  (if fused then [] else
    misErrs 32 ([df x 0x08 4] ++ (if cYwr x then [df x 0x10 4] else []) ++ (if cStat x then [df x 0x1C 4] else []))
    ++ (if cYwr x then misErrs 4 [df x 0x18 4] else []))
  ++ (if cRed x = 0 then [] else misErrs 4 [df x 0x20 4])
  ++ (List.range 8).flatMap (fun k => let c := chan x k; if chEn c && chFmt c != 3 then misErrs (chSize c) [chOff c] else [])

/-- Reads a chain descriptor at a window offset and checks it; dims are the region of a fused chain. The descriptor as
read, and the checks that failed (06 R220). -/
def chainCheck (clm : Mem) (base size off : Nat) (fmt : Nat → Bool) (fused : Option (Nat × Nat)) : Nat × List DescErr :=
  if off % 32 != 0 then (0, [(cMisaligned, off)])
  else if size < off + 0xA0 then (0, [(cBounds, max off size)])
  else
    let h := clm.readLE (base + off) 0xA0
    let n := cNinstr h
    if n ≤ 32 && decide (size < off + 0xA0 + 8 * n) then (0, [(cBounds, size)])
    else
      let x := clm.readLE (base + off) (0xA0 + 8 * min n 32)
      let dims := fused.getD (cM x, cN x)
      (x, illIf (chainIllegal x fused.isSome fmt) ++ chainMis x fused.isSome ++ boundErrs size (chainRanges x fused.isSome dims.1 dims.2))

/-- Checks a matrix descriptor that has been read, with its fused chain: the chain descriptor, and the failed checks. -/
def descCheck (clm : Mem) (base size x : Nat) (fmt : Nat → Bool) : Nat × List DescErr :=
  let own := illIf (descIllegal x fmt) ++ misErrs 32 (descAligned x) ++ (if dDrains x then misErrs 4 [df x 0x24 4] else [])
    ++ boundErrs size (descRanges x)
  if dFuse x then
    let c := chainCheck clm base size (df x 0x48 4) fmt (some (dM x, dLo x))
    (c.1, own ++ c.2)
  else (0, own)

end Sys2Proof.Machine
end

