-- ==== Sys2Proof/Machine/Arrays.lean ====
section
/-! DEFINITION. The events of matrix arrays (04): weight loads, streaming, last results, unfused drain passes, fragment
reads, completion, packing and shadow comparison. An event acts on the first accepted operation for which its conditions
of 04 Table 4-4 hold; without one it changes nothing. -/

namespace Sys2Proof.Machine

/-- The buffer an operation reads or writes. -/
def AOp.anyBuf (o : AOp) : Option Nat := match o.kind with
  | .matmul => some (o.ctrl 7 1)
  | .drain => some (o.ctrl 7 1)
  | .mxr f _ _ => some (f / 32)
  | _ => none

/-- Does an operation stream against weight bank b? -/
def AOp.readsBank (o : AOp) (b : Nat) : Bool := match o.kind with
  | .matmul => o.ctrl 5 1 = b
  | _ => false

/-- A drain that has finished reading its buffer: a fused one after its first pass (04 R157). -/
def AOp.drainRead (o : AOp) : Bool := o.drain == .done || (o.fuse && decide (1 ≤ o.pass))
/-- Everything the operation does with its buffer is over. -/
def AOp.offBuf (o : AOp) : Bool := o.result == .done && o.drainRead && o.read == .done
def AOp.allDone (o : AOp) : Bool :=
  o.wload == .done && o.init == .done && o.stream == .done && o.result == .done && o.drain == .done && o.read == .done
/-- Does it write cluster local memory? -/
def AOp.writesClm (o : AOp) : Bool := match o.kind with
  | .matmul => dDrains o.desc || dStat o.desc
  | .loadw => dStat o.desc
  | .drain => true
  | _ => false

/-! Conditions of the events, given the earlier operations of the queue. -/

def canWload (es : List AOp) (o : AOp) : Bool :=
  o.wload == .idle && es.all (fun e => e.wload == .done)
  && (match o.bank? with | some b => es.all (fun e => !e.readsBank b || e.stream == .done) | none => true)
def canWend (_ : List AOp) (o : AOp) : Bool := o.wload == .run
def canInit (es : List AOp) (o : AOp) : Bool := o.init == .idle && es.all (fun e => e.anyBuf != o.anyBuf || e.offBuf)
def canStream (es : List AOp) (o : AOp) : Bool :=
  o.stream == .idle && o.wload == .done && o.init == .done
  && es.all (fun e => e.stream == .done && (e.wload == .done || !(e.bank? == some (o.ctrl 5 1)))
      && (dInit o.desc != 1 || e.anyBuf != o.anyBuf || e.drainRead))
def canStreamEnd (_ : List AOp) (o : AOp) : Bool := o.stream == .run
def canResult (es : List AOp) (o : AOp) : Bool :=
  o.stream == .done && o.result == .idle && es.all (fun e => e.anyBuf != o.anyBuf || e.offBuf)
/-- A drain pass may begin: its results are in the buffer and the previous drain pass on the array has ended. -/
def canPass (es : List AOp) (o : AOp) : Bool :=
  o.drain == .idle && o.result == .done && es.all (fun e => e.drain == .done && (e.anyBuf != o.anyBuf || e.result == .done))
def canDrain (es : List AOp) (o : AOp) : Bool := canPass es o && !o.fuse
def canDrainEnd (_ : List AOp) (o : AOp) : Bool := o.drain == .run && !o.fuse
def canRead (es : List AOp) (o : AOp) : Bool := o.read == .idle && es.all (fun e => e.anyBuf != o.anyBuf || e.result == .done)
def canComplete (es : List AOp) (o : AOp) : Bool := o.allDone && (!o.writesClm || es.all (fun e => !e.writesClm))

/-- Position of the first operation for which an event's condition holds. -/
def MArray.first (a : MArray) (g : List AOp → AOp → Bool) : Option Nat :=
  (List.range a.queue.length).find? (fun j => match a.queue[j]? with
    | some o => g (a.queue.take j) o
    | none => false)

def Dev.updOp (d : Dev) (k j : Nat) (f : AOp → AOp) : Dev :=
  d.updArray k (fun a => { a with queue := a.queue.zipIdx.map (fun o => if o.2 = j then f o.1 else o.1) })

/-- An event of array k on the operation at position j, when its condition holds there and the tile's clock runs (13 R441). -/
def Dev.opEvent (d : Dev) (k j : Nat) (g : List AOp → AOp → Bool) (f : Dev → Nat → Nat → AOp → Dev) : Dev :=
  match (d.array k).queue[j]? with
  | some o => if g ((d.array k).queue.take j) o && !d.stopped (ckTile (k / 4)) then f d k j o else d
  | none => d

/-- An event of array k on the first operation for which its condition holds. -/
def Dev.arrEvent (d : Dev) (k : Nat) (g : List AOp → AOp → Bool) (f : Dev → Nat → Nat → AOp → Dev) : Dev :=
  match (d.array k).first g with
  | some j => d.opEvent k j g f
  | none => d

/-! Uncorrectable errors and energy (04 R139, 06 R237; 13 Table 13-5). -/

/-- First window offset of ranges at which a window of a cluster holds an uncorrectable error. -/
def Cluster.badOff (c : Cluster) (base : Nat) (l : List (Nat × Nat)) : Option Nat :=
  (l.find? (fun r => r.2 != 0 && c.badAt (base + r.1) r.2)).map (fun r => r.1)

/-- Do ranges of bank or buffer b touch a word listed as in error; the words that are left when ranges of it are written whole. -/
def badWord (l : List Nat) (b : Nat) (rs : List (Nat × Nat)) : Bool :=
  l.any (fun w => w / 4096 = b && rs.any (fun r => decide (r.1 < 4 * (w % 4096) + 4) && decide (4 * (w % 4096) < r.1 + r.2)))
def healWords (l : List Nat) (b : Nat) (rs : List (Nat × Nat)) : List Nat :=
  l.filter (fun w => !(w / 4096 = b && rs.any (fun r => decide (r.1 ≤ 4 * (w % 4096)) && decide (4 * (w % 4096) + 4 ≤ r.1 + r.2))))

/-- An event that reads what the issuer's operation names: it faults at an uncorrectable error there, at a window offset or, in an array or a
staging buffer, without an address. -/
def Dev.reading (d : Dev) (ck : Nat) (b : Issuer) (off : Option Nat) (store : Bool) (f : Dev → Dev) : Dev :=
  match off with
  | some a => d.opFault ck b a
  | none => if store then d.opFault ck b 0 else f d

/-- Energy events of a cluster's context, and of the 32-byte lines of local memory that ranges from `base` touch. -/
def Dev.spendOn (d : Dev) (ck cls n : Nat) : Dev := Dev.spend (ckTile ck) ((d.cluster ck).ctx.getD 64) cls n d
def clmLines (base : Nat) (l : List (Nat × Nat)) : Nat := (l.map (fun r => (base + r.1 + r.2 + 31) / 32 - (base + r.1) / 32)).foldl (· + ·) 0
def Dev.spendClm (d : Dev) (ck base : Nat) (l : List (Nat × Nat)) : Dev := d.spendOn ck 8 (clmLines base l)

/-- Writes an operation's results to cluster local memory. -/
def Dev.clmApply (d : Dev) (ck : Nat) (ws : List BitWr) : Dev :=
  let whole := (ws.filter (fun w => w.2.1 == 0xFF#8)).map (fun w => w.1)
  (d.updCluster ck (fun c => { c with
    clm := c.clm.apply ws
    badClm := c.badClm.filter (fun w => !(List.range 4).all (fun n => whole.contains (4 * w + n))) })).spendOn ck 8 ((ws.map (fun w => w.1 / 32)).eraseDups.length)

/-! Banks and buffers. -/

def MArray.bank (a : MArray) (b : Nat) : Mem := if b = 0 then a.wb0 else a.wb1
def MArray.setBank (a : MArray) (b : Nat) (m : Mem) : MArray := if b = 0 then { a with wb0 := m } else { a with wb1 := m }
def MArray.buf (a : MArray) (b : Nat) : Mem := if b = 0 then a.ab0 else a.ab1
def MArray.setBuf (a : MArray) (b : Nat) (m : Mem) : MArray := if b = 0 then { a with ab0 := m } else { a with ab1 := m }
/-- Row pitch of a weight bank (04 R137). -/
def bankPitch (f : Nat) : Nat := 8 * fmtBits f
/-- Cluster local memory that array k works on. -/
def Dev.aclm (d : Dev) (k : Nat) : Mem := (d.cluster (k / 4)).clm

/-- What a weight load leaves in the bank (04 R151, R173). -/
def loadedBank (clm bank : Mem) (o : AOp) : Mem := match o.kind with
  | .mxw f data => bank.writeN (512 * (f % 32)) data
  | .mxr _ _ _ => bank
  | _ =>
    let x := o.desc
    (List.range (dK x)).foldl (fun (b : Mem) r =>
      b.apply (runWrites (r * bankPitch (dWfmt x)) (dWfmt x) (readRun clm (o.by_.base + df x 0x10 4 + 32 * df x 0x2A 2 * r) (dWfmt x) (dN x)))) bank

def Dev.wloadStart (d : Dev) (k j : Nat) (_ : AOp) : Dev := d.updOp k j (fun o => { o with wload := .run })

/-- Ranges of the bank that a weight load writes, and that a MATMUL reads. -/
def AOp.bankRanges (o : AOp) : List (Nat × Nat) := match o.kind with
  | .mxw f _ => [(512 * (f % 32), 512)]
  | .mxr _ _ _ => []
  | _ => strided 0 (bankPitch (dWfmt o.desc)) (runBytes (dWfmt o.desc) (dN o.desc)) (dK o.desc)

/-- Ranges of the buffer that an operation's region covers. -/
def AOp.bufRanges (o : AOp) : List (Nat × Nat) := strided 0 256 (4 * dLo o.desc) (dM o.desc)

/-- What a weight load reads of its window; MXW has its bytes already. -/
def AOp.weightReads (o : AOp) : List (Nat × Nat) := match o.kind with
  | .mxw _ _ => []
  | .mxr _ _ _ => []
  | _ => Machine.weightReads o.desc

def Dev.wloadEnd (d : Dev) (k j : Nat) (o : AOp) : Dev :=
  let ck := k / 4
  d.reading ck o.by_ ((d.cluster ck).badOff o.by_.base o.weightReads) false (fun d =>
    let d := match o.bank? with
      | some b => d.updArray k (fun a => { a.setBank b (loadedBank (d.aclm k) (a.bank b) o) with badW := healWords a.badW b o.bankRanges })
      | none => d
    (d.spendClm ck o.by_.base o.weightReads).updOp k j (fun o => { o with wload := .done }))

/-- The initial-accumulator load (04 R154). -/
def Dev.initEnd (d : Dev) (k j : Nat) (o : AOp) : Dev :=
  let x := o.desc
  let ck := k / 4
  d.reading ck o.by_ ((d.cluster ck).badOff o.by_.base (initReads x)) false (fun d =>
    let clm := d.aclm k
    let b := o.ctrl 7 1
    let d := d.updArray k (fun a =>
      { a.setBuf b ((List.range (dM x)).foldl (fun (m : Mem) r =>
          m.writeN (256 * r) (clm.readN (o.by_.base + df x 0x18 4 + 32 * df x 0x2C 2 * r) (4 * dLo x))) (a.buf b))
        with badA := healWords a.badA b o.bufRanges })
    (d.spendClm ck o.by_.base (initReads x)).updOp k j (fun o => { o with init := .done }))

/-! The product (04 R150, R152, R158). -/

/-- A stored value with its block scale (05 R184). -/
def scaled (f e : Nat) (b : W8) : FVal := if narrow f then (decodeC f e).e8m0 b.toNat else decodeC f e

/-- Input row r of a MATMUL. -/
def inputRow (clm : Mem) (o : AOp) (r : Nat) : List FVal :=
  let x := o.desc
  let f := dAfmt x
  (readRun clm (o.by_.base + df x 0x08 4 + 32 * df x 0x28 2 * r) f (dLc x)).zipIdx.map (fun e =>
    scaled f e.1 (clm.read (o.by_.base + df x 0x0C 4 + df x 0x30 2 * r + e.2 / 32)))

/-- Weight (k, n) with its scale. -/
def weight (clm : Mem) (o : AOp) (row : List Nat) (k n : Nat) : FVal :=
  let x := o.desc
  let at_ := if dc x 30 1 = 1 then df x 0x32 2 * k + n / 32 else df x 0x32 2 * (k / 32) + n
  scaled (dWfmt x) (row.getD n 0) (clm.read (o.by_.base + df x 0x14 4 + at_))

/-- Weights that output column j contracts with, in contraction order. -/
def weightCols (clm bank : Mem) (o : AOp) : List (List FVal) :=
  let x := o.desc
  let rows := (List.range (dK x)).map (fun k => readRun bank (k * bankPitch (dWfmt x)) (dWfmt x) (dN x))
  (List.range (dLo x)).map (fun j => (List.range (dLc x)).map (fun i =>
    if dTrans x then weight clm o (rows.getD j []) j i else weight clm o (rows.getD i []) i j))

/-- Rounded sum of one block of products (04 R158). -/
def blockSum (rimprod : W32) (ps : List FVal) : W32 :=
  if ps.any FVal.isNan || (ps.any (fun p => p == .inf false) && ps.any (fun p => p == .inf true)) then nan32
  else match ps.find? (fun p => !p.isFin) with
    | some p => BitVec.ofNat 32 (infBits fp32 p.neg)
    | none =>
      match ps.foldl (fun (m : FVal) p => maxV m p.abs) (.fin false 0 1) with
      | .fin _ n dd =>
        if n = 0 then 0#32 else
        let e := floorLog2 n dd - 63
        let tr (p : FVal) : Int := match p with
          | .fin s a b => let q := scale2 a (-e); sgn s (q.1 / (q.2 * b))
          | _ => 0
        let s := (ps.map tr).foldl (· + ·) 0
        rne32 (mulV ((ofRat s 1 false).shift e) (dec32 rimprod))
      | _ => 0#32

/-- Blocks of 32 of a list, with fuel. -/
def blocks {α : Type} : Nat → List α → List (List α)
  | 0, _ => []
  | n + 1, l => l.take 32 :: blocks n (l.drop 32)

/-- The rounded block sums of every output element, row by row. -/
def matSums (clm bank : Mem) (o : AOp) : List (List W32) :=
  let x := o.desc
  let rp := fmul32 (BitVec.ofNat 32 (df x 0x38 4)) (BitVec.ofNat 32 (df x 0x3C 4))
  let ws := weightCols clm bank o
  (List.range (dM x)).flatMap (fun r =>
    let a := inputRow clm o r
    ws.map (fun w => (blocks (ceilDiv (dLc x) 32) (List.zipWith mulV a w)).map (blockSum rp)))

/-- Cycles that a descriptor streams (04 Table 4-3). -/
def streamCycles (x : Nat) : Nat :=
  if dAfmt x = 6 && dWfmt x = 6 then ceilDiv (dM x) 2
  else if dAfmt x = 1 || dAfmt x = 2 then 2 * dM x else if dAfmt x = 0 then 16 * dM x else dM x

/-- Energy class of a descriptor's array-cycles (13 Table 13-5). -/
def streamClass (x : Nat) : Nat :=
  if dAfmt x = 6 && dWfmt x = 6 then 0 else if dAfmt x = 7 then 2 else if dAfmt x = 1 || dAfmt x = 2 then 3 else if dAfmt x = 0 then 4 else 1

/-- Packing cycles of an array: counted, and their energy kept apart (04 R163; 13 Table 13-5, class 5). -/
def Dev.packed (d : Dev) (k n : Nat) : Dev :=
  (d.updTile (ckTile (k / 4)) (fun t => { t with mxa := { t.mxa with pack := wrapAdd 64 t.mxa.pack n } })).spendOn (k / 4) 5 n

/-- A gap of an array ends. -/
def Dev.gapEnd (d : Dev) (k : Nat) : Dev := d.updArray k (fun a => { a with packing := false, compared := false })

/-- Streaming starts; packing operations stop in the same cycle, after a number of them that timing decides (04 R162, log 10). -/
def Dev.streamStart (d : Dev) (k j : Nat) (_ : AOp) : Dev :=
  let d := if (d.array k).packing then d.drew.packed k (d.draw.toNat % 64) else d
  (d.gapEnd k).updOp k j (fun o => { o with stream := .run })

/-- Streaming ends: the products are formed and their cycles counted; stall cycles, and the packing cycles of gaps in which every feeder
was dry, are timing, free numbers (04 R162, log 10). All operands are read here (02 R84; log 102). -/
def Dev.streamEnd (d : Dev) (k j : Nat) (o : AOp) : Dev :=
  let ck := k / 4
  let a := d.array k
  d.reading ck o.by_ ((d.cluster ck).badOff o.by_.base (streamReads o.desc)) (badWord a.badW (o.ctrl 5 1) o.bankRanges) (fun d =>
    let qs := matSums (d.aclm k) (a.bank (o.ctrl 5 1)) o
    let n := d.draw.toNat
    let d := d.drew
    let d := d.drew.packed k d.draw.toNat
    let d := d.updTile (ckTile ck) (fun t => { t with mxa := { t.mxa with
      active := wrapAdd 64 t.mxa.active (streamCycles o.desc), stall := wrapAdd 64 t.mxa.stall n } })
    let d := (d.spendOn ck (streamClass o.desc) (streamCycles o.desc)).spendClm ck o.by_.base (streamReads o.desc)
    (d.updArray k (fun a => { a with packing := true, compared := false })).updOp k j (fun o => { o with stream := .done, qs := qs }))

/-- Element (m, j) of an accumulator buffer. -/
def accAt (m : Mem) (r j : Nat) : W32 := BitVec.ofNat 32 (m.readLE (256 * r + 4 * j) 4)

/-- The last sums reach the buffer: every element adds its blocks in order onto its initial value (04 R154, R158). -/
def Dev.lastResult (d : Dev) (k j : Nat) (o : AOp) : Dev :=
  let lo := dLo o.desc
  let b := o.ctrl 7 1
  d.reading (k / 4) o.by_ none (dInit o.desc != 0 && badWord (d.array k).badA b o.bufRanges) (fun d =>
    let d := d.updArray k (fun a =>
      { a.setBuf b (o.qs.zipIdx.foldl (fun (m : Mem) q =>
          let r := q.2 / lo
          let c := q.2 % lo
          let a0 := if dInit o.desc = 0 then 0#32 else accAt m r c
          m.writeLE (256 * r + 4 * c) 4 (q.1.foldl fadd32 a0).toNat) (a.buf b))
        with badA := healWords a.badA b o.bufRanges })
    d.updOp k j (fun o => { o with result := .done, qs := [] }))

/-! Drains (04 R164 to R170). -/

/-- What a drain encodes its tile with. -/
def AOp.outSpec (o : AOp) : OutSpec :=
  let x := o.desc
  { m := dM x, l := dLo x, fmt := dDfmt x, rnd := dc x 21 2, rsmax := dc x 24 5, rim := BitVec.ofNat 32 (df x 0x40 4),
    seed := BitVec.ofNat 64 (df x 0x60 8), round := BitVec.ofNat 64 o.by_.round, tensor := BitVec.ofNat 32 (df x 0x4C 4),
    base := BitVec.ofNat 64 (df x 0x58 8), pitch := df x 0x54 4, trans := false, off := o.by_.base + df x 0x1C 4, stride := df x 0x2E 2,
    scOff := o.by_.base + df x 0x20 4, scPitch := df x 0x34 2, rimOff := o.by_.base + df x 0x24 4 }

/-- Buffer values of the region of a drain. -/
def AOp.region (o : AOp) (a : MArray) : List W32 :=
  (List.range (dM o.desc)).flatMap (fun r => (List.range (dLo o.desc)).map (fun j => accAt (a.buf (o.ctrl 7 1)) r j))

/-- Is a drained tile sampled as a shadow tile (04 R169)? -/
def sampledBy (t : MxaRegs) (o : AOp) : Bool :=
  let x := o.desc
  t.shEn && dc x 23 1 = 1 && narrow (dDfmt x)
  && (gen t.shSeed (BitVec.ofNat 64 o.by_.round) (BitVec.ofNat 32 (df x 0x4C 4)) (BitVec.ofNat 64 (df x 0x50 4))).toNat % (t.shPeriod + 1) = 0

/-- The last pass of a drain: counters, the overflow report (04 R167), the shadow copy (04 R170). -/
def Dev.drained (d : Dev) (k j : Nat) (o : AOp) (vs : List W32) (out : DrainOut) (passes : Nat) : Dev :=
  let t := ckTile (k / 4)
  let sample := sampledBy (d.tile t).mxa o
  let copy := sample && !out.overflowed && decide ((d.array k).shadow.length < 2)
  let ent : ShadowEnt := ⟨vs, dLo o.desc, out.amax, dDfmt o.desc, out.elems, out.scales, out.rim, BitVec.ofNat 32 (df o.desc 0x4C 4),
    BitVec.ofNat 32 (df o.desc 0x50 4), o.by_.round, o.by_.ctx⟩
  let d := if copy then d.updArray k (fun a => { a with shadow := a.shadow ++ [ent] }) else d
  let d := d.updTile t (fun t => { t with mxa := { t.mxa with
    dropped := if sample && !copy then wrapAdd 32 t.mxa.dropped 1 else t.mxa.dropped,
    reported := if out.overflowed then wrapAdd 32 t.mxa.reported 1 else t.mxa.reported,
    recomputed := if out.recomputed then wrapAdd 32 t.mxa.recomputed 1 else t.mxa.recomputed } })
  let d := if out.overflowed then d.report (d.partOf o.by_.ctx) o.by_.round else d
  d.updOp k j (fun o => { o with drain := .done, pass := passes, vs := [], out := some { out with sampled := copy } })

def Dev.drainStart (d : Dev) (k j : Nat) (o : AOp) : Dev :=
  let jit := d.jitFor o.by_.ctx (dDfmt o.desc) (dc o.desc 24 5)
  d.updOp k j (fun o => { o with drain := .run, amaxFirst := jit })

/-- A drain pass ends: the first decides the shift, and another follows at once where the rim shifts or the drain runs
amax-first; the last one finishes the drain. -/
def Dev.passEnd (d : Dev) (k j : Nat) (o : AOp) (vs : List W32) : Dev :=
  let out := drainOut o.outSpec o.amaxFirst vs
  let more := out.recomputed || o.amaxFirst
  if more && o.pass = 0 then d.updOp k j (fun o => { o with pass := 1, vs := vs })
  else d.drained k j o vs out (o.pass + 1)

def Dev.drainEnd (d : Dev) (k j : Nat) (o : AOp) : Dev :=
  d.reading (k / 4) o.by_ none (o.pass = 0 && badWord (d.array k).badA (o.ctrl 7 1) o.bufRanges) (fun d =>
    d.passEnd k j o (if o.pass = 0 then o.region (d.array k) else o.vs))

/-- A fragment read (04 R174): four values for each of 32 strands. -/
def Dev.fragRead (d : Dev) (k j : Nat) (o : AOp) : Dev := match o.kind with
  | .mxr f _ _ =>
    let m := (d.array k).buf (f / 32)
    d.reading (k / 4) o.by_ none (badWord (d.array k).badA (f / 32) [(512 * (f % 32), 512)]) (fun d =>
      let vs := (List.range 128).map (fun n => accAt m (2 * (f % 32) + n / 64) (n % 64))
      d.updOp k j (fun o => { o with read := .done, regs := vs }))
  | _ => d

/-! Completion (04 R157, R168). -/

/-- A completion token of a plait becomes free. -/
def Dev.freeToken (d : Dev) (pk tok : Nat) : Dev :=
  d.updPlait pk (fun p => { p with tokens := p.tokens &&& ~~~(1#16 <<< tok), held := p.held.filter (fun h => h.1 != tok) })

/-- The last event of an operation: its writes and status record become visible, its registers are written, its token
frees. CYCLES is timing, a free value (log 10). -/
def Dev.opComplete (d : Dev) (k j : Nat) (o : AOp) : Dev :=
  let stat := match o.kind with | .mxw _ _ => false | .mxr _ _ _ => false | _ => dStat o.desc
  let rec_ := if stat then byteWrites (o.by_.base + df o.desc 0x44 4) (statusRecord o.out d.draw) else []
  let ws := (match o.out with | some u => u.writes | none => []) ++ o.redw ++ rec_
  let d := if stat then d.drew else d
  let d := d.clmApply (k / 4) ws
  let d := match o.kind with
    | .mxr _ r m => d.updPlait o.by_.pk (fun p =>
        { (lanes m).foldl (fun (q : Plait) s => q.wrN r s ((o.regs.drop (4 * s)).take 4)) p
          with bad := p.bad.filter (fun b => !(decide (r ≤ b / 32) && decide (b / 32 < r + 4) && m.getLsbD (b % 32))) })
    | _ => d
  (d.freeToken o.by_.pk o.by_.token).updArray k (fun a => { a with queue := (a.queue.zipIdx.filter (fun x => x.2 != j)).map (fun x => x.1) })

/-! Packing and shadow comparison (04 R162, R163, R171). -/

/-- Does an array stream a descriptor now? -/
def MArray.streams (a : MArray) : Bool := a.queue.any (fun o => o.stream == .run)

/-- After 63 gap cycles packing stops, in a gap between streams or in one of a stream whose feeders are all dry; shadow work takes its cycles
in place of packing, so their number is then free (04 R162, R163). -/
def Dev.packStop (d : Dev) (k : Nat) : Dev :=
  let a := d.array k
  if d.stopped (ckTile (k / 4)) || !(a.packing || a.streams) then d else
  let d := if a.compared || !a.shadow.isEmpty then d.drew.packed k (d.draw.toNat % 64) else d.packed k 63
  d.gapEnd k

/-- Error of a sampled tile (04 R171), exactly; zero when amax is zero. -/
def shadowErr (fmt32 : Bool) (e : ShadowEnt) : FVal :=
  let nb := ceilDiv e.cols 32
  let errs := e.vs.zipIdx.map (fun v =>
    let ref := if fmt32 then dec32 v.1 else decodeC 2 (convertV 2 .rne (dec32 v.1))
    let b := e.scales.getD (v.2 / e.cols * nb + v.2 % e.cols / 32) 127
    let dq := mulV ((decodeC e.fmt (e.elems.getD v.2 0)).e8m0 b) (dec32 e.rim)
    (addV dq ref.negate).abs)
  if (dec32 e.amax).isZero then .fin false 0 1 else divV (errs.foldl maxV (.fin false 0 1)) (dec32 e.amax)

/-- A precision alarm appended to the partition's log; ALARM_ACTION applies even when the log is full (07 R251). -/
def Dev.alarm (d : Dev) (tile : Nat) (e : ShadowEnt) (err : W32) (thresh : Nat) : Dev :=
  match ownerOf d.parts tile with
  | none => d
  | some p =>
    match d.parts.get? p with
    | none => d
    | some u =>
      let full := decide (256 ≤ (u.alarm.head - u.alarm.tail).toNat)
      let ent := leBytes 8 e.round ++ leBytes 4 e.tensor.toNat ++ leBytes 4 e.index.toNat ++ leBytes 4 err.toNat ++ leBytes 1 tile ++ leBytes 1 e.fmt
        ++ leBytes 1 thresh ++ leBytes 1 0 ++ leBytes 8 u.alarm.head.toNat
      let d := d.updPart p (fun u => { u with alarm :=
        if full then { u.alarm with drop := u.alarm.drop + 1 }
        else { u.alarm with log := u.alarm.log.set (u.alarm.head.toNat % 256) ent, head := u.alarm.head + 1 } })
      match bits u.lsc.ctrl 2 2 with
      | 1 => d.event 0x01 p tile u.alarm.head.toNat
      | 2 => d.report p e.round
      | _ => d

/-- In gap cycles, of a gap between streams or of one in which every feeder of a stream is dry, the array compares its oldest held entry. -/
def Dev.shadowCompare (d : Dev) (k : Nat) : Dev :=
  if d.stopped (ckTile (k / 4)) then d else
  match (d.array k).shadow with
  | [] => d
  | e :: rest =>
    let t := ckTile (k / 4)
    let r := (d.tile t).mxa
    let err := shadowErr r.shFmt e
    let isOver := decide (0 < cmpV err (.fin false 1 (2 ^ r.shThresh)))
    let d := (d.updArray k (fun a => { a with shadow := rest, compared := true })).updTile t (fun t => { t with mxa := { t.mxa with
      compared := wrapAdd 32 t.mxa.compared 1, alarms := if isOver then satAdd 0xFFFF t.mxa.alarms 1 else t.mxa.alarms, alarm := t.mxa.alarm || isOver } })
    if isOver then d.alarm t e (rne32 err) r.shThresh else d

end Sys2Proof.Machine
end

