-- ==== Sys2Proof/Machine/ShConv.lean ====
section
/-! DEFINITION. Conversion, random, predicate, cross-strand, query and system instructions of Shorek (03 R110 to R114,
R118 to R120, R129 to R132). -/

namespace Sys2Proof.Machine

/-! CVT (03 R110, R111). -/

/-- Element i of four in the register form of a format (03 Table 3-7). -/
def regElem (f : Nat) (l : List W32) (i : Nat) : Nat :=
  if f = 0 then (l.getD i 0).toNat
  else if f = 1 || f = 2 then bits (l.getD (i / 2) 0) (16 * (i % 2)) 16
  else if f = 5 then bits (l.getD 0 0) (8 * i) 6
  else if f = 6 then bits (l.getD 0 0) (4 * i) 4
  else bits (l.getD 0 0) (8 * i) 8

/-- Four elements in the register form of a format. -/
def regForm (f : Nat) (x : List Nat) : List W32 :=
  let g (i : Nat) := x.getD i 0
  if f = 0 then x.map (BitVec.ofNat 32)
  else if f = 1 || f = 2 then [BitVec.ofNat 32 (g 0 + 65536 * g 1), BitVec.ofNat 32 (g 2 + 65536 * g 3)]
  else if f = 6 then [BitVec.ofNat 32 (g 0 + 16 * g 1 + 256 * g 2 + 4096 * g 3)]
  else [BitVec.ofNat 32 (g 0 + 256 * g 1 + 65536 * g 2 + 16777216 * g 3)]

/-- Rounding mode 00, 01, 10 with its word (05 R186). -/
def rndOf (m : Nat) (w : W32) : Rnd := if m = 0 then .rne else if m = 1 then .rtz else .sto w

/-- One element of CVT: the scale multiplies a narrow source or divides before a narrow destination (03 R111). -/
def cvtElem (e : Enc) (bits_ : Nat) (scale : Nat) (w : W32) : Nat :=
  let s := md e 0 3
  let t := md e 3 3
  let sc := e.md.getLsbD 6
  if s = t && !sc then bits_
  else
    let v := decodeC s bits_
    let v := if sc then (if narrow s then v.e8m0 scale else v.e8m0div scale) else v
    convertV t (rndOf (au e 0 2) w) v

def cvtP (e : Enc) (_ : Nat) (p : Plait) : Plait :=
  let s := md e 0 3
  let t := md e 3 3
  p.eachW (p.parts e) e.d.toNat (fun k =>
    let src := p.rdN e.a.toNat (fmtRegs s) k
    let sc := bits (p.rd e.b.toNat k) 0 8
    let rnd := p.rdN e.c.toNat 4 k
    regForm t ((List.range 4).map (fun i => cvtElem e (regElem s src i) sc (rnd.getD i 0))))

/-- CVT checks the partition's FORMATS for both formats (01 R32). -/
def cvtIns (e : Enc) (d : Dev) (pk : Nat) (p : Plait) : InsRes :=
  let u := d.partOf p.ctx
  if d.fmtOk u (md e 0 3) && d.fmtOk u (md e 3 3) then .done d (cvtP e pk p) else .fault cIllegal (p.parts e) 0 none

/-! CVTI (03 R112). -/

/-- A floating value as an integer of w bits: NaN 0, out of range the nearest end. -/
def toIntB (w : Nat) (sg : Bool) (m : Rnd) (v : FVal) : Nat :=
  let hi : Int := if sg then 2 ^ (w - 1) - 1 else 2 ^ w - 1
  let lo : Int := if sg then -(2 ^ (w - 1)) else 0
  match v with
  | .nan => 0
  | .inf n => ((if n then lo else hi) % (2 ^ w : Nat)).toNat
  | .fin n a b => ((max lo (min hi (sgn n (roundQuot m a b)))) % (2 ^ w : Nat)).toNat

def cvtiP (e : Enc) (_ : Nat) (p : Plait) : Plait :=
  let w := e.md.getLsbD 2
  let n := if w then 64 else 32
  let sg := e.md.getLsbD 1
  let f := md e 3 2
  let m : Rnd := if e.aux.getLsbD 0 then .rtz else .rne
  p.eachW (p.parts e) e.d.toNat (fun k =>
    if e.md.getLsbD 0 then splitW w (toIntB n sg m (decodeC f ((p.rd e.a.toNat k).toNat % 2 ^ fmtBits f)))
    else
      let x := p.rdW w e.a.toNat k
      let i : Int := if sg then signedOf n x else x
      [BitVec.ofNat 32 (convertV f m (ofRat i 1 false))])

/-- RNG (03 R113, 06 R227). -/
def rngP (e : Enc) (_ : Nat) (p : Plait) : Plait :=
  p.eachW (p.parts e) e.d.toNat (fun k =>
    let g := p.rdN e.a.toNat 4 k
    let b := p.rdN e.b.toNat 2 k
    [gen (g.getD 1 0 ++ g.getD 0 0) (g.getD 3 0 ++ g.getD 2 0) (p.rd e.c.toNat k) (b.getD 1 0 ++ b.getD 0 0)])

/-! Predicates (03 Table 3-8). -/

def plutP (e : Enc) (_ : Nat) (p : Plait) : Plait :=
  let a := p.predOp e.a.toNat
  let b := p.predOp e.b.toNat
  let c := p.predOp e.c.toNat
  let m := p.parts e
  p.setPred (e.d.toNat % 8) m (maskIf m (fun k =>
    e.md.getLsbD ((if a.getLsbD k then 4 else 0) + (if b.getLsbD k then 2 else 0) + (if c.getLsbD k then 1 else 0))))

def p2rP (e : Enc) (_ : Nat) (p : Plait) : Plait :=
  p.eachW (p.parts e) e.d.toNat (fun k =>
    [BitVec.ofNat 32 ((List.range 8).foldl (fun r n => r + (if (p.pred n).getLsbD k then 2 ^ n else 0)) 0)])

def r2pP (e : Enc) (_ : Nat) (p : Plait) : Plait :=
  let m := p.parts e
  (List.range 8).foldl (fun q n => if e.md.getLsbD n then q.setPred n m (maskIf m (fun k => (p.rd e.a.toNat k).getLsbD n)) else q) p

/-! Cross-strand (03 R118 to R120). -/

/-- Source lane of SHFL, as an unsigned 32-bit number. -/
def shflLane (e : Enc) (i : Nat) (b : W32) : Nat :=
  match md e 0 2 with
  | 0 => b.toNat
  | 1 => (BitVec.ofNat 32 i - b).toNat
  | 2 => (BitVec.ofNat 32 i + b).toNat
  | _ => (BitVec.ofNat 32 i ^^^ b).toNat

def shflP (e : Enc) (_ : Nat) (p : Plait) : Plait :=
  let w := e.md.getLsbD 2
  p.eachW (p.parts e) e.d.toNat (fun k =>
    let j := shflLane e k (p.rd e.b.toNat k)
    splitW w (if j < 32 then p.rdW w e.a.toNat j else 0))

/-- Does a participant name a lane at or above 32? -/
def shflOor (e : Enc) (p : Plait) : Bool := (lanes (p.parts e)).any (fun k => decide (32 ≤ shflLane e k (p.rd e.b.toNat k)))

/-- Sets the sticky PERM_OOR of a cluster's VE_STATUS and counts the instruction (06 Table 6-12). -/
def Dev.setOor (d : Dev) (ck ctx : Nat) : Dev :=
  d.updCluster ck (fun c => { c with permOor := true, oorCtx := ctx, oorCount := satAdd 0xFFFF c.oorCount 1 })

def shflIns (e : Enc) (d : Dev) (pk : Nat) (p : Plait) : InsRes :=
  .done (if shflOor e p then d.setOor (pkCluster pk) p.ctx else d) (shflP e pk p)

/-- VOTE by MOD[1:0]: ANY, ALL, BALLOT, UNIFORM. -/
def voteP (e : Enc) (_ : Nat) (p : Plait) : Plait :=
  let m := p.parts e
  let o := p.predOp e.a.toNat
  let all (b : Bool) : W32 := if b then 0xFFFFFFFF#32 else 0
  match md e 0 2 with
  | 0 => p.setPred (au e 0 3) m (all (m &&& o != 0))
  | 1 => p.setPred (au e 0 3) m (all (m &&& ~~~o == 0))
  | 2 => p.eachW m e.d.toNat (fun _ => [m &&& o])
  | _ =>
    let vs := (lanes m).map (fun k => p.rd e.b.toNat k)
    p.setPred (au e 0 3) m (all (vs.all (fun v => v == vs.headD 0)))

/-- The operation of REDUX on two values of n bits (03 R120). -/
def reduxF (op n a b : Nat) : Nat :=
  match op with
  | 0 => (a + b) % 2 ^ n
  | 1 => if intLt n true b a then b else a
  | 2 => if intLt n true a b then b else a
  | 3 => min a b
  | 4 => max a b
  | 5 => a &&& b
  | 6 => a ||| b
  | _ => a ^^^ b

def reduxP (e : Enc) (_ : Nat) (p : Plait) : Plait :=
  let w := e.md.getLsbD 3
  let m := p.parts e
  match (lanes m).map (fun k => p.rdW w e.a.toNat k) with
  | [] => p
  | v :: t => p.eachW m e.d.toNat (fun _ => splitW w (t.foldl (reduxF (md e 0 3) (if w then 64 else 32)) v))

/-! Queries (03 R129 to R131). -/

/-- SZT: an entry of the size table of the plait's partition (03 R129). -/
def sztIns (e : Enc) (d : Dev) (_ : Nat) (p : Plait) : InsRes :=
  let m := p.parts e
  match lanes m with
  | [] => .done d p
  | k :: _ =>
    let j := if e.md.getLsbD 0 then (p.rd e.a.toNat k).toNat else e.a.toNat
    let v := if j < 32 then d.sztE (d.partOf p.ctx) j else 0
    .done d (p.eachW m e.d.toNat (fun _ => splitW true v.toNat))

/-- Logical number of a physical cluster in its partition (03 Table 3-15, 12). -/
def Dev.lcluster (d : Dev) (p ck : Nat) : Nat :=
  match d.parts.get? p with
  | none => 0
  | some u => ((u.tiles.filter (fun t => decide (t < ckTile ck))).length) * 38 + ((d.tile (ckTile ck)).spare.map.idxOf (ck % 40))

/-- ID: an identity value (03 Table 3-15). -/
def idVal (d : Dev) (e : Enc) (pk : Nat) (p : Plait) (k : Nat) : Nat :=
  let g := d.groups.get? p.gk
  let c := d.cmd? p.q p.i
  match e.md.toNat with
  | 0 => k
  | 1 => p.num
  | 2 => 32 * p.num + k
  | 3 => p.grp
  | 4 => (c.map Cmd.nGroups).getD 0
  | 5 => (g.map (fun g => g.strands)).getD 0
  | 6 => (g.map (fun g => g.size)).getD 0
  | 7 => p.live.toNat
  | 8 => p.active.toNat
  | _ => d.lcluster (d.partOf p.ctx) (pkCluster pk)

def idIns (e : Enc) (d : Dev) (pk : Nat) (p : Plait) : InsRes :=
  .done d (p.eachW (p.parts e) e.d.toNat (fun k => splitW (e.md == 3 || e.md == 4) (idVal d e pk p k)))

/-- RND: a round value (03 Table 3-16); CYCLES is timing, a free value (log 10). -/
def rndVal (d : Dev) (e : Enc) (p : Plait) : Nat :=
  let c := d.cmd? p.q p.i
  match e.md.toNat with
  | 0 => (c.map (fun c => c.round)).getD 0
  | 1 => (c.map (fun c => c.opened)).getD 0
  | 2 => match c with
    | some c => if c.closed != 0 then c.closed else ((d.parts.get? (d.partOf p.ctx)).map (fun u => u.rnd.nextTick)).getD 0
    | none => 0
  | 3 => d.clk.now
  | _ => d.draw.toNat

def rndIns (e : Enc) (d : Dev) (_ : Nat) (p : Plait) : InsRes :=
  .done (if e.md == 4 then d.drew else d) (p.eachW (p.parts e) e.d.toNat (fun _ => splitW true (rndVal d e p)))

def execCvt (r : PlaitRef) (e : Enc) (s : State) := onDev (runIns 0x20 (cvtIns e) r e) s
def execCvti (r : PlaitRef) (e : Enc) (s : State) := onDev (runReg 0x21 (cvtiP e) r e) s
def execRng (r : PlaitRef) (e : Enc) (s : State) := onDev (runReg 0x22 (rngP e) r e) s
def execPlut (r : PlaitRef) (e : Enc) (s : State) := onDev (runReg 0x28 (plutP e) r e) s
def execP2r (r : PlaitRef) (e : Enc) (s : State) := onDev (runReg 0x29 (p2rP e) r e) s
def execRegToPred (r : PlaitRef) (e : Enc) (s : State) := onDev (runReg 0x2A (r2pP e) r e) s
def execShfl (r : PlaitRef) (e : Enc) (s : State) := onDev (runIns 0x48 (shflIns e) r e) s
def execVote (r : PlaitRef) (e : Enc) (s : State) := onDev (runReg 0x49 (voteP e) r e) s
def execRedux (r : PlaitRef) (e : Enc) (s : State) := onDev (runReg 0x4A (reduxP e) r e) s
def execSzt (r : PlaitRef) (e : Enc) (s : State) := onDev (runIns 0x68 (sztIns e) r e) s
def execId (r : PlaitRef) (e : Enc) (s : State) := onDev (runIns 0x69 (idIns e) r e) s
def execRnd (r : PlaitRef) (e : Enc) (s : State) := onDev (runIns 0x6A (rndIns e) r e) s
def execNop (r : PlaitRef) (e : Enc) (s : State) := onDev (runReg 0x70 (fun _ p => p) r e) s
/-- An instruction word whose OP is reserved faults with ILLEGAL_INSTRUCTION (03 R95): no shape accepts it. An opcode that
has a row of its own is not this row's, and issues nothing here. -/
def execUndefinedEncoding (r : PlaitRef) (op : BitVec 7) (e : Enc) (s : State) := onDev (runIns op.toNat (fun d _ _ => .wait d) r e) s

end Sys2Proof.Machine
end

