-- ==== Sys2Proof/Machine/ShFloat.lean ====
section
/-! DEFINITION. Floating instructions of Shorek (03 R106 to R109, Table 3-6). -/

namespace Sys2Proof.Machine

/-- RM of the floating class. -/
def fRnd (e : Enc) : Rnd := if e.md.getLsbD 2 then .rtz else .rne
/-- Format of FMT 01 and 10: packed pairs. -/
def fPair (e : Enc) : Fmt := if md e 0 2 = 1 then fp16 else bf16

/-- Applies f in the format of FMT: on the whole register for FP32, on each half for packed values (03 R106). -/
def onFmt (e : Enc) (f : Fmt → Nat → Nat → Nat → Nat) (a b c : W32) : W32 :=
  if md e 0 2 = 0 then BitVec.ofNat 32 (f fp32 a.toNat b.toNat c.toNat)
  else
    let h := fPair e
    BitVec.ofNat 32 (f h (bits a 16 16) (bits b 16 16) (bits c 16 16) * 65536 + f h (bits a 0 16) (bits b 0 16) (bits c 0 16) % 65536)

/-- d = f(a, b, c) on every participant. -/
def floatOp (e : Enc) (f : Fmt → Nat → Nat → Nat → Nat) (_ : Nat) (p : Plait) : Plait :=
  p.eachW (p.parts e) e.d.toNat (fun k =>
    [onFmt e f (p.rd e.a.toNat k) (BitVec.ofNat 32 (p.srcB e false k)) (p.rd e.c.toNat k)])

/-- d = f(a) in FP32. -/
def floatUn (e : Enc) (f : W32 → W32) (_ : Nat) (p : Plait) : Plait :=
  p.eachW (p.parts e) e.d.toNat (fun k => [f (p.rd e.a.toNat k)])

/-- FABSNEG: clears the sign if ABS, then inverts it if NEG (03 Table 3-6). -/
def absNegB (ab ng : Bool) (f : Fmt) (a : Nat) : Nat :=
  let s := 2 ^ (f.ebits + f.mbits)
  let a := if ab then a % s else a
  if ng then (if a < s then a + s else a - s) else a

def fcmpP (e : Enc) (_ : Nat) (p : Plait) : Plait :=
  let m := p.parts e
  p.setPred (au e 0 3) m (maskIf m (fun k => floatCond (md e 4 3) (p.rd e.a.toNat k) (BitVec.ofNat 32 (p.srcB e false k))))

def execFadd (r : PlaitRef) (e : Enc) (s : State) := onDev (runReg 0x10 (floatOp e (fun f a b _ => faddB f (fRnd e) a b)) r e) s
def execFsub (r : PlaitRef) (e : Enc) (s : State) := onDev (runReg 0x11 (floatOp e (fun f a b _ => fsubB f (fRnd e) a b)) r e) s
def execFmul (r : PlaitRef) (e : Enc) (s : State) := onDev (runReg 0x12 (floatOp e (fun f a b _ => fmulB f (fRnd e) a b)) r e) s
def execFfma (r : PlaitRef) (e : Enc) (s : State) := onDev (runReg 0x13 (floatOp e (fun f a b c => ffmaB f (fRnd e) a b c)) r e) s
def execFmin (r : PlaitRef) (e : Enc) (s : State) := onDev (runReg 0x14 (floatOp e (fun f a b _ => fminB f a b)) r e) s
def execFmax (r : PlaitRef) (e : Enc) (s : State) := onDev (runReg 0x15 (floatOp e (fun f a b _ => fmaxB f a b)) r e) s
def execFcmp (r : PlaitRef) (e : Enc) (s : State) := onDev (runReg 0x16 (fcmpP e) r e) s
def execFabsneg (r : PlaitRef) (e : Enc) (s : State) :=
  onDev (runReg 0x17 (floatOp e (fun f a _ _ => absNegB (e.md.getLsbD 4) (e.md.getLsbD 5) f a)) r e) s
def execFrcp (r : PlaitRef) (e : Enc) (s : State) := onDev (runReg 0x18 (floatUn e frcpB) r e) s
def execFsqrt (r : PlaitRef) (e : Enc) (s : State) := onDev (runReg 0x19 (floatUn e fsqrtB) r e) s
def execFexp2 (r : PlaitRef) (e : Enc) (s : State) := onDev (runReg 0x1A (floatUn e fexp2B) r e) s
def execFlog2 (r : PlaitRef) (e : Enc) (s : State) := onDev (runReg 0x1B (floatUn e flog2B) r e) s
def execFsin (r : PlaitRef) (e : Enc) (s : State) := onDev (runReg 0x1C (floatUn e fsinB) r e) s
def execFcos (r : PlaitRef) (e : Enc) (s : State) := onDev (runReg 0x1D (floatUn e fcosB) r e) s

end Sys2Proof.Machine
end

