-- ==== Sys2Proof/Machine/Chains.lean ====
section
/-! DEFINITION. Element chains (06): their instructions, channels, reductions, and the events of slices, with the drains
that a chain is fused into. -/

namespace Sys2Proof.Machine

/-- What the instructions of a running chain need beside its values: descriptor, window, round of the command, context. -/
structure ChainCtx where
  x : Nat
  win : Nat
  round : Nat
  ctx : Nat

/-- A NaN result is canonical (05 R179). -/
def canon (v : W32) : W32 := if (dec32 v).isNan then nan32 else v

/-- Value of a selector for element e (06 Table 6-3). -/
def operand (x : Nat) (r : ChainRun) (imm e s : Nat) : W32 :=
  let m := e / r.l
  let j := e % r.l
  if s < 16 then (r.temps.getD e []).getD s 0
  else if s = 16 then r.xs.getD e 0
  else if s < 25 then
    let k := s - 17
    (r.chans.getD k []).getD (if 6 ≤ k then 0 else if chAxis (chan x k) = 1 then m else j) 0
  else if s = 25 then natF m
  else if s = 26 then natF j
  else BitVec.ofNat 32 imm

/-- The generator word of an instruction for element e (06 R229). -/
def ChainCtx.word (c : ChainCtx) (r : ChainRun) (imm e : Nat) : W32 :=
  let x := c.x
  gen (BitVec.ofNat 64 (df x 0x40 8) ^^^ 0x8000000000000000#64)
    (if dc x 23 1 = 1 then BitVec.ofNat 64 (df x 0x50 8) else BitVec.ofNat 64 c.round)
    (BitVec.ofNat 32 (df x 0x24 4 + imm))
    (elemIdx (BitVec.ofNat 64 (df x 0x48 8)) (df x 0x38 4) (dc x 31 1 = 1) (e / r.l) (e % r.l))

/-- DROP (06 R230). -/
def dropVal (w a b c : W32) : W32 :=
  if (dec32 b).isNan then nan32
  else if cmpV (.fin false w.toNat 1) ((dec32 b).shift 32) < 0 then 0#32
  else fmul32 a c

/-- Result of an instruction other than PERM, whose word is `w` (06 Table 6-5). -/
def chainVal (op fn : Nat) (mode : Rnd) (w a b c : W32) : W32 :=
  match op with
  | 0x00 => a
  | 0x01 => BitVec.ofNat 32 (faddB fp32 mode a.toNat b.toNat)
  | 0x02 => BitVec.ofNat 32 (fsubB fp32 mode a.toNat b.toNat)
  | 0x03 => BitVec.ofNat 32 (fmulB fp32 mode a.toNat b.toNat)
  | 0x04 => BitVec.ofNat 32 (ffmaB fp32 mode a.toNat b.toNat c.toNat)
  | 0x05 => fmin32 a b
  | 0x06 => fmax32 a b
  | 0x07 => BitVec.ofNat 32 (absNegB (fn % 2 = 1) (fn / 2 % 2 = 1) fp32 a.toNat)
  | 0x08 => frcpB a
  | 0x09 => fsqrtB a
  | 0x0A => rsqB a
  | 0x0B => fexp2B a
  | 0x0C => flog2B a
  | 0x0D => fsinB a
  | 0x0E => fcosB a
  | 0x0F => tanhB a
  | 0x10 => if floatCond fn a b then one32 else 0#32
  | 0x11 => canon (if (dec32 a).isZero || (dec32 a).isNan then c else b)
  | 0x12 => rne32 (decodeC fn (convertV fn mode (dec32 a)))
  | 0x13 => rintB fn a
  | 0x14 => rne32 (.fin false (w.toNat / 256) (2 ^ 24))
  | _ => dropVal w a b c

/-- Lane that PERM names in a group of vl lanes, none when out of range (06 R222). -/
def permLane (vl : Nat) (b : W32) : Option Nat :=
  match dec32 b with
  | .fin neg n d =>
    let t := n / d
    if (neg && t != 0) || vl ≤ t then none else some t
  | _ => none

/-- Element that PERM reads for element e. -/
def permFrom (r : ChainRun) (b : W32) (e : Nat) : Option Nat :=
  let j := e % r.l
  let g := j / 32
  (permLane (min 32 (r.l - 32 * g)) b).map (fun n => e - j + 32 * g + n)

/-- Executes one instruction over the whole region: the run after it, and whether a lane was out of range. -/
def ChainCtx.step (c : ChainCtx) (r : ChainRun) : ChainRun × Bool :=
  let w := cIns c.x r.next
  let imm := iImm w
  let val (e : Nat) : Option W32 :=
    let o (s : Nat) : W32 := operand c.x r imm e s
    if iOp w = 0x16 then (permFrom r (o (iB w)) e).map (fun f => canon (operand c.x r imm f (iA w)))
    else
      let word := c.word r imm e
      some (chainVal (iOp w) (iFn w) (match iRm w with | 0 => .rne | 1 => .rtz | _ => .sto word) word (o (iA w)) (o (iB w)) (o (iC w)))
  let vs := (List.range (r.m * r.l)).map val
  ({ r with next := r.next + 1, temps := r.temps.zipIdx.map (fun t => t.1.set (iD w) ((vs.getD t.2 none).getD 0#32)) }, vs.any Option.isNone)

/-- Region values of a selector, after the program. -/
def ChainCtx.sel (c : ChainCtx) (r : ChainRun) (s : Nat) : List W32 := (List.range (r.m * r.l)).map (fun e => operand c.x r 0 e s)

/-- Channel vectors (06 R215, R216). -/
def ChainCtx.channels (c : ChainCtx) (clm : Mem) (m l : Nat) : List (List W32) :=
  (List.range 8).map (fun k =>
    let h := chan c.x k
    if chEn h then (List.range (chCount k h m l)).map (fun i =>
      let v := clm.readLE (c.win + chOff h + chStride h * i * chSize h) (chSize h)
      if chFmt h = 0 then BitVec.ofNat 32 v else rne32 (decodeC (chFmt h) v)) else [])

/-- A run at its start: temporaries hold +0 (06 R211). -/
def ChainCtx.begin_ (c : ChainCtx) (clm : Mem) (m l : Nat) (xs : List W32) : ChainRun :=
  ⟨m, l, 0, xs, c.channels clm m l, List.replicate (m * l) (List.replicate 16 0#32)⟩

/-- Channel loads H and steps C of a chain (06 R225). -/
def chainLoads (x m l : Nat) : Nat := ((List.range 8).map (fun k => let h := chan x k; if chEn h then ceilDiv (chCount k h m l) 32 else 0)).foldl (· + ·) 0
def chainSteps (x m l : Nat) : Nat := m * ceilDiv l 32 * max 1 (((List.range (cNinstr x)).map (fun k => opCost (iOp (cIns x k)))).foldl (· + ·) 0)

/-! Reductions (06 R221). -/

def redOp (op : Nat) (a b : W32) : W32 :=
  match op with
  | 0 => fadd32 a b
  | 1 => fmax32 a b
  | 2 => fmin32 a b
  | _ => fmax32 (a &&& 0x7FFFFFFF#32) (b &&& 0x7FFFFFFF#32)

def redList (op : Nat) (l : List W32) : W32 :=
  if op = 0 then treeSum l else match l with
    | [] => 0#32
    | v :: t => t.foldl (redOp op) (if op = 3 then v &&& 0x7FFFFFFF#32 else v)

/-- The writes of the reduction results; olds are the values that stood at their places. -/
def ChainCtx.redWrites (c : ChainCtx) (r : ChainRun) (olds : List W32) : List BitWr :=
  let op := dc c.x 9 3
  let vs := c.sel r (dc c.x 48 5)
  let ls := match cRed c.x with
    | 1 => (List.range r.m).map (rowOf r.l vs)
    | 2 => (List.range r.l).map (fun j => (List.range r.m).map (fun i => vs.getD (i * r.l + j) 0))
    | _ => []
  (ls.zipIdx.map (fun v =>
    let q := redList op v.1
    byteWrites (c.win + df c.x 0x20 4 + 4 * v.2) (leBytes 4 (if dc c.x 30 1 = 1 then redOp op (olds.getD v.2 0) q else q).toNat))).flatten

/-- The values at the places of the reduction results (RACC). -/
def ChainCtx.olds (c : ChainCtx) (clm : Mem) (m l : Nat) : List W32 :=
  (List.range (match cRed c.x with | 1 => m | 2 => l | _ => 0)).map (fun i => BitVec.ofNat 32 (clm.readLE (c.win + df c.x 0x20 4 + 4 * i) 4))

/-! Slices. -/

def ChainOp.cctx (o : ChainOp) : ChainCtx := ⟨o.desc, o.by_.base, o.by_.round, o.by_.ctx⟩
def AOp.cctx (o : AOp) : ChainCtx := ⟨o.chain, o.by_.base, o.by_.round, o.by_.ctx⟩

/-- The fused operation that slice k drains: array key, position, operation. -/
def Dev.fusedOp (d : Dev) (k : Nat) : Option (Nat × Nat × AOp) :=
  (d.slice k).fused.bind (fun ak => ((d.array ak).first (fun _ o => o.fuse && o.drain == .run && o.slice == k)).bind (fun j =>
    ((d.array ak).queue[j]?).map (fun o => (ak, j, o))))

/-- The fused drain that is ready to start on slice k: the lowest array of its cluster first (log 13). -/
def Dev.fusedReady (d : Dev) (k : Nat) : Option (Nat × Nat × AOp) :=
  (List.range 4).findSome? (fun n =>
    let ak := k / 4 * 4 + n
    ((d.array ak).first (fun es o => canPass es o && o.fuse && o.slice == k)).bind (fun j => ((d.array ak).queue[j]?).map (fun o => (ak, j, o))))

/-- A slice runs one chain or fused drain at a time (06 R224). -/
def Slice.busy (u : Slice) : Bool := u.fused.isSome || u.queue.any (fun o => o.ph == .started || o.ph == .loaded || o.ph == .stepped)

/-- The chain that runs on a slice. -/
def Dev.curChain (d : Dev) (k : Nat) : Option ChainCtx :=
  match d.fusedOp k with
  | some f => some f.2.2.cctx
  | none => ((d.slice k).queue.find? (fun o => o.ph == .loaded)).map ChainOp.cctx

/-- Executes the next instruction of the running chain of slice k. -/
def Dev.chainStep (d : Dev) (k : Nat) (c : ChainCtx) : Dev :=
  match (d.slice k).run with
  | none => d
  | some r =>
    if cNinstr c.x ≤ r.next then d else
    let s := c.step r
    let d := d.updSlice k (fun u => { u with run := some s.1 })
    if s.2 then d.setOor (k / 4) c.ctx else d

/-- Executes the rest of the program, with fuel. -/
def Dev.chainRest (d : Dev) (k : Nat) (c : ChainCtx) : Nat → Dev
  | 0 => d
  | n + 1 => Dev.chainRest (d.chainStep k c) k c n

/-- A chain instruction as a step of its own: the running chain's next instruction, when it has this opcode (06 R213). -/
def Dev.chainIns (d : Dev) (k op : Nat) : Dev :=
  match d.curChain k, (d.slice k).run with
  | some c, some r => if r.next < cNinstr c.x && iOp (cIns c.x r.next) = op && !d.stopped (ckTile (k / 4)) then d.chainStep k c else d
  | _, _ => d

/-- Slice-cycles of chains, with their energy events (13 Table 13-5, class 6). -/
def Dev.veStep (d : Dev) (k n : Nat) : Dev :=
  (d.updTile (ckTile (k / 4)) (fun t => { t with ve := { t.ve with step := wrapAdd 64 t.ve.step n } })).spendOn (k / 4) 6 n

/-- Groups of 32 that a chain's transcendental instructions compute (13 Table 13-5, class 7). -/
def chainGroups (x m l : Nat) : Nat := m * ceilDiv l 32 * ((List.range (cNinstr x)).filter (fun k => opCost (iOp (cIns x k)) = 4)).length

/-- Applies f to the first chain of slice k in a phase, while the tile's clock runs (13 R441). -/
def Dev.chainAt (d : Dev) (k : Nat) (ph : ChPh) (f : Dev → Nat → ChainOp → Dev) : Dev :=
  match ((d.slice k).queue.zipIdx.find? (fun o => o.1.ph == ph)) with
  | some (o, j) => if d.stopped (ckTile (k / 4)) then d else f d j o
  | none => d
def Dev.updChain (d : Dev) (k j : Nat) (f : ChainOp → ChainOp) : Dev :=
  d.updSlice k (fun u => { u with queue := u.queue.zipIdx.map (fun o => if o.2 = j then f o.1 else o.1) })

/-- CHAIN_START: a fused drain that is ready goes first (06 R224). -/
def Dev.chainStart (d : Dev) (k : Nat) : Dev :=
  if (d.slice k).busy || (d.fusedReady k).isSome then d else
  d.chainAt k .queued (fun d j o =>
    let jit := cYwr o.desc && d.jitFor o.by_.ctx (cYfmt o.desc) (dc o.desc 24 5)
    d.updChain k j (fun o => { o with ph := .started, amaxFirst := jit }))

/-- Source values of a standalone chain (06 R217). -/
def ChainOp.source (o : ChainOp) (clm : Mem) : List W32 :=
  let x := o.desc
  let f := cXfmt x
  let rim := dec32 (BitVec.ofNat 32 (df x 0x30 4))
  (List.range (cM x)).flatMap (fun m =>
    (readRun clm (o.by_.base + df x 0x08 4 + 32 * df x 0x28 2 * m) f (cN x)).zipIdx.map (fun e =>
      sat32 (mulV (scaled f e.1 (clm.read (o.by_.base + df x 0x0C 4 + df x 0x2C 2 * m + e.2 / 32))) rim)))

/-- CHAIN_CHANNELS_LOADED: the chain has read its inputs. -/
def Dev.chainLoaded (d : Dev) (k : Nat) : Dev :=
  d.chainAt k .started (fun d j o =>
    let reads := chainReads o.desc false (cM o.desc) (cN o.desc)
    d.reading (k / 4) o.by_ ((d.cluster (k / 4)).badOff o.by_.base reads) false (fun d =>
      let clm := d.aclm k
      let run := o.cctx.begin_ clm (cM o.desc) (cN o.desc) (o.source clm)
      let d := (d.updSlice k (fun u => { u with run := some run })).spendClm (k / 4) o.by_.base reads
      (d.updChain k j (fun o => { o with ph := .loaded, olds := o.cctx.olds clm (cM o.desc) (cN o.desc) })).veStep k (chainLoads o.desc (cM o.desc) (cN o.desc))))

/-- CHAIN_STEPS_END: the rest of the program has run; the output values and reductions stand. -/
def Dev.chainStepsEnd (d : Dev) (k : Nat) : Dev :=
  d.chainAt k .loaded (fun d j o =>
    let d := d.chainRest k o.cctx (cNinstr o.desc)
    match (d.slice k).run with
    | none => d
    | some r =>
      let d := d.updChain k j (fun o => { o with ph := .stepped, vs := o.cctx.sel r (dc o.desc 56 5), redw := o.cctx.redWrites r o.olds })
      ((d.updSlice k (fun u => { u with run := none })).veStep k (chainSteps o.desc (cM o.desc) (cN o.desc))).spendOn (k / 4) 7
        (chainGroups o.desc (cM o.desc) (cN o.desc)))

/-- What a standalone chain's output is encoded with (06 R217, R218). -/
def ChainOp.outSpec (o : ChainOp) : OutSpec :=
  let x := o.desc
  { m := cM x, l := cN x, fmt := cYfmt x, rnd := dc x 21 2, rsmax := dc x 24 5, rim := BitVec.ofNat 32 (df x 0x34 4),
    seed := BitVec.ofNat 64 (df x 0x40 8), round := BitVec.ofNat 64 o.by_.round, tensor := BitVec.ofNat 32 (df x 0x24 4),
    base := BitVec.ofNat 64 (df x 0x48 8), pitch := df x 0x38 4, trans := dc x 31 1 = 1, off := o.by_.base + df x 0x10 4, stride := df x 0x2A 2,
    scOff := o.by_.base + df x 0x14 4, scPitch := df x 0x2E 2, rimOff := o.by_.base + df x 0x18 4 }

/-- CHAIN_OUTPUT_PASS_END: the first pass decides the shift; where the rim shifts a second pass follows (06 R217, R225). -/
def Dev.chainPassEnd (d : Dev) (k : Nat) : Dev :=
  d.chainAt k .stepped (fun d j o =>
    if !cYwr o.desc then d.updChain k j (fun o => { o with ph := .passed }) else
    let out := drainOut o.outSpec o.amaxFirst o.vs
    if out.recomputed && o.out.isNone then d.updChain k j (fun o => { o with out := some out })
    else
      let d := if out.overflowed then d.report (d.partOf o.by_.ctx) o.by_.round else d
      d.updChain k j (fun o => { o with ph := .passed, out := some out }))

/-- CHAIN_COMPLETE: the writes of the oldest chain of the slice become visible in the order of 06 R223, its token frees. -/
def Dev.chainComplete (d : Dev) (k : Nat) : Dev :=
  match (d.slice k).queue with
  | [] => d
  | o :: rest =>
    if o.ph != .passed || d.stopped (ckTile (k / 4)) then d else
    let rec_ := if cStat o.desc then byteWrites (o.by_.base + df o.desc 0x1C 4) (statusRecord o.out d.draw) else []
    let ws := (match o.out with | some u => u.writes | none => []) ++ o.redw ++ rec_
    let d := if cStat o.desc then d.drew else d
    let d := d.clmApply (k / 4) ws
    let d := d.updTile (ckTile (k / 4)) (fun t => { t with ve := { t.ve with standalone := wrapAdd 32 t.ve.standalone 1 } })
    (d.freeToken o.by_.pk o.by_.token).updSlice k (fun u => { u with queue := rest })

/-- FUSED_DRAIN_PASS_START: the slice is free and the drain ready; its channels are read (06 R224, R226). -/
def Dev.fusedStart (d : Dev) (k : Nat) : Dev :=
  if (d.slice k).busy || d.stopped (ckTile (k / 4)) then d else
  match d.fusedReady k with
  | none => d
  | some (ak, j, o) =>
    let ck := k / 4
    let reads := chainReads o.chain true (dM o.desc) (dLo o.desc)
    d.reading ck o.by_ ((d.cluster ck).badOff o.by_.base reads) (badWord (d.array ak).badA (o.ctrl 7 1) o.bufRanges) (fun d =>
      let run := o.cctx.begin_ (d.aclm k) (dM o.desc) (dLo o.desc) (o.region (d.array ak))
      let olds := o.cctx.olds (d.aclm k) (dM o.desc) (dLo o.desc)
      ((d.drainStart ak j o).spendClm ck o.by_.base reads).updSlice k (fun u => { u with fused := some ak, run := some run, olds := olds }))

/-- FUSED_DRAIN_PASS_END: the first pass has run the chain; its outputs stand in the staging buffer for a further pass
(06 R219, R226). The slice is free when the last pass ends. -/
def Dev.fusedEnd (d : Dev) (k : Nat) : Dev :=
  if d.stopped (ckTile (k / 4)) then d else
  match d.fusedOp k with
  | none => d
  | some (ak, j, o) =>
    let x := o.chain
    let first := o.pass = 0
    d.reading (k / 4) o.by_ none (!first && !(d.slice k).badS.isEmpty) (fun d =>
    let olds := (d.slice k).olds
    let d := if first then d.chainRest k o.cctx (cNinstr x) else d
    let r := ((d.slice k).run).getD ⟨0, 0, 0, [], [], []⟩
    let vs := if first then o.cctx.sel r (dc x 56 5) else (d.slice k).staging
    let d := if first then
        (((d.updOp ak j (fun o => { o with redw := o.cctx.redWrites r olds })).updSlice k (fun u => { u with run := none, staging := vs, badS := [] })).veStep k
          (chainLoads x (dM o.desc) (dLo o.desc) + chainSteps x (dM o.desc) (dLo o.desc))).spendOn (k / 4) 7 (chainGroups x (dM o.desc) (dLo o.desc))
      else d
    let d := d.passEnd ak j o vs
    match ((d.array ak).queue[j]?).map (fun o => o.drain) with
    | some Ph.done =>
      (d.updSlice k (fun u => { u with fused := none })).updTile (ckTile (k / 4)) (fun t => { t with ve := { t.ve with fused := wrapAdd 32 t.ve.fused 1 } })
    | _ => d)

end Sys2Proof.Machine
end

