-- ==== Sys2Proof/Machine/ShMem.lean ====
section
/-! DEFINITION. Loads, stores and atomics of Shorek (03 R115 to R117; 02 R67 to R74, R85 to R89). -/

namespace Sys2Proof.Machine

/-- Addresses of the participants: window offsets, or virtual addresses (03 R116). -/
def addrOf (e : Enc) (ctxMem : Bool) (p : Plait) (k : Nat) : Nat :=
  if ctxMem then (p.rd64 e.a.toNat k + (if e.x then e.ext else 0)).toNat
  else (p.rd e.a.toNat k + (if e.x then e.ext.truncate 32 else 0)).toNat

/-- Window of a plait's work group: position and size. -/
def Dev.window (d : Dev) (p : Plait) : Nat × Nat := match d.groups.get? p.gk with
  | some g => (g.base, g.size)
  | none => (0, 0)

/-- An access before it touches memory: alignment, bounds, page faults in the order of 02 Table 2-6. -/
inductive Pre where
  | go (d : Dev)
  | stop (r : InsRes)

/-- The spans of accesses of `size` bytes by strand and address. -/
def spansAt (size : Nat) (l : List (Nat × Nat)) : List Span := l.map (fun a => (a.1, BitVec.ofNat 64 a.2, size))

def preAccess (d : Dev) (pk : Nat) (p : Plait) (ctxMem : Bool) (size : Nat) (kind : Acc) (as_ : List (Nat × Nat)) : Pre :=
  let mis := as_.filter (fun a => a.2 % size != 0)
  match mis with
  | a :: _ => .stop (.fault cMisaligned (maskOf (mis.map (fun a => a.1))) (BitVec.ofNat 64 a.2) none)
  | [] =>
    if ctxMem then
      match d.prepare p.ctx (pkTile pk) kind (spansAt size as_) with
      | .fault c m va => .stop (.fault cPage m va (some ⟨false, kind == .store, c, va⟩))
      | .stall d => .stop (.wait d)
      | .ok d =>
        let bad := as_.filter (fun a => if kind == .store then d.vbadPartial p.ctx a.2 size else d.vbad p.ctx a.2 size)
        (match bad with
          | a :: _ => .stop (.fault cUncorrectable (maskOf (bad.map (fun a => a.1))) (BitVec.ofNat 64 a.2) none)
          | [] => .go d)
    else
      let out := as_.filter (fun a => decide ((d.window p).2 < a.2 + size))
      match out with
      | a :: _ => .stop (.fault cBounds (maskOf (out.map (fun a => a.1))) (BitVec.ofNat 64 a.2) none)
      | [] =>
        let w := (d.window p).1
        let bad := as_.filter (fun a => kind != .store && (d.cluster (pkCluster pk)).badAt (w + a.2) size)
        match bad with
        | a :: _ => .stop (.fault cUncorrectable (maskOf (bad.map (fun a => a.1))) (BitVec.ofNat 64 a.2) none)
        | [] => .go (Dev.spend (pkTile pk) p.ctx 8 ((as_.map (fun a => (w + a.2) / 32)).eraseDups.length) d)

/-- Reads n bytes at an address of a space as a plait sees it. -/
def Dev.spaceRead (d : Dev) (pk : Nat) (p : Plait) (ctxMem : Bool) (a n : Nat) : Nat :=
  if ctxMem then leNat (d.vread p.ctx a n) else (d.cluster (pkCluster pk)).clm.readLE ((d.window p).1 + a) n

/-- Writes n bytes at an address of a space. -/
def Dev.spaceWrite (d : Dev) (pk : Nat) (p : Plait) (ctxMem : Bool) (a n v : Nat) : Dev :=
  if ctxMem then d.vwrite p.ctx (pkTile pk) a (leBytes n v)
  else d.updCluster (pkCluster pk) (fun c => { c.heal ((d.window p).1 + a) n with clm := c.clm.writeLE ((d.window p).1 + a) n v })

/-- Drops what an access served in place was fetched. -/
def Dev.accessed (d : Dev) (p : Plait) (ctxMem : Bool) (size : Nat) (as_ : List (Nat × Nat)) : Dev :=
  if ctxMem then d.dropDirect p.ctx (spansAt size as_) else d

/-- Registers that a loaded value fills (03 R116). -/
def loadRegs (size : Nat) (sx : Bool) (v : Nat) : List W32 :=
  let v := if sx && 2 ^ (8 * size) ≤ 2 * v then v + 2 ^ 32 - 2 ^ (8 * size) else v
  (List.range (ceilDiv size 4)).map (fun k => BitVec.ofNat 32 (v / 2 ^ (32 * k)))

def ldIns (e : Enc) (d : Dev) (pk : Nat) (p : Plait) : InsRes :=
  let cm := e.md.getLsbD 4
  let size := 2 ^ md e 0 3
  let m := p.parts e
  let as_ := (lanes m).map (fun k => (k, addrOf e cm p k))
  match preAccess d pk p cm size .load as_ with
  | .stop r => r
  | .go d => .done (d.accessed p cm size as_) (p.eachW m e.d.toNat (fun k => loadRegs size (e.md.getLsbD 3) (d.spaceRead pk p cm (addrOf e cm p k) size)))

/-- The low bytes of source B, as one number. -/
def storeVal (e : Enc) (p : Plait) (k size : Nat) : Nat :=
  ((p.rdN e.b.toNat (sizeRegs (md e 0 3)) k).foldr (fun v r => v.toNat + 2 ^ 32 * r) 0) % 256 ^ size

def stIns (e : Enc) (d : Dev) (pk : Nat) (p : Plait) : InsRes :=
  let cm := e.md.getLsbD 4
  let size := 2 ^ md e 0 3
  let m := p.parts e
  let as_ := (lanes m).map (fun k => (k, addrOf e cm p k))
  match preAccess d pk p cm size .store as_ with
  | .stop r => r
  | .go d => .done (((lanes m).foldl (fun d k => d.spaceWrite pk p cm (addrOf e cm p k) size (storeVal e p k size)) d).accessed p cm size as_) p

/-- An atomic operation of n bits on old value and operand (03 Table 3-9, 02 R86). -/
def atomF (op n a b : Nat) : Nat :=
  match op with
  | 0 => (a + b) % 2 ^ n
  | 1 => if intLt n true b a then b else a
  | 2 => if intLt n true a b then b else a
  | 3 => min a b
  | 4 => max a b
  | 5 => a &&& b
  | 6 => a ||| b
  | 7 => a ^^^ b
  | 10 => faddB fp32 .rne a b
  | 11 => fminB fp32 a b
  | _ => fmaxB fp32 a b

/-- combine of 02 R87: the fixed tree for the FP32 sum, strand order otherwise. -/
def atomCombine (op n : Nat) : List Nat → Nat
  | [] => 0
  | v :: t => if op = 10 then (treeSum ((v :: t).map (BitVec.ofNat 32))).toNat else t.foldl (atomF op n) v

/-- Values returned to the participants of one address, and the final memory value (02 R87, R88); `vs` pairs operand
and compare value in strand order. -/
def atomAt (op n old : Nat) (vs : List (Nat × Nat)) : List Nat × Nat :=
  if op = 8 || op = 9 then
    vs.foldl (fun (r : List Nat × Nat) v => (r.1 ++ [r.2], if op = 8 || r.2 == v.2 then v.1 else r.2)) ([], old)
  else
    let os := vs.map (fun v => v.1)
    ((List.range os.length).map (fun k => if k = 0 then old else atomF op n old (atomCombine op n (os.take k))),
     atomF op n old (atomCombine op n os))

def atomIns (e : Enc) (d : Dev) (pk : Nat) (p : Plait) : InsRes :=
  let cm := e.aux.getLsbD 2
  let w := e.md.getLsbD 4
  let size := if w then 8 else 4
  let m := p.parts e
  let as_ := (lanes m).map (fun k => (k, addrOf e cm p k))
  match preAccess d pk p cm size .store as_ with
  | .stop r => r
  | .go d =>
    let bad := as_.filter (fun a => if cm then d.vbad p.ctx a.2 size else (d.cluster (pkCluster pk)).badAt ((d.window p).1 + a.2) size)
    match bad with
    | a :: _ => .fault cUncorrectable (maskOf (bad.map (fun a => a.1))) (BitVec.ofNat 64 a.2) none
    | [] =>
      let d := match d.obj.ctxs.get? p.ctx with
        | some x => if cm then d.countLoads p.ctx (pkTile pk) x (spansAt size as_) else d
        | none => d
      let r := ((as_.map (fun a => a.2)).eraseDups).foldl (fun (r : Dev × Plait) a =>
        let ks := (as_.filter (fun x => x.2 = a)).map (fun x => x.1)
        let res := atomAt (md e 0 4) (8 * size) (r.1.spaceRead pk p cm a size) (ks.map (fun k => (p.rdW w e.b.toNat k, p.rdW w e.c.toNat k)))
        (r.1.spaceWrite pk p cm a size res.2,
         (ks.zip res.1).foldl (fun q kv => q.wrN e.d.toNat kv.1 (splitW w kv.2)) r.2)) (d, p)
      .done (r.1.accessed p cm size as_) r.2

def execLd (r : PlaitRef) (e : Enc) (s : State) := onDev (runIns 0x30 (ldIns e) r e) s
def execSt (r : PlaitRef) (e : Enc) (s : State) := onDev (runIns 0x31 (stIns e) r e) s
def execAtom (r : PlaitRef) (e : Enc) (s : State) := onDev (runIns 0x40 (atomIns e) r e) s

end Sys2Proof.Machine
end

