-- ==== Sys2Proof/Machine/Async.lean ====
section
/-! DEFINITION. Asynchronous issue: MXI, MXG, MXW, MXR, ECI, CPY (03 R121 to R124; 02 R58 to R61, R82, R83; 04 R140, R146,
R153), the completion of a CPY, and the commands of arrays and chains. -/

namespace Sys2Proof.Machine

def tokenOf (e : Enc) : Nat := e.aux.toNat % 16
/-- Is a completion token pending (02 R82)? -/
def Plait.pending (p : Plait) (t : Nat) : Bool := p.tokens.getLsbD t
def Plait.take (p : Plait) (t : Nat) : Plait := { p with tokens := p.tokens ||| (1#16 <<< t) }

/-- What an operation keeps of its issuer. -/
def Dev.issuer (d : Dev) (pk : Nat) (p : Plait) (op : Nat) (e : Enc) : Issuer :=
  let w := d.window p
  { pk := pk, token := tokenOf e, gk := p.gk, base := w.1, size := w.2, ctx := p.ctx, q := p.q, i := p.i,
    round := ((d.cmd? p.q p.i).map (fun c => c.round)).getD 0, pc := p.pc, ins := insWord op e, ext := if e.x then e.ext else 0,
    mask := p.parts e }

/-- Array named by MOD[1:0] of a plait's cluster. -/
def arrayOf (pk : Nat) (e : Enc) : Nat := pkCluster pk * 4 + md e 0 2
def Dev.fullArray (d : Dev) (k : Nat) : Bool := decide (8 ≤ (d.array k).queue.length)

/-- An operation as it is accepted: the phases that apply to it lie ahead. -/
def AOp.fresh (kind : AKind) (x chain slice : Nat) (b : Issuer) : AOp :=
  let ph (need : Bool) : Ph := if need then .idle else .done
  let mat := kind == .matmul
  let load := match kind with | .loadw => true | .mxw _ _ => true | .matmul => dWload x | _ => false
  let frag := match kind with | .mxr _ _ _ => true | _ => false
  { kind := kind, desc := x, chain := chain, by_ := b, slice := slice, wload := ph load, init := ph (mat && dInit x = 2), stream := ph mat,
    result := ph mat, drain := ph (match kind with | .matmul => dDrains x | .drain => true | _ => false), pass := 0, amaxFirst := false,
    read := ph frag, qs := [], vs := [], out := none, redw := [], regs := [] }

def Dev.pushOp (d : Dev) (k : Nat) (o : AOp) : Dev := d.updArray k (fun a => { a with queue := a.queue ++ [o] })

/-- Does the chain descriptor at a window offset, as far as it lies in the window, hold an uncorrectable error? -/
def Cluster.badChain (c : Cluster) (base size off : Nat) : Bool :=
  let n := 0xA0 + 8 * min 32 (cNinstr (c.clm.readLE (base + off) 8))
  off % 32 = 0 && off + 0xA0 ≤ size && (c.badAt (base + off) 0xA0 || (off + n ≤ size && c.badAt (base + off) n))

/-- A matrix descriptor that has been read: its checks, then its acceptance (04 R153, R139). -/
def acceptDesc (op : Nat) (e : Enc) (d : Dev) (pk : Nat) (p : Plait) (x : Nat) : InsRes :=
  let w := d.window p
  if dFuse x && (d.cluster (pkCluster pk)).badChain w.1 w.2 (df x 0x48 4) then .fault cUncorrectable (p.parts e) (BitVec.ofNat 64 (df x 0x48 4)) none else
  let c := descCheck (d.cluster (pkCluster pk)).clm w.1 w.2 x (d.fmtOk (d.partOf p.ctx))
  match firstErr c.2 with
  | some r => .fault r.1 (p.parts e) (BitVec.ofNat 64 r.2) none
  | none =>
    let kind : AKind := match dOpc x with | 0 => .matmul | 1 => .loadw | _ => .drain
    .done (d.pushOp (arrayOf pk e) (AOp.fresh kind x c.1 (pk / 16) (d.issuer pk p op e))) (p.take (tokenOf e))

/-- MXI: the descriptor lies in the window at the offset of the lowest participant. -/
def mxiIns (e : Enc) (d : Dev) (pk : Nat) (p : Plait) : InsRes :=
  match lanes (p.parts e) with
  | [] => .done d p
  | s :: _ =>
    if p.pending (tokenOf e) || d.fullArray (arrayOf pk e) then .wait d else
    let off := (p.rd e.a.toNat s).toNat
    let w := d.window p
    if off % 32 != 0 then .fault cMisaligned (p.parts e) (BitVec.ofNat 64 off) none
    else if w.2 < off + 112 then .fault cBounds (p.parts e) (BitVec.ofNat 64 (max off w.2)) none
    else if (d.cluster (pkCluster pk)).badAt (w.1 + off) 112 then .fault cUncorrectable (p.parts e) (BitVec.ofNat 64 off) none
    else acceptDesc 0x50 e d pk p ((d.cluster (pkCluster pk)).clm.readLE (w.1 + off) 112)

/-- A group-wide instruction: without participants nothing; outside a region illegal, split diverged (02 R58, R60). -/
def groupWide (e : Enc) (d : Dev) (pk : Nat) (p : Plait) (f : InsRes) : InsRes :=
  let m := p.parts e
  if m == 0 then .done d p
  else if p.pending (tokenOf e) || d.fullArray (arrayOf pk e) then .wait d
  else match p.region with
    | none => .fault cIllegal m 0 none
    | some entry => if p.active != entry || m != p.active then .fault cDiverged m 0 none else f

/-- Bytes of a number of registers of every strand from 0 to n - 1, strand by strand. -/
def Plait.gather (p : Plait) (r k n : Nat) : List W8 := (List.range n).flatMap (fun s => (p.rdN r k s).flatMap (fun v => leBytes 4 v.toNat))

def mxgIns (e : Enc) (d : Dev) (pk : Nat) (p : Plait) : InsRes :=
  groupWide e d pk p (acceptDesc 0x51 e d pk p (leNat (p.gather e.a.toNat 1 28)))

def mxwIns (e : Enc) (d : Dev) (pk : Nat) (p : Plait) : InsRes :=
  groupWide e d pk p (.done (d.pushOp (arrayOf pk e) (AOp.fresh (.mxw (md e 2 6) (p.gather e.a.toNat 4 32)) 0 0 (pk / 16) (d.issuer pk p 0x52 e))) (p.take (tokenOf e)))

/-- MXR writes its destination when its token frees; until then instructions that name the group wait (03 R122). -/
def mxrIns (e : Enc) (d : Dev) (pk : Nat) (p : Plait) : InsRes :=
  let r := e.d.toNat
  let q := p.take (tokenOf e)
  groupWide e d pk p (.done (d.pushOp (arrayOf pk e) (AOp.fresh (.mxr (md e 2 6) r (p.parts e)) 0 0 (pk / 16) (d.issuer pk p 0x53 e)))
    (if r = 255 then q else { q with held := (tokenOf e, r) :: q.held }))

/-- ECI: a standalone chain for the slice of the plait's scheduler (06 R208, R220, R224). -/
def eciIns (e : Enc) (d : Dev) (pk : Nat) (p : Plait) : InsRes :=
  match lanes (p.parts e) with
  | [] => .done d p
  | s :: _ =>
    if p.pending (tokenOf e) || decide (4 ≤ (d.slice (pk / 16)).queue.length) then .wait d else
    let w := d.window p
    let off := (p.rd e.a.toNat s).toNat
    if (d.cluster (pkCluster pk)).badChain w.1 w.2 off then .fault cUncorrectable (p.parts e) (BitVec.ofNat 64 off) none else
    let c := chainCheck (d.cluster (pkCluster pk)).clm w.1 w.2 off (d.fmtOk (d.partOf p.ctx)) none
    match firstErr c.2 with
    | some r => .fault r.1 (p.parts e) (BitVec.ofNat 64 r.2) none
    | none =>
      let o : ChainOp := ⟨c.1, d.issuer pk p 0x54 e, .queued, false, [], [], none, []⟩
      .done (d.updSlice (pk / 16) (fun u => { u with queue := u.queue ++ [o] })) (p.take (tokenOf e))

/-- CPY: checks, then its pages are pinned (03 R123, 08 R290). A length of zero completes at issue, since an empty range reaches nowhere; a
fault names every participant, and a misaligned length the virtual address (log 103). -/
def cpyIns (e : Enc) (d : Dev) (pk : Nat) (p : Plait) : InsRes :=
  match lanes (p.parts e) with
  | [] => .done d p
  | s :: _ =>
    if p.pending (tokenOf e) then .wait d else
    let m := p.parts e
    let va := p.rd64 e.a.toNat s
    let off := (p.rd e.b.toNat s).toNat
    let len := (p.rd e.c.toNat s).toNat
    let w := d.window p
    let toMem := e.md.getLsbD 0
    if va.toNat % 32 != 0 then .fault cMisaligned m va none
    else if off % 32 != 0 then .fault cMisaligned m (BitVec.ofNat 64 off) none
    else if len % 32 != 0 then .fault cMisaligned m va none
    else if len = 0 then .done d p
    else if w.2 < off + len then .fault cBounds m (BitVec.ofNat 64 (max off w.2)) none
    else match d.pinAll p.ctx (pkTile pk) (rngOf (if toMem then .store else .load) va.toNat len) with
      | .fault _ c a => .fault cPage m a (some ⟨false, toMem, c, a⟩)
      | .wait d => .wait d
      | .ok d pins =>
        .done { d with cpys := d.cpys ++ [⟨pk, tokenOf e, va, w.1 + off, len, toMem, m, p.pc, insWord 0x55 e, pins⟩] } (p.take (tokenOf e))

def execMxi (r : PlaitRef) (e : Enc) (s : State) := onDev (runIns 0x50 (mxiIns e) r e) s
def execMxg (r : PlaitRef) (e : Enc) (s : State) := onDev (runIns 0x51 (mxgIns e) r e) s
def execMxw (r : PlaitRef) (e : Enc) (s : State) := onDev (runIns 0x52 (mxwIns e) r e) s
def execMxr (r : PlaitRef) (e : Enc) (s : State) := onDev (runIns 0x53 (mxrIns e) r e) s
def execEci (r : PlaitRef) (e : Enc) (s : State) := onDev (runIns 0x54 (eciIns e) r e) s
def execCpy (r : PlaitRef) (e : Enc) (s : State) := onDev (runIns 0x55 (cpyIns e) r e) s

/-! Completion of a CPY (03 R123, R124). -/

/-- Carries out the copy of n bytes. -/
def Dev.cpyMove (d : Dev) (c : Nat) (o : Cpy) (n : Nat) : Dev :=
  let ck := pkCluster o.pk
  let d := d.spendOn ck 8 (ceilDiv n 32)
  let d := if o.toMem then d.vwrite c (pkTile o.pk) o.va.toNat ((d.cluster ck).clm.readN o.off n)
    else
      let data := d.vread c o.va.toNat n
      d.updCluster ck (fun u => { u.heal o.off n with clm := u.clm.writeN o.off data })
  d.dropDirect c (spansOf o.va.toNat n)

/-- A fault that a pending CPY meets, under its own program counter. -/
def Dev.cpyFault (d : Dev) (p : Plait) (o : Cpy) (code : Nat) (a : W64) (m : Option MemFault) : Dev :=
  let r : FaultRec := { code := code, more := false, tile := pkTile o.pk, cluster := pkCluster o.pk % 40, sched := o.pk / 16 % 4, slot := o.pk % 16,
                        pc := o.pc, mask := o.mask, addr := a, ins := o.ins, ext := 0, time := d.clk.now, suppressed := 0 }
  d.faultCmd p.ctx p.q p.i r m (some (pkCluster o.pk, none))

/-- How a line of 32 bytes, by its number, meets an uncorrectable error: in cluster local memory that is read, or in DRAM that is read or whose
quarter is written in part. -/
def Dev.cpyBadClm (d : Dev) (o : Cpy) (n : Nat) : Bool := o.toMem && (d.cluster (pkCluster o.pk)).badAt (o.off + 32 * n) 32
def Dev.cpyBadMem (d : Dev) (c : Nat) (o : Cpy) (n : Nat) : Bool :=
  let a := o.va.toNat + 32 * n
  let whole := decide (o.va.toNat ≤ a / 64 * 64) && decide (a / 64 * 64 + 64 ≤ o.va.toNat + o.len)
  d.vbad c a 32 && !(o.toMem && whole)

/-- The first of a copy's n lines are written, as far as their pages can take them (03 R124; log 10). -/
def Dev.cpyPart (d : Dev) (c : Nat) (o : Cpy) (n : Nat) : Dev :=
  if n = 0 then d else
  match d.prepare c (pkTile o.pk) (if o.toMem then .store else .load) (spansOf o.va.toNat (32 * n)) with
  | .ok d => d.cpyMove c o (32 * n)
  | _ => d

/-- The copy ends: its writes are visible, its pins released, its token free. A copy that meets a page fault or an uncorrectable error
has written a number of its 32-byte lines that the spec leaves open, none from that line on (03 R124; log 10). -/
def Dev.cpyEnd (d : Dev) (pk tok : Nat) : Dev :=
  if d.stopped (pkTile pk) then d else
  match d.cpys.find? (fun o => o.pk = pk && o.token = tok), d.plaits.get? pk with
  | some o, some p =>
    let acc : Acc := if o.toMem then .store else .load
    match d.prepare p.ctx (pkTile pk) acc (spansOf o.va.toNat o.len) with
    | .stall d => d
    | .fault c _ a => (d.drew.cpyPart p.ctx o (d.draw.toNat % ((a.toNat - o.va.toNat) / 32 + 1))).cpyFault p o cPage a (some ⟨false, o.toMem, c, a⟩)
    | .ok d =>
      match (List.range (o.len / 32)).find? (fun n => d.cpyBadClm o n || d.cpyBadMem p.ctx o n) with
      | some n =>
        let va := o.va + BitVec.ofNat 64 (32 * n)
        let mem := d.cpyBadMem p.ctx o n
        let d := d.drew.cpyMove p.ctx o (32 * (d.draw.toNat % (n + 1)))
        let d := if mem then d.metBad p.ctx va.toNat 32 else d.queueSwap (pkCluster pk)
        d.cpyFault p o cUncorrectable (if mem then va else BitVec.ofNat 64 (o.off + 32 * n - (d.window p).1)) none
      | none =>
        let d := d.cpyMove p.ctx o o.len
        (Dev.unpin { d with cpys := d.cpys.filter (fun z => !(z.pk = pk && z.token = tok)) } o.pins).freeToken pk tok
  | _, _ => d

def execCpyComplete (p : PlaitRef) (token : Nat) (s : State) := onDev (fun d => d.cpyEnd (pkey p) token) s

/-! Commands of arrays. -/

def arrKey (a : ArrayRef) : Nat := akey a.tile a.cluster a.arr
def sliceKey (u : SliceRef) : Nat := akey u.tile u.cluster u.slice

def execMxaWeightLoadStart (a : ArrayRef) (s : State) := onDev (fun d => d.arrEvent (arrKey a) canWload Dev.wloadStart) s
def execMxaWeightLoadEnd (a : ArrayRef) (s : State) := onDev (fun d => d.arrEvent (arrKey a) canWend Dev.wloadEnd) s
def execMxaInitLoadEnd (a : ArrayRef) (s : State) := onDev (fun d => d.arrEvent (arrKey a) canInit Dev.initEnd) s
def execMxaStreamStart (a : ArrayRef) (s : State) := onDev (fun d => d.arrEvent (arrKey a) canStream Dev.streamStart) s
def execMxaStreamEnd (a : ArrayRef) (s : State) := onDev (fun d => d.arrEvent (arrKey a) canStreamEnd Dev.streamEnd) s
def execMxaLastResult (a : ArrayRef) (s : State) := onDev (fun d => d.arrEvent (arrKey a) canResult Dev.lastResult) s
def execMxaDrainPassStart (a : ArrayRef) (s : State) := onDev (fun d => d.arrEvent (arrKey a) canDrain Dev.drainStart) s
def execMxaDrainPassEnd (a : ArrayRef) (s : State) := onDev (fun d => d.arrEvent (arrKey a) canDrainEnd Dev.drainEnd) s
def execMxaFragmentReadStart (a : ArrayRef) (s : State) := onDev (fun d => d.arrEvent (arrKey a) canRead Dev.fragRead) s
def execMxaOpComplete (a : ArrayRef) (s : State) := onDev (fun d => d.arrEvent (arrKey a) canComplete Dev.opComplete) s
def execMxaPackingStop (a : ArrayRef) (s : State) := onDev (fun d => d.packStop (arrKey a)) s
def execShadowCompare (a : ArrayRef) (s : State) := onDev (fun d => d.shadowCompare (arrKey a)) s

/-- A fused drain of array k's oldest operation, on its slice. -/
def Dev.headFused (d : Dev) (k : Nat) : Dev :=
  match (d.array k).queue with
  | o :: _ =>
    if !o.fuse then d else
    match d.fusedReady o.slice with
    | some (ak, 0, _) => if ak = k && !(d.slice o.slice).busy then ((d.fusedStart o.slice).fusedEnd o.slice).fusedEnd o.slice else d
    | _ => d
  | [] => d

/-- Runs the oldest operation of an array through all its events, when it is of the kind named: MATMUL, LOADW, DRAIN as
whole operations (04 R149). A fused drain whose slice is taken stays where it is. -/
def Dev.runHead (d : Dev) (k : Nat) (kind : AKind) : Dev :=
  match (d.array k).queue with
  | [] => d
  | o :: _ =>
    if o.kind != kind then d else
    let d := (d.opEvent k 0 canWload Dev.wloadStart).opEvent k 0 canWend Dev.wloadEnd
    let d := d.opEvent k 0 canInit Dev.initEnd
    let d := (d.opEvent k 0 canStream Dev.streamStart).opEvent k 0 canStreamEnd Dev.streamEnd
    let d := d.opEvent k 0 canResult Dev.lastResult
    let d := ((d.opEvent k 0 canDrain Dev.drainStart).opEvent k 0 canDrainEnd Dev.drainEnd).opEvent k 0 canDrainEnd Dev.drainEnd
    (d.headFused k).opEvent k 0 canComplete Dev.opComplete

def execMatmul (a : ArrayRef) (s : State) := onDev (fun d => d.runHead (arrKey a) .matmul) s
def execLoadw (a : ArrayRef) (s : State) := onDev (fun d => d.runHead (arrKey a) .loadw) s
def execDrain (a : ArrayRef) (s : State) := onDev (fun d => d.runHead (arrKey a) .drain) s

/-! Commands of slices. -/

def execChainStart (u : SliceRef) (s : State) := onDev (fun d => d.chainStart (sliceKey u)) s
def execChainChannelsLoaded (u : SliceRef) (s : State) := onDev (fun d => d.chainLoaded (sliceKey u)) s
def execChainStepsEnd (u : SliceRef) (s : State) := onDev (fun d => d.chainStepsEnd (sliceKey u)) s
def execChainOutputPassEnd (u : SliceRef) (s : State) := onDev (fun d => d.chainPassEnd (sliceKey u)) s
def execChainComplete (u : SliceRef) (s : State) := onDev (fun d => d.chainComplete (sliceKey u)) s
def execFusedDrainPassStart (u : SliceRef) (s : State) := onDev (fun d => d.fusedStart (sliceKey u)) s
def execFusedDrainPassEnd (u : SliceRef) (s : State) := onDev (fun d => d.fusedEnd (sliceKey u)) s
def execChMov (u : SliceRef) (s : State) := onDev (fun d => d.chainIns (sliceKey u) 0x00) s
def execChAdd (u : SliceRef) (s : State) := onDev (fun d => d.chainIns (sliceKey u) 0x01) s
def execChSub (u : SliceRef) (s : State) := onDev (fun d => d.chainIns (sliceKey u) 0x02) s
def execChMul (u : SliceRef) (s : State) := onDev (fun d => d.chainIns (sliceKey u) 0x03) s
def execChFma (u : SliceRef) (s : State) := onDev (fun d => d.chainIns (sliceKey u) 0x04) s
def execChMin (u : SliceRef) (s : State) := onDev (fun d => d.chainIns (sliceKey u) 0x05) s
def execChMax (u : SliceRef) (s : State) := onDev (fun d => d.chainIns (sliceKey u) 0x06) s
def execChAbsneg (u : SliceRef) (s : State) := onDev (fun d => d.chainIns (sliceKey u) 0x07) s
def execChRcp (u : SliceRef) (s : State) := onDev (fun d => d.chainIns (sliceKey u) 0x08) s
def execChSqrt (u : SliceRef) (s : State) := onDev (fun d => d.chainIns (sliceKey u) 0x09) s
def execChRsq (u : SliceRef) (s : State) := onDev (fun d => d.chainIns (sliceKey u) 0x0A) s
def execChExp2 (u : SliceRef) (s : State) := onDev (fun d => d.chainIns (sliceKey u) 0x0B) s
def execChLog2 (u : SliceRef) (s : State) := onDev (fun d => d.chainIns (sliceKey u) 0x0C) s
def execChSin (u : SliceRef) (s : State) := onDev (fun d => d.chainIns (sliceKey u) 0x0D) s
def execChCos (u : SliceRef) (s : State) := onDev (fun d => d.chainIns (sliceKey u) 0x0E) s
def execChTanh (u : SliceRef) (s : State) := onDev (fun d => d.chainIns (sliceKey u) 0x0F) s
def execChCmp (u : SliceRef) (s : State) := onDev (fun d => d.chainIns (sliceKey u) 0x10) s
def execChSel (u : SliceRef) (s : State) := onDev (fun d => d.chainIns (sliceKey u) 0x11) s
def execChCvt (u : SliceRef) (s : State) := onDev (fun d => d.chainIns (sliceKey u) 0x12) s
def execChRint (u : SliceRef) (s : State) := onDev (fun d => d.chainIns (sliceKey u) 0x13) s
def execChRng (u : SliceRef) (s : State) := onDev (fun d => d.chainIns (sliceKey u) 0x14) s
def execChDrop (u : SliceRef) (s : State) := onDev (fun d => d.chainIns (sliceKey u) 0x15) s
def execChPerm (u : SliceRef) (s : State) := onDev (fun d => d.chainIns (sliceKey u) 0x16) s

end Sys2Proof.Machine
end

