-- ==== Sys2Proof/Machine/ShCtl.lean ====
section
/-! DEFINITION. Barriers, waits, regions and control flow of Shorek (03 R125 to R128; 02 R52 to R61, R76 to R84). -/

namespace Sys2Proof.Machine

/-! Barriers (02 R78 to R80). -/

/-- Plaits of a work group that are still live. -/
def Dev.livePlaits (d : Dev) (gk : Nat) : Nat := (d.plaits.filter (fun kv => kv.2.gk = gk)).length

/-- Completes barrier n of a work group when its arrivals reach its count: every waiting plait goes on and the barrier
resets (02 R78); count 0 stands for every live plait. -/
def Dev.tryBar (d : Dev) (gk n : Nat) : Dev :=
  match d.groups.get? gk with
  | none => d
  | some g =>
    match g.bars.get? n with
    | none => d
    | some b =>
      let need := if b.count = 0 then d.livePlaits gk else b.count
      if need ≤ b.arrivals then
        let d := b.waiting.foldl (fun d k => d.updPlait k (fun p => { p with stall := .none })) d
        { d with groups := d.groups.upd gk (fun g => { g with bars := g.bars.del n }) }
      else d

/-- BAR: the plait arrives once and waits; without participants it does not arrive (03 R126, 02 R79). The count in force
is that of the last arrival (log 18). -/
def barIns (e : Enc) (d : Dev) (pk : Nat) (p : Plait) : InsRes :=
  if p.parts e == 0 then .done d p
  else
    let n := e.a.toNat
    let d := { d with groups := d.groups.upd p.gk (fun g =>
      let b := g.bars.getD n ⟨0, 0, []⟩
      { g with bars := g.bars.set n ⟨e.b.toNat, b.arrivals + 1, b.waiting ++ [pk]⟩ }) }
    .done d { p with stall := .barrier n }

/-- The barrier is tried once the arriving plait stands waiting. -/
def execBar (r : PlaitRef) (e : Enc) (s : State) :=
  onDev (fun d =>
    let d' := runIns 0x58 (barIns e) r e d
    match d'.plaits.get? (pkey r) with
    | some p => (match p.stall with
      | .barrier n => d'.tryBar p.gk n
      | _ => d')
    | none => d') s

/-- MBAR orders accesses; every access of the model takes effect in queue order, so nothing is left to order (02 R76). -/
def execMbar (r : PlaitRef) (e : Enc) (s : State) := onDev (runReg 0x59 (fun _ p => p) r e) s

/-- WAIT: the plait stalls until every named token is free (02 R82). -/
def waitP (e : Enc) (_ : Nat) (p : Plait) : Plait :=
  if p.parts e == 0 then p else { p with stall := .tokens (e.a ++ e.b) }
def execWait (r : PlaitRef) (e : Enc) (s : State) := onDev (runReg 0x5A (waitP e) r e) s

/-! Regions (02 R58, R59). -/

def rgnEnterIns (e : Enc) (d : Dev) (_ : Nat) (p : Plait) : InsRes :=
  if p.region.isSome then .fault cIllegal (p.parts e) 0 none
  else if !p.stack.isEmpty || p.active != p.live then .fault cDiverged (p.parts e) 0 none
  else .done d { p with region := some p.active }
def rgnExitIns (e : Enc) (d : Dev) (_ : Nat) (p : Plait) : InsRes :=
  if p.region.isNone then .fault cIllegal (p.parts e) 0 none else .done d { p with region := none }
def execRgnEnter (r : PlaitRef) (e : Enc) (s : State) := onDev (runIns 0x5B (rgnEnterIns e) r e) s
def execRgnExit (r : PlaitRef) (e : Enc) (s : State) := onDev (runIns 0x5C (rgnExitIns e) r e) s

/-! Control flow (03 R127, R128; 02 R53 to R57). -/

/-- Instruction address plus 8 times a signed 32-bit offset (03 R127). -/
def branchTo (pc : W64) (off : W32) : W64 := pc + (off.signExtend 64 <<< 3)

/-- A branch: the participants go to the target, the other active strands fall through; a plait that agrees follows as a
whole, another pushes an entry and goes on with the fall-through (02 R53, R57). -/
def branch (d : Dev) (e : Enc) (p q : Plait) : InsRes :=
  let m := p.parts e
  let target := branchTo p.pc (e.ext.truncate 32)
  let fall := p.pc + insLen e
  if m == p.active then .jump d { q with pc := target }
  else if m == 0 then .jump d { q with pc := fall }
  else if 32 ≤ p.stack.length then .fault cIllegal m 0 none
  else .jump d { q with pc := fall, active := p.active &&& ~~~m,
                        stack := ⟨branchTo p.pc (e.ext.extractLsb' 32 32), p.active, [(target, m)]⟩ :: p.stack }

def braIns (e : Enc) (d : Dev) (_ : Nat) (p : Plait) : InsRes := branch d e p p

/-- CALL: as BRA, and each participant writes its instruction address + 16 (03 Table 3-12). -/
def callIns (e : Enc) (d : Dev) (_ : Nat) (p : Plait) : InsRes :=
  branch d e p (p.eachW (p.parts e) e.d.toNat (fun _ => splitW true (p.pc + 16).toNat))

/-- Strands grouped by target, each group at the place of its lowest strand (02 R55). -/
def byTarget (l : List (Nat × W64)) : List (W64 × W32) :=
  ((l.map (fun a => a.2)).eraseDups).map (fun t => (t, maskOf ((l.filter (fun a => a.2 == t)).map (fun a => a.1))))

/-- BRX: each participant names its own target, another active strand the fall-through (03 R128, 02 R55). -/
def brxIns (e : Enc) (d : Dev) (_ : Nat) (p : Plait) : InsRes :=
  let m := p.parts e
  let fall := p.pc + insLen e
  let l := (lanes p.active).map (fun k => (k, if m.getLsbD k then p.rd64 e.a.toNat k else fall))
  let mis := l.filter (fun a => m.getLsbD a.1 && a.2.toNat % 8 != 0)
  match byTarget l with
  | [] => .done d p
  | (t, g) :: rest =>
    if !rest.isEmpty && 32 ≤ p.stack.length then .fault cIllegal m 0 none
    else match mis with
      | a :: _ => .fault cMisaligned (maskOf (mis.map (fun a => a.1))) a.2 none
      | [] =>
        if rest.isEmpty then .jump d { p with pc := t }
        else .jump d { p with pc := t, active := g, stack := ⟨branchTo p.pc (e.ext.extractLsb' 32 32), p.active, rest⟩ :: p.stack }

/-- EXIT: participants leave the live mask for good (02 R56). -/
def exitP (e : Enc) (_ : Nat) (p : Plait) : Plait :=
  let m := p.parts e
  { p with live := p.live &&& ~~~m, active := p.active &&& ~~~m }

def execBra (r : PlaitRef) (e : Enc) (s : State) := onDev (runIns 0x60 (braIns e) r e) s
def execBrx (r : PlaitRef) (e : Enc) (s : State) := onDev (runIns 0x61 (brxIns e) r e) s
def execCall (r : PlaitRef) (e : Enc) (s : State) := onDev (runIns 0x62 (callIns e) r e) s
def execExit (r : PlaitRef) (e : Enc) (s : State) := onDev (runReg 0x63 (exitP e) r e) s

end Sys2Proof.Machine
end

