-- ==== Sys2Proof/Machine/Objects.lean ====
section
/-! DEFINITION. Object commands of the submission ports (09 R304 to R326), and the device allocator (09 R322, 03 R133). -/

namespace Sys2Proof.Machine

/-- What an object command leads to: results, an ignored sequence with its cause, or a command still in progress. -/
inductive ObjRes where
  | ok (d : Dev) (status : Nat) (r1 r2 : Nat)
  | ign (cause : Nat)
  | busy (d : Dev)
  | retry (d : Dev)

def Dev.oport (d : Dev) (p : Nat) : OPort := d.obj.ports.getD p OPort.zero
def Dev.setOport (d : Dev) (p : Nat) (v : OPort) : Dev := { d with obj := { d.obj with ports := d.obj.ports.set p v } }

/-- A port reads BUSY while a command is in progress, and while the ports are held for the Narby OS (09 R307; 14 R455, R479). -/
def Dev.portBusy (d : Dev) (p : Nat) : Bool := d.obj.held || (d.oport p).busy

/-- DETAIL of an ignored object command (09 Table 9-13): of Q_COMMIT the queue and the first index, else bits of ARG0. -/
def OPort.detail (v : OPort) (op : Nat) : Nat := if op = 6 then bits v.arg0 0 16 * 2 ^ 32 + bits v.arg1 0 32 else bits v.arg0 0 48

/-- Runs an object command on a port (09 R307, R308): nothing where no such port exists; a write while BUSY, a non-zero CMD[63:8] and an
ignored command are counted; one that waits for a page-out stays BUSY; otherwise the RESULT registers get its outcome. -/
def objCmd (op : Nat) (body : OPort → Dev → ObjRes) (port : Nat) (hi : BitVec 56) (d : Dev) : Dev :=
  let v := d.oport port
  let det := v.detail op
  if 16 ≤ port then d
  else if d.portBusy port then d.ignore 0x08 port det
  else if hi != 0 then (d.ignore 0x01 port det).setOport port { v with ignored := true, status := 0 }
  else match body v d with
    | .ign c => (d.ignore c port det).setOport port { v with ignored := true, status := 0 }
    | .busy d => d.setOport port { v with busy := true, ignored := false, status := 0, r1 := 0, r2 := 0 }
    | .retry d => d.setOport port { v with busy := true, ignored := false, status := 0, r1 := 0, r2 := 0, retry := some op }
    | .ok d st r1 r2 => d.setOport port { d.oport port with busy := false, ignored := false, status := st, r1 := BitVec.ofNat 64 r1, r2 := BitVec.ofNat 64 r2 }

/-- Checks an argument against its range before f (09 R308, first cases). -/
def argOk (c : Bool) (f : ObjRes) : ObjRes := if c then f else .ign 0x01
def fits (v : W64) (n : Nat) : Bool := decide (v.toNat < 2 ^ n)

/-- The context that an argument names. -/
def withCtx (d : Dev) (a : W64) (f : Nat → Ctx → ObjRes) : ObjRes :=
  match d.obj.ctxs.get? a.toNat with
  | some x => f a.toNat x
  | none => .ign 0x02

/-- The queue that an argument names; its number dies when its slot is freed (09 R305). -/
def withQueue (d : Dev) (a : W64) (f : Nat → Queue → ObjRes) : ObjRes :=
  match d.obj.queues.get? a.toNat with
  | some u => f a.toNat u
  | none => .ign 0x02

def withMobj (d : Dev) (a : W64) (f : Nat → MObj → ObjRes) : ObjRes :=
  match d.mobjLive a.toNat with
  | some m => f (mobjSlot a.toNat) m
  | none => .ign 0x02

def withFence (d : Dev) (a : W64) (dead : Nat) (f : Nat → Fence → ObjRes) : ObjRes :=
  match d.fenceLive a.toNat with
  | some x => f (fenceSlot a.toNat) x
  | none => .ign dead

/-! Contexts (09 R309, R325). -/

def cmdCtxCreate (v : OPort) (d : Dev) : ObjRes :=
  argOk (fits v.arg0 3 && fits v.arg1 1 && v.arg3 == 0) <|
  match d.parts.get? v.arg0.toNat with
  | none => .ign 0x02
  | some _ =>
    let p := v.arg0.toNat
    let used := (d.obj.ctxs.filter (fun kv => kv.2.part = p)).length
    let c := firstFree d.obj.ctxs 64 0
    if (d.sztE p 20).toNat ≤ used || 64 ≤ c then .ok d cOk 0xFF 0
    else
      let x : Ctx := { st := .active, compat := v.arg1 != 0, part := p, memLimit := v.arg2.toNat, fault := none, memFault := none,
                       pages := [], ptLocs := [], lastIn := [], kept := false }
      match Dev.setPages { d with obj := { d.obj with ctxs := d.obj.ctxs.set c x }, ptc := { d.ptc with eCtx := d.ptc.eCtx.del c }, energy := d.energy.filter (fun kv => kv.1 / 16 % 65 != c) } c [] with
      | .ok d' => .ok d' cOk c 0
      | .need n => match d.makeRoom p n with
        | some d' => .retry d'
        | none => .ok d cOk 0xFF 0

/-- Teardown begins (09 R325, steps 1 and 2). -/
def Dev.teardown (d : Dev) (c : Nat) : Dev :=
  let d := d.updCtx c (fun x => { x with st := .teardown })
  let d := (d.cmdsOf c (fun k => !k.started)).foldl (fun (d : Dev) t => d.retire t.1 t.2 cContextLost) d
  d.failFences c

def cmdCtxDestroy (v : OPort) (d : Dev) : ObjRes :=
  argOk (fits v.arg0 8 && v.arg1 == 0 && v.arg2 == 0 && v.arg3 == 0) <|
  if 64 ≤ v.arg0.toNat then .ign 0x02 else
  match d.obj.ctxs.get? v.arg0.toNat with
  | none => .ign 0x03
  | some x => if x.st == .teardown then .ign 0x03 else .ok (d.teardown v.arg0.toNat) cOk 0 0

/-- Clears a cluster: registers, predicates, local memory, arrays, slices, VE_STATUS (02 R45, 04 R138, 06 R236). Sampled tiles that it
still holds are not compared (04 Table 4-8). -/
def Dev.clearCluster (d : Dev) (ck : Nat) : Dev :=
  let n := ((d.arrays.filter (fun kv => kv.1 / 4 = ck)).map (fun kv => kv.2.shadow.length)).foldl (· + ·) 0
  let d := if n = 0 then d else d.updTile (ckTile ck) (fun t => { t with mxa := { t.mxa with dropped := wrapAdd 32 t.mxa.dropped n } })
  let d : Dev := { d with stops := d.stops.filter (fun z => z.ck != ck) }
  let d := d.updCluster ck (fun c => { Cluster.clear with stretch := c.stretch })
  { d with plaits := d.plaits.filter (fun kv => pkCluster kv.1 != ck), groups := d.groups.filter (fun kv => kv.2.ck != ck),
           arrays := d.arrays.filter (fun kv => kv.1 / 4 != ck), slices := d.slices.filter (fun kv => kv.1 / 4 != ck) }

/-- Does a waling slot hold a memory object of a context (12 R396)? -/
def Dev.walingHolds (d : Dev) (c : Nat) : Bool :=
  d.rse.wgs.any (fun w => w.2.refs.any (fun m => ((d.obj.mobjs.get? m).map (fun o => o.home = c || o.maps.any (fun a => a.ctx = c))).getD false))

/-- Ends a teardown once its last command has retired (09 R325, step 4; R309). A context whose objects a waling slot holds stays in TEARDOWN with
its page tables until the slot is released (12 R396, 14 R455; log 107). -/
def Dev.endTeardown (d : Dev) (c : Nat) : Dev :=
  match d.obj.ctxs.get? c with
  | none => d
  | some x =>
    if x.st != .teardown || !(d.cmdsOf c (fun _ => true)).isEmpty then d else
    let d := ((d.obj.fences.filter (fun kv => kv.2.owner = c)).map (fun kv => kv.1)).foldl Dev.killFence d
    let d := { d with obj := { d.obj with queues := d.obj.queues.filter (fun kv => kv.2.ctx != c) } }
    let d := ((d.clusters.filter (fun kv => kv.2.ctx == some c)).map (fun kv => kv.1)).foldl Dev.clearCluster d
    let d := { d with saved := d.saved.filter (fun s => s.ctx != c) }
    if d.walingHolds c then d.updCtx c (fun x => { x with kept := true }) else
    let mapped := (d.obj.mobjs.filter (fun kv => kv.2.maps.any (fun a => a.ctx = c))).map (fun kv => kv.1)
    let owned := (d.obj.mobjs.filter (fun kv => kv.2.ownerRef && kv.2.home = c)).map (fun kv => kv.1)
    let d := mapped.foldl (fun d m => d.unmap c m) d
    let d := owned.foldl (fun d m => (d.updMobj m (fun o => { o with ownerRef := false })).dropDrv m) d
    let d : Dev := { d with obj := { d.obj with mobjs := d.obj.mobjs.mapV (fun _ m => if m.home = c then { m with orphan := true } else m) } }
    let d := (((d.obj.ctxs.get? c).map (fun x => x.ptLocs)).getD []).foldl Dev.freeSub d
    { d with obj := { d.obj with ctxs := d.obj.ctxs.del c }, mem := { d.mem with waiting := d.mem.waiting.filter (fun w => w.ctx != c) } }

/-! Queues (09 R314 to R319). -/

/-- A ring wholly within the carve-out share of one stack, below the steering region, which only the stack controllers use (08 R272, 09 R314). -/
def ringOk (a log2 : Nat) : Bool :=
  let n := 128 * 2 ^ min log2 16
  let s := stackPages * 65536
  a % n == 0 && decide (a / s < 16) && decide (0xBC0000000 ≤ a % s) && decide (a % s + n ≤ 0xBFC000000)

def cmdQCreate (v : OPort) (d : Dev) : ObjRes :=
  argOk (fits v.arg0 8 && fits v.arg1 52 && decide (6 ≤ v.arg2.toNat) && decide (v.arg2.toNat ≤ 16) && v.arg3 == 0) <|
  withCtx d v.arg0 fun c x =>
    if !ringOk v.arg1.toNat v.arg2.toNat then .ign 0x0D else
    let used := (d.obj.queues.filter (fun kv => kv.2.part = x.part)).length
    let q := firstFree d.obj.queues 1024 0
    if (d.sztE x.part 21).toNat ≤ used || 1024 ≤ q then .ok d cOk 0xFFFF 0
    else
      let u : Queue := ⟨if x.st == .active then .active else .stopped, x.part, v.arg2.toNat, c, 0, 0, 0, v.arg1.toNat, []⟩
      .ok { d with obj := { d.obj with queues := d.obj.queues.set q u } } cOk q 0

/-- Completes with ABORTED every command of a queue from QUEUED to READY (09 R319, Table 9-7). -/
def Dev.discardQueue (d : Dev) (q : Nat) : Dev :=
  match d.obj.queues.get? q with
  | none => d
  | some u => ((u.cmds.filter (fun kv => kv.2.st == .queued || kv.2.st == .waiting || kv.2.st == .ready)).map (fun kv => kv.1)).foldl
      (fun d i => d.retire q i cAborted) d

def cmdQDestroy (v : OPort) (d : Dev) : ObjRes :=
  argOk (fits v.arg0 16 && v.arg1 == 0 && v.arg2 == 0 && v.arg3 == 0) <|
  let q := v.arg0.toNat
  if 1024 ≤ q then .ign 0x02 else
  match d.obj.queues.get? q with
  | none => .ign 0x03
  | some u => if u.st == .destroying then .ign 0x03
    else .ok (((d.discardQueue q).updQueue q (fun u => { u with st := .destroying })).reapQueue q) cOk 0 0

def cmdQReserve (v : OPort) (d : Dev) : ObjRes :=
  argOk (fits v.arg0 16 && decide (1 ≤ v.arg1.toNat) && decide (v.arg1.toNat ≤ 256) && v.arg2 == 0 && v.arg3 == 0) <|
  withQueue d v.arg0 fun q u =>
    match d.obj.ctxs.get? u.ctx with
    | none => .ign 0x02
    | some x =>
      if x.st == .teardown || x.st == .lost then .ok d cContextLost 0 0
      else if u.st == .blocked then .ok d cBlocked 0 0
      else if (u.reserved - u.head).toNat + v.arg1.toNat ≤ 2 ^ u.log2 then
        .ok (d.updQueue q (fun u => { u with reserved := u.reserved + v.arg1.truncate 32 })) cOk u.reserved.toNat 0
      else .ok d cQueueFull 0 0

/-- Payload ranges (09 Table 9-6). -/
def payOk (c : Cmd) : Bool :=
  match c.opc with
  | 1 => decide (1 ≤ c.nRegs) && decide (1 ≤ c.strands) && decide (c.strands ≤ 2048) && decide (1 ≤ c.nGroups) && decide (c.nGroups ≤ 2 ^ 48)
      && decide (c.window ≤ 1572864) && c.window % 4096 == 0 && decide (c.argBytes ≤ 4096) && c.argBytes % 32 == 0
  | 3 => decide (32 ≤ c.pay 16 8) && decide (c.pay 16 8 ≤ 2 ^ 32)
  | _ => true

/-- Reserved payload bytes are zero (09 Table 9-5). -/
def payZero (c : Cmd) : Bool :=
  match c.opc with
  | 1 => c.pay 31 1 == 0 && c.pay 34 6 == 0
  | 2 => c.pay 8 32 == 0
  | 3 => c.pay 24 16 == 0
  | 4 => c.pay 8 32 == 0
  | _ => c.pay 0 40 == 0

/-- The cause that a committed entry fails with, zero for none (09 Table 9-6). -/
def Dev.commitCause (d : Dev) (u : Queue) (i : W32) (c : Cmd) : Nat :=
  let live (h : Nat) : Bool := match d.mobjLive h with
    | some m => m.part = u.part && m.maps.any (fun a => a.ctx = u.ctx)
    | none => false
  if !(decide ((i - u.head).toNat < (u.reserved - u.head).toNat) && (u.cmds.get? i.toNat).isNone) then 0x04
  else if !(decide (1 ≤ c.opc) && decide (c.opc ≤ 5) && bits c.ent 11 5 == 0 && decide (c.nobj ≤ 8) && bits c.ent 24 8 == 0
      && decide (c.cost < 2 ^ 40) && (List.range 8).all (fun k => decide (k < c.nobj) || c.objH k == 0) && payZero c) then 0x05
  else if !(c.objs.all live && c.objs.eraseDups.length == c.objs.length) then 0x05
  else if c.wait && !(match d.fenceLive c.waitFence with
      | some f => f.owner = u.ctx || (f.exported && f.part = u.part)
      | none => false) then 0x05
  else if c.signal && !(match d.fenceLive c.sigFence with
      | some f => f.owner = u.ctx
      | none => false) then 0x06
  else if !payOk c then 0x05 else 0

/-- The references a command takes when it is committed (09 R317). -/
def Dev.takeRefs (d : Dev) (c : Cmd) : Dev :=
  let d := c.objs.foldl (fun d h => d.updMobj (mobjSlot h) (fun o => { o with cmd := o.cmd + 1 })) d
  let d := if c.wait then d.updFence (fenceSlot c.waitFence) (fun f => { f with refs := f.refs + 1 }) else d
  if c.signal then d.updFence (fenceSlot c.sigFence) (fun f => { f with refs := f.refs + 1 }) else d

/-- COMMITTED moves past committed entries, with fuel. -/
def Queue.committing (u : Queue) : Nat → Queue
  | 0 => u
  | n + 1 => match u.cmds.get? u.committed.toNat with
    | some _ => Queue.committing { u with committed := u.committed + 1 } n
    | none => u

def Cmd.fresh (ent : BitVec 1024) : Cmd :=
  { ent := ent, st := .queued, code := 0, round := 0, opened := 0, closed := 0, carries := 0, charge := 0, cls := 0, stalled := false,
    stop := none, abortPorts := [], pins := [], args := [], groupsStarted := 0, groupsDone := 0, desc := [], hyper := [], seq := 0, unsummed := false }

/-- Commits up to n entries from index i; the number committed, and the failing cause and index if one fails (09 R316). An
entry that cannot be read loses the queue's context (15 R484). -/
def Dev.commitN (d : Dev) (q : Nat) : Nat → W32 → Nat → Dev × Nat × Option (Nat × W32)
  | 0, _, done => (d, done, none)
  | n + 1, i, done =>
    match d.obj.queues.get? q with
    | none => (d, done, none)
    | some u =>
      if d.badIn (u.entryAddr i.toNat) 128 then ((d.carveEvent (u.entryAddr i.toNat)).loseCtx u.ctx (some (65536, 0, cUncorrectable)) none, done, none) else
      let c := Cmd.fresh (BitVec.ofNat 1024 (leNat (d.dramRead (u.entryAddr i.toNat) 128)))
      let cause := d.commitCause u i c
      if cause != 0 then (d, done, some (cause, i))
      else
        let d := (d.takeRefs c).updQueue q (fun u => ({ u with cmds := u.cmds.set i.toNat c } : Queue).committing (u.cmds.length + 2))
        Dev.commitN d q n (i + 1) (done + 1)

/-- What is committed to a STOPPED queue runs no more: it completes with CONTEXT_LOST (09 R310, R311); what is committed to a queue being
destroyed is discarded (09 R319; log 104). -/
def Dev.stoppedCommit (d : Dev) (q : Nat) : Dev :=
  match d.obj.queues.get? q with
  | none => d
  | some u => if u.st == .destroying then d.discardQueue q else if u.st != .stopped then d else
    ((u.cmds.filter (fun kv => kv.2.st != .retired && !kv.2.started)).map (fun kv => kv.1)).foldl (fun d i => d.retire q i cContextLost) d

/-- Q_COMMIT: a failed check is counted once with the queue and index of the failing entry (09 R316, Table 9-13). -/
def cmdQCommit (port : Nat) (v : OPort) (d : Dev) : ObjRes :=
  argOk (fits v.arg0 16 && fits v.arg1 32 && decide (1 ≤ v.arg2.toNat) && decide (v.arg2.toNat ≤ 256) && v.arg3 == 0) <|
  withQueue d v.arg0 fun q u =>
    if ((d.obj.ctxs.get? u.ctx).map (fun x => x.st == .teardown)).getD true then .ign 0x02 else
    match d.commitN q v.arg2.toNat (v.arg1.truncate 32) 0 with
    | (d', n, none) => .ok (d'.stoppedCommit q) cOk n 0
    | (d', n, some (cause, i)) => .ok ((d'.ignore cause port (q * 2 ^ 32 + i.toNat)).stoppedCommit q) cOk n 0

def cmdQResume (v : OPort) (d : Dev) : ObjRes :=
  argOk (fits v.arg0 16 && fits v.arg1 1 && v.arg2 == 0 && v.arg3 == 0) <|
  withQueue d v.arg0 fun q u =>
    if u.st != .blocked then .ign 0x08
    else
      let d := if v.arg1 == 0 then d else d.discardQueue q
      .ok (d.updQueue q (fun u => { u with st := .active })) cOk 0 0

/-! Memory objects and the device allocator (09 R322 to R324). -/

/-- Bytes reserved for an object: its size rounded up to 64 KiB. -/
def resvBytes (size : Nat) : Nat := ceilDiv size 65536 * 65536
/-- 2 MiB pages of an object. -/
def objPages (size : Nat) : Nat := ceilDiv size (2 ^ 21)
def Dev.resvCtx (d : Dev) (c : Nat) : Nat := (d.obj.mobjs.map (fun kv => if kv.2.home = c then resvBytes kv.2.size else 0)).foldl (· + ·) 0
def Dev.resvPart (d : Dev) (p : Nat) : Nat := (d.obj.mobjs.map (fun kv => if kv.2.part = p then resvBytes kv.2.size else 0)).foldl (· + ·) 0

/-- No mapped page among n pages from page k. -/
def rangeFree (x : Ctx) (k n : Nat) : Bool := x.pages.all (fun kv => decide (kv.1 < k) || decide (k + n ≤ kv.1))

/-- The lowest free range of n pages at or above 2^40: after the start, after each mapped page in turn (09 R322). -/
def lowestRange (x : Ctx) (n : Nat) : Option Nat :=
  ((2 ^ 19 :: (x.pages.map (fun kv => kv.1 + 1)).filter (fun k => decide (2 ^ 19 ≤ k))).find? (fun k => rangeFree x k n && decide (k + n ≤ 2 ^ 35)))

/-- A given virtual address that R322 accepts: aligned, not low, clear of mappings. -/
def vaOk (x : Ctx) (va n : Nat) : Bool := va % 2 ^ 21 == 0 && decide (2 ^ 21 ≤ va) && decide (va / 2 ^ 21 + n ≤ 2 ^ 35) && rangeFree x (va / 2 ^ 21) n

/-- Maps n pages of object slot m from page k of a context. -/
def Dev.mapObj (d : Dev) (c m k n perm : Nat) : PtRes :=
  match d.obj.ctxs.get? c with
  | none => .ok d
  | some x =>
    let pages := (List.range n).foldl (fun t j => t.set (k + j) ⟨perm / 4 % 2 = 1, perm / 2 % 2 = 1, perm % 2 = 1, m, j⟩) x.pages
    match d.setPages c pages with
    | .ok d => .ok (d.updMobj m (fun o => { o with maps := ⟨c, k * 2 ^ 21, perm⟩ :: o.maps }))
    | .need j => .need j

/-- What the allocator answers: an object with its address, a refusal, or first a page-out for its page tables (08 R276). -/
inductive AllocRes where
  | ok (h va : Nat) (d : Dev)
  | no
  | wait (d : Dev)

/-- The allocator: an object of a size for a context at a page, or any when none is given (09 R306, R322). -/
def Dev.allocObj (d : Dev) (c size : Nat) (page : Option Nat) (perm : Nat) (ownerRef : Bool) : AllocRes :=
  match d.obj.ctxs.get? c with
  | none => .no
  | some x =>
    let n := objPages size
    let r := resvBytes size
    let used := (d.obj.mobjs.filter (fun kv => kv.2.part = x.part)).length
    let slot := firstFree d.obj.mobjs 1048576 0
    if (x.memLimit != 0 && decide (x.memLimit < d.resvCtx c + r))
        || decide ((d.sztE x.part 15).toNat + (d.sztE x.part 16).toNat < d.resvPart x.part + r)
        || decide ((d.sztE x.part 23).toNat ≤ used) || decide (1048576 ≤ slot) then .no
    else
      match page <|> lowestRange x n with
      | none => .no
      | some k =>
        let gen := d.obj.mobjGen.getD slot 1
        let o : MObj := { gen := gen, part := x.part, owner := c, size := size, va := k * 2 ^ 21, perm := perm, drv := 1, cmd := 0,
                          ownerRef := ownerRef, live := true, orphan := false, maps := [], subs := [], oldCode := [] }
        match Dev.mapObj { d with obj := { d.obj with mobjs := d.obj.mobjs.set slot o } } c slot k n perm with
        | .ok d => .ok (gen * 2 ^ 20 + slot) (k * 2 ^ 21) d
        | .need j => match d.makeRoom x.part j with
          | some d' => .wait d'
          | none => .no

def cmdMoCreate (v : OPort) (d : Dev) : ObjRes :=
  argOk (fits v.arg0 8 && decide (1 ≤ v.arg1.toNat) && decide (v.arg1.toNat ≤ 2 ^ 46) && fits v.arg3 3) <|
  withCtx d v.arg0 fun c x =>
    let n := objPages v.arg1.toNat
    if v.arg2 != 0 && !vaOk x v.arg2.toNat n then .ign 0x0D else
    match d.allocObj c v.arg1.toNat (if v.arg2 == 0 then none else some (v.arg2.toNat / 2 ^ 21)) v.arg3.toNat false with
    | .ok h va d' => .ok d' cOk h va
    | .no => .ok d cOk 0 0
    | .wait d' => .retry d'

def cmdMoRetain (v : OPort) (d : Dev) : ObjRes :=
  argOk (fits v.arg0 32 && v.arg1 == 0 && v.arg2 == 0 && v.arg3 == 0) <|
  withMobj d v.arg0 fun s m => if m.drv = 65535 then .ign 0x07 else .ok (d.updMobj s (fun o => { o with drv := o.drv + 1 })) cOk (m.drv + 1) 0

/-- A release of an object whose DRV_REFS is already 0 is out of range (09 R323); of any other dead handle, dead. -/
def cmdMoRelease (v : OPort) (d : Dev) : ObjRes :=
  argOk (fits v.arg0 32 && v.arg1 == 0 && v.arg2 == 0 && v.arg3 == 0) <|
  match d.obj.mobjs.get? (mobjSlot v.arg0.toNat) with
  | some m => if m.gen = mobjGenOf v.arg0.toNat then
      (if m.drv = 0 then .ign 0x07 else .ok (d.dropDrv (mobjSlot v.arg0.toNat)) cOk (m.drv - 1) 0) else .ign 0x02
  | none => .ign 0x02

def cmdMoMap (v : OPort) (d : Dev) : ObjRes :=
  argOk (fits v.arg0 32 && fits v.arg1 8 && fits v.arg3 3) <|
  withMobj d v.arg0 fun s m => withCtx d v.arg1 fun c x =>
    let n := objPages m.size
    let perm := v.arg3.toNat
    if x.part != m.part then .ign 0x02
    else if m.maps.any (fun a => a.ctx = c) || perm &&& m.perm != perm then .ign 0x07
    else if v.arg2 != 0 && !vaOk x v.arg2.toNat n then .ign 0x0D
    else match (if v.arg2 == 0 then lowestRange x n else some (v.arg2.toNat / 2 ^ 21)) with
      | none => .ok d cOk 0 0
      | some k => match d.mapObj c s k n perm with
        | .ok d' => .ok d' cOk 0 (k * 2 ^ 21)
        | .need j => match d.makeRoom m.part j with
          | some d' => .retry d'
          | none => .ok d cOk 0 0

def cmdMoUnmap (v : OPort) (d : Dev) : ObjRes :=
  argOk (fits v.arg0 32 && fits v.arg1 8 && v.arg2 == 0 && v.arg3 == 0) <|
  withMobj d v.arg0 fun s m => withCtx d v.arg1 fun c x =>
    if x.part != m.part then .ign 0x02
    else if m.maps.any (fun a => a.ctx = c) then .ok (d.unmap c s) cOk 0 0 else .ign 0x07

/-- MO_QUERY answers as long as the slot holds the object (09 R308, Table 9-8). -/
def cmdMoQuery (v : OPort) (d : Dev) : ObjRes :=
  argOk (fits v.arg0 32 && v.arg1 == 0 && v.arg2 == 0 && v.arg3 == 0) <|
  match d.obj.mobjs.get? (mobjSlot v.arg0.toNat) with
  | some m => if m.gen = mobjGenOf v.arg0.toNat then
      .ok d cOk ((fld 48 16 m.drv ||| fld 16 32 m.cmd ||| fld 15 1 (if m.ownerRef then 1 else 0) ||| fld 14 1 (if m.live then 1 else 0)
        ||| fld 11 3 m.perm ||| fld 0 6 m.owner).toNat) m.va else .ign 0x02
  | none => .ign 0x02

/-! Fences (09 R320, R321). -/

def cmdFCreate (v : OPort) (d : Dev) : ObjRes :=
  argOk (fits v.arg0 8 && v.arg2 == 0 && v.arg3 == 0) <|
  withCtx d v.arg0 fun c x =>
    let used := (d.obj.fences.filter (fun kv => kv.2.part = x.part)).length
    let s := firstFree d.obj.fences 16384 0
    if (d.sztE x.part 22).toNat ≤ used || 16384 ≤ s then .ok d cOk 0 0
    else
      let gen := d.obj.fenceGen.getD s 1
      .ok { d with obj := { d.obj with fences := d.obj.fences.set s ⟨gen, x.part, c, v.arg1, 0, false, false, 0⟩ } } cOk (gen * 2 ^ 14 + s) 0

/-- Was a fence handle that names no live fence issued before, so that its fence is already destroyed (09 R305, Table 9-10; log 73)? -/
def Dev.fenceIssued (d : Dev) (h : Nat) : Bool :=
  let cur := match d.obj.fences.get? (fenceSlot h) with
    | some f => f.gen + 1
    | none => d.obj.fenceGen.getD (fenceSlot h) 1
  decide (0 < fenceGenOf h) && decide (fenceGenOf h < cur)

def cmdFDestroy (v : OPort) (d : Dev) : ObjRes :=
  argOk (fits v.arg0 32 && v.arg1 == 0 && v.arg2 == 0 && v.arg3 == 0) <|
  withFence d v.arg0 (if d.fenceIssued v.arg0.toNat then 0x03 else 0x02) fun s _ => .ok (d.killFence s) cOk 0 0

def cmdFExport (v : OPort) (d : Dev) : ObjRes :=
  argOk (fits v.arg0 32 && fits v.arg1 1 && v.arg2 == 0 && v.arg3 == 0) <|
  withFence d v.arg0 0x02 fun s _ => .ok (d.updFence s (fun f => { f with exported := v.arg1 != 0 })) cOk 0 0

def cmdFSignal (v : OPort) (d : Dev) : ObjRes :=
  argOk (fits v.arg0 32 && fits v.arg1 8 && v.arg3 == 0) <|
  withFence d v.arg0 0x02 fun s f => withCtx d v.arg1 fun c x =>
    if x.st == .teardown || f.part != x.part then .ign 0x02
    else if f.owner != c then .ign 0x06
    else .ok (d.updFence s (fun f => f.signalled v.arg2)) cOk 0 0

def cmdFQuery (v : OPort) (d : Dev) : ObjRes :=
  argOk (fits v.arg0 32 && v.arg1 == 0 && v.arg2 == 0 && v.arg3 == 0) <|
  withFence d v.arg0 0x02 fun _ f =>
    .ok d cOk f.value.toNat ((fld 0 8 f.status ||| fld 8 1 (if f.exported then 1 else 0) ||| fld 16 6 f.owner ||| fld 32 32 f.refs).toNat)

/-- The commands that wait for a page-out are run again (08 R276). -/
def Dev.portsRetry (d : Dev) : Dev :=
  (List.range 16).foldl (fun (d : Dev) port =>
    let v := d.oport port
    let go (op : Nat) (body : OPort → Dev → ObjRes) : Dev := objCmd op body port 0 (d.setOport port { v with busy := false, retry := none })
    match v.retry with
    | some 0x01 => go 0x01 cmdCtxCreate
    | some 0x08 => go 0x08 cmdMoCreate
    | some 0x0B => go 0x0B cmdMoMap
    | _ => d) d

def execCtxCreate (p : Nat) (h : BitVec 56) (s : State) := onDev (objCmd 0x01 cmdCtxCreate p h) s
def execCtxDestroy (p : Nat) (h : BitVec 56) (s : State) := onDev (objCmd 0x02 cmdCtxDestroy p h) s
def execCtxTeardownComplete (c : Nat) (s : State) := onDev (fun d => d.endTeardown c) s
def execQCreate (p : Nat) (h : BitVec 56) (s : State) := onDev (objCmd 0x03 cmdQCreate p h) s
def execQDestroy (p : Nat) (h : BitVec 56) (s : State) := onDev (objCmd 0x04 cmdQDestroy p h) s
def execQReserve (p : Nat) (h : BitVec 56) (s : State) := onDev (objCmd 0x05 cmdQReserve p h) s
def execQCommit (p : Nat) (h : BitVec 56) (s : State) := onDev (objCmd 0x06 (cmdQCommit p) p h) s
def execQResume (p : Nat) (h : BitVec 56) (s : State) := onDev (objCmd 0x07 cmdQResume p h) s
def execMoCreate (p : Nat) (h : BitVec 56) (s : State) := onDev (objCmd 0x08 cmdMoCreate p h) s
def execMoRetain (p : Nat) (h : BitVec 56) (s : State) := onDev (objCmd 0x09 cmdMoRetain p h) s
def execMoRelease (p : Nat) (h : BitVec 56) (s : State) := onDev (objCmd 0x0A cmdMoRelease p h) s
def execMoMap (p : Nat) (h : BitVec 56) (s : State) := onDev (objCmd 0x0B cmdMoMap p h) s
def execMoUnmap (p : Nat) (h : BitVec 56) (s : State) := onDev (objCmd 0x0C cmdMoUnmap p h) s
def execMoQuery (p : Nat) (h : BitVec 56) (s : State) := onDev (objCmd 0x0D cmdMoQuery p h) s
def execFCreate (p : Nat) (h : BitVec 56) (s : State) := onDev (objCmd 0x0E cmdFCreate p h) s
def execFDestroy (p : Nat) (h : BitVec 56) (s : State) := onDev (objCmd 0x0F cmdFDestroy p h) s
def execFExport (p : Nat) (h : BitVec 56) (s : State) := onDev (objCmd 0x10 cmdFExport p h) s
def execFSignal (p : Nat) (h : BitVec 56) (s : State) := onDev (objCmd 0x11 cmdFSignal p h) s
def execFQuery (p : Nat) (h : BitVec 56) (s : State) := onDev (objCmd 0x12 cmdFQuery p h) s

/-- ACK: under the fence binding it clears the fault record and the memory fault; in the native binding it is ignored
and counted with cause 0x08 (09 R313, 08 R292). -/
def Dev.ackCtx (d : Dev) (c : Nat) (v : W64) : Dev :=
  match d.obj.ctxs.get? c with
  | none => d
  | some x =>
    if !v.getLsbD 0 then d
    else if x.compat then d.updCtx c (fun x => { x with fault := none, memFault := none })
    else d.ignore 0x08 0x10 (0x04002000 + 8 * c)
def execAck (c : Nat) (v : W64) (s : State) := onDev (fun d => d.ackCtx c v) s

/-! ALLOC and FREE (03 R132, R133; 09 R322, R323). -/

/-- ALLOC: the plait stalls until the allocator answers; without participants it does nothing. -/
def allocIns (e : Enc) (d : Dev) (_ : Nat) (p : Plait) : InsRes :=
  let m := p.parts e
  match lanes m with
  | [] => .done d p
  | k :: _ => .done d { p with stall := .alloc e.d.toNat (p.rd64 e.a.toNat k) m }

/-- The allocator answers a waiting plait: an address, or zero for a size of zero, beyond 2^46, or refused. While a sub-page is paged out for
its page tables it does not answer yet (08 R276). -/
def Dev.allocAnswer (d : Dev) (pk : Nat) : Dev :=
  match d.plaits.get? pk with
  | none => d
  | some p => match p.stall with
    | .alloc r size m =>
      let give (d : Dev) (va : Nat) : Dev := d.updPlait pk (fun p => { (p.eachW m r (fun _ => splitW true va)) with
        stall := .none, bad := p.bad.filter (fun b => !((b / 32 = r || b / 32 = r + 1) && m.getLsbD (b % 32))) })
      match (if size == 0 || decide (2 ^ 46 < size.toNat) then .no else d.allocObj p.ctx size.toNat none 6 true) with
      | .ok _ va d => give d va
      | .no => give d 0
      | .wait d => d
    | _ => d

/-- FREE drops the owner reference of an object its context allocated; another address is ignored and counted. -/
def freeIns (e : Enc) (d : Dev) (_ : Nat) (p : Plait) : InsRes :=
  match lanes (p.parts e) with
  | [] => .done d p
  | k :: _ =>
    let va := (p.rd64 e.a.toNat k).toNat
    match d.obj.mobjs.find? (fun kv => kv.2.va = va && kv.2.home = p.ctx && kv.2.ownerRef && kv.2.live) with
    | some (s, _) => .done ((d.updMobj s (fun o => { o with ownerRef := false })).dropDrv s) p
    | none => .done (d.ignore 0x07 0x11 va) p

def execAlloc (r : PlaitRef) (e : Enc) (s : State) := onDev (runIns 0x71 (allocIns e) r e) s
def execAllocatorAnswer (r : PlaitRef) (s : State) := onDev (fun d => d.allocAnswer (pkey r)) s
def execFree (r : PlaitRef) (e : Enc) (s : State) := onDev (runIns 0x72 (freeIns e) r e) s

end Sys2Proof.Machine
end

