-- ==== Sys2Proof/Machine/Place.lean ====
section
/-! DEFINITION. Work groups and plaits on clusters: starting, retiring, saving and restoring, the stop of a faulted
context elsewhere (02 R41 to R47, R56, R91). -/

namespace Sys2Proof.Machine

/-- Registers allocated to a plait of a LAUNCH (02 R43). -/
def Cmd.alloc (c : Cmd) : Nat := ceilDiv c.nRegs 8 * 8
/-- Plaits of its work groups. -/
def Cmd.nPlaits (c : Cmd) : Nat := ceilDiv c.strands 32
/-- Of these, on scheduler s (02 R42). -/
def onSched (n s : Nat) : Nat := ((List.range n).filter (fun i => i % 4 = s)).length

/-- A shape that fits on an empty cluster, with arguments that fit its window and an aligned entry (02 R44, 09 R315). -/
def Cmd.fits (c : Cmd) : Bool :=
  decide (onSched c.nPlaits 0 ≤ 16) && decide (onSched c.nPlaits 0 * c.alloc ≤ 1024) && decide (c.window ≤ 1572864)
  && decide (c.argBytes ≤ c.window) && c.entryVa % 8 == 0

/-- A cluster that a partition can use: on one of its tiles, enabled, the tile neither failed nor tripped. -/
def Dev.usable (d : Dev) (p tile cluster : Nat) : Bool :=
  (match d.parts.get? p with | some u => u.tiles.contains tile | none => false)
  && (d.tile tile).avail && !d.stopped tile && !(d.tile tile).spare.failed && (d.tile tile).spare.map.contains cluster

def Dev.plaitsOn (d : Dev) (ck : Nat) : Tbl Plait := d.plaits.filter (fun kv => pkCluster kv.1 = ck)
def Dev.groupsOn (d : Dev) (ck : Nat) : Tbl WGroup := d.groups.filter (fun kv => kv.2.ck = ck)

/-- Every scheduler has the slots and registers that the plaits of a group need. -/
def Dev.roomFor (d : Dev) (ck : Nat) (c : Cmd) : Bool :=
  (List.range 4).all (fun s =>
    let l := (d.plaitsOn ck).filter (fun kv => kv.1 / 16 % 4 = s)
    let n := onSched c.nPlaits s
    decide (l.length + n ≤ 16) && decide ((l.map (fun kv => kv.2.alloc)).foldl (· + ·) 0 + n * c.alloc ≤ 1024))

/-- The lowest position of a window of n bytes in a cluster: at the start or after a resident window (log 14). -/
def Dev.windowAt (d : Dev) (ck n : Nat) : Option Nat :=
  let l := d.groupsOn ck
  let free (b : Nat) : Bool := decide (b + n ≤ 1572864) && l.all (fun kv => decide (b + n ≤ kv.2.base) || decide (kv.2.base + kv.2.size ≤ b))
  ((0 :: l.map (fun kv => kv.2.base + kv.2.size)).filter free).foldl (fun m b => match m with | some x => some (min x b) | none => some b) none

/-- Mask of the launched strands of plait k of a group. -/
def launched (strands k : Nat) : W32 := maskOf (List.range (min 32 (strands - 32 * k)))

/-- Places the plaits of a group, each in the lowest free slot of its scheduler (02 R42, R46). -/
def Dev.placePlaits (d : Dev) (ck gk ctx q i num : Nat) (c : Cmd) : Dev :=
  (List.range c.nPlaits).foldl (fun (d : Dev) k =>
    let base := (ck * 4 + k % 4) * 16
    let pk := firstFree d.plaits 16 base
    let m := launched c.strands k
    d.setPlait pk { ctx := ctx, q := q, i := i, grp := num, gk := gk, num := k, alloc := c.alloc, regs := [], preds := [],
                    pc := BitVec.ofNat 64 c.entryVa, active := m, live := m, stack := [], tokens := 0, region := none, held := [], stall := .none, bad := [] }) d

/-- WORK_GROUP_START: the next work group of a running LAUNCH on a cluster of its partition. A cluster that passes to
another context is cleared first (02 R45). -/
def Dev.startGroup (d : Dev) (q i tile cluster : Nat) : Dev :=
  match d.obj.queues.get? q, d.cmd? q i with
  | some u, some c =>
    let ck := ckey tile cluster
    let d := d.endStops ck
    let k := d.cluster ck
    let mine := k.ctx == some u.ctx
    if c.opc != 1 || c.st != .running || c.stop.isSome || c.nGroups ≤ c.groupsStarted || !d.usable u.part tile cluster || k.saveReq
        || (!mine && !(d.plaitsOn ck).isEmpty) || !d.roomFor ck c then d else
    let d := if mine then d else (d.clearCluster ck).updCluster ck (fun k => { k with ctx := some u.ctx })
    match d.windowAt ck c.window with
    | none => d
    | some base =>
      let gk := firstFree d.groups 64 (ck * 64)
      let d := { d with groups := d.groups.set gk ⟨q, i, c.groupsStarted, ck, base, c.window, c.strands, []⟩ }
      let d := d.updCluster ck (fun k => { k.heal base c.args.length with clm := k.clm.writeN base c.args })
      let d := d.placePlaits ck gk u.ctx q i c.groupsStarted c
      d.updCmd q i (fun c => { c with groupsStarted := c.groupsStarted + 1 })
  | _, _ => d

/-- PLAIT_RETIRE: a plait without live strands and without pending tokens retires; barriers that wait for the live plaits
of its group are tried again (02 R80); the last plait of a group releases its window, the last group ends the LAUNCH, with the code of a
stop that has reached it (09 R311, R325). The last plait of the last group stays until the context's writes at lenders are acknowledged (02 R77). -/
def Dev.retirePlait (d : Dev) (pk : Nat) : Dev :=
  match d.plaits.get? pk with
  | none => d
  | some p =>
    let ends := ((d.cmd? p.q p.i).map (fun c => decide (c.nGroups ≤ c.groupsDone + 1))).getD false
      && (d.plaits.filter (fun kv => kv.2.gk = p.gk)).length = 1
    if p.live != 0 || p.tokens != 0 || d.stopped (pkTile pk) || (ends && d.farWrites p.ctx) then d else
    let d := { d with plaits := d.plaits.del pk }
    if (d.plaits.filter (fun kv => kv.2.gk = p.gk)).isEmpty then
      let d := ({ d with groups := d.groups.del p.gk } : Dev).updCmd p.q p.i (fun c => { c with groupsDone := c.groupsDone + 1 })
      let d := match d.cmd? p.q p.i with
        | some c => if c.nGroups ≤ c.groupsDone then d.retire p.q p.i (c.stop.getD cOk) else d
        | none => d
      d.reapStopped
    else ((d.groups.get? p.gk).map (fun g => g.bars.map (fun b => b.1))).getD [] |>.foldl (fun d n => d.tryBar p.gk n) d

/-- PLAIT_STATE_SAVE: once no token is pending on a cluster whose context is preempted, its state is saved and the
cluster is free (02 R47, 04 R138). -/
def Dev.saveState (d : Dev) (tile cluster : Nat) : Dev :=
  let ck := ckey tile cluster
  let d := d.endStops ck
  match (d.cluster ck).ctx with
  | none => d
  | some c =>
    if !(d.cluster ck).saveReq || d.stopped tile || (d.plaitsOn ck).any (fun kv => kv.2.tokens != 0) then d else
    let s : Saved := ⟨c, (d.cluster ck).clm, (d.cluster ck).badClm, d.plaitsOn ck, d.groupsOn ck,
      (d.arrays.filter (fun kv => kv.1 / 4 = ck)).map (fun kv => (kv.1, { kv.2 with shadow := [], packing := false, compared := false }))⟩
    Dev.clearCluster { d with saved := d.saved ++ [s] } ck

/-- PLAIT_STATE_RESTORE: the oldest saved state of a context of the tile's partition comes back on a free cluster. -/
def Dev.restoreState (d : Dev) (tile cluster : Nat) : Dev :=
  let ck := ckey tile cluster
  let d := d.endStops ck
  match d.saved.find? (fun s => d.usable (d.partOf s.ctx) tile cluster) with
  | none => d
  | some s =>
    if (d.cluster ck).saveReq || !(d.plaitsOn ck).isEmpty then d else
    let d := (d.clearCluster ck).updCluster ck (fun k => { k with ctx := some s.ctx, clm := s.clm, badClm := s.badClm })
    let d := s.plaits.foldl (fun (d : Dev) kv => d.setPlait (ck * 64 + kv.1 % 64) { kv.2 with gk := ck * 64 + kv.2.gk % 64 }) d
    let moved (g : WGroup) : WGroup := { g with ck := ck, bars := g.bars.mapV (fun _ b => { b with waiting := b.waiting.map (fun k => ck * 64 + k % 64) }) }
    let gs : Tbl WGroup := s.groups.foldl (fun (g : Tbl WGroup) kv => g.set (ck * 64 + kv.1 % 64) (moved kv.2)) d.groups
    let d : Dev := { d with groups := gs }
    let d := s.arrays.foldl (fun (d : Dev) kv => { d with arrays := d.arrays.set (ck * 4 + kv.1 % 4) kv.2 }) d
    { d with saved := d.saved.filter (fun z => z != s) }

/-- CLUSTER_STOP_ISSUE: the clusters of the partition stop issuing for a context that is lost, or for its commands that
are stopped; what they have there is discarded and the commands complete (02 R91, 09 R326). -/
def Dev.stopIssue (d : Dev) (c : Nat) : Dev :=
  let d := (d.stops.filter (fun z => z.ctx = c)).foldl Dev.endStop d
  let lost := ((d.obj.ctxs.get? c).map (fun x => x.st == .lost)).getD true
  let f (c' q i : Nat) : Bool := c' = c && (lost || ((d.cmd? q i).map (fun k => k.stop.isSome || k.st == .retired)).getD true)
  let d := d.discard f (fun _ => true)
  let keep (z : Saved) : Saved :=
    if z.ctx = c then { z with plaits := z.plaits.filter (fun kv => !f c kv.2.q kv.2.i), groups := z.groups.filter (fun kv => !f c kv.2.q kv.2.i) } else z
  Dev.reapStopped { d with saved := (d.saved.map keep).filter (fun z => !z.plaits.isEmpty || z.ctx != c) }

def execClusterStopIssue (c : Nat) (s : State) := onDev (fun d => d.stopIssue c) s
def execWorkGroupStart (q i tile cluster : Nat) (s : State) := onDev (fun d => d.startGroup q i tile cluster) s
def execPlaitRetire (p : PlaitRef) (s : State) := onDev (fun d => d.retirePlait (pkey p)) s
def execPlaitStateSave (tile cluster : Nat) (s : State) := onDev (fun d => d.saveState tile cluster) s
def execPlaitStateRestore (tile cluster : Nat) (s : State) := onDev (fun d => d.restoreState tile cluster) s

end Sys2Proof.Machine
end

