-- ==== Sys2Proof/Machine/Loss.lean ====
section
/-! DEFINITION. The loss-scale controller (07 R239 to R249): gates, latches, the decision of a tick, the publish record. -/

namespace Sys2Proof.Machine

def Lsc.en (l : Lsc) : Bool := l.ctrl.getLsbD 0
def Lsc.defer (l : Lsc) : Bool := l.ctrl.getLsbD 1
/-- Signed byte of a control word. -/
def sbyte (w : W64) (lo : Nat) : Int := (w.extractLsb' lo 8).toInt
def Lsc.kinit (l : Lsc) : Int := sbyte l.ctrl 40
def Lsc.kmax (l : Lsc) : Int := sbyte l.ctrl 32
def Lsc.kmin (l : Lsc) : Int := sbyte l.ctrl 24

/-- The restart state of 07 Table 7-1 with the control word of the overlay record. -/
def Lsc.start (ctrl : W64) : Lsc :=
  { ctrl := ctrl, ctrlHeld := ctrl, k := sbyte ctrl 40, jitLeft := 16, clean := 0, step := 0, history := 0, late := 0, floorHits := 0,
    disagree := 0, pubMissed := 0, gated := false, latched := false, pending := false, reports := 0, used := 0, dr := false, decisions := [],
    stateHi := none, stateLo := none, stepHeld := none, pubVa := 0, pubEn := false, pubCtx := 0 }

/-- One gate evaluation in the current round (07 R241, R245); with EN clear every gate passes. -/
def Lsc.gateNow (l : Lsc) : Bool × Lsc :=
  if l.latched then (l.en && l.dr, { l with gated := true })
  else (l.en && l.pending, { l with latched := true, dr := l.pending, pending := false, used := l.reports, gated := true })

/-- The gate of an update command whose round opened at a tick: an earlier round gives its decision, or without one the
command gates in the current round (07 R245). -/
def Lsc.gate (l : Lsc) (now opened : Nat) : Bool × Lsc :=
  if opened = now then l.gateNow else match l.decisions.get? opened with
    | some f => (l.en && f, l)
    | none => l.gateNow

/-- The flag that a flag-carrying collective of a round carries as it finishes: D_r once it has latched or its tick has decided it, else PENDING
(07 R241, R242; 11 R386). -/
def Lsc.carried (l : Lsc) (now opened : Nat) : Bool :=
  let here := if l.latched then l.dr else l.pending
  if opened = now then here else (l.decisions.get? opened).getD here

/-- A group result compared with a latched flag (07 R242). -/
def Lsc.compare (l : Lsc) (dr res : Bool) : Lsc := if dr == res then l else { l with disagree := satAdd 0xFF l.disagree 1 }

/-- A flag-carrying collective of a round finishes with the group's OR in the current round (07 R241, R242); flags raised
since PENDING was sampled, when `upto` had been raised, go back to it (11 R386). -/
def Lsc.collect (l : Lsc) (now opened upto : Nat) (res : Bool) : Lsc :=
  let here : Lsc := if l.latched then l.compare l.dr res else
    { l with latched := true, dr := res, used := max l.used upto, pending := decide (max l.used upto < l.reports) }
  if opened = now then here else match l.decisions.get? opened with
    | some f => l.compare f res
    | none => here

/-- The decision at the tick that ends the round opened at `now` (07 R243), then restores (R249), then the control word
written since the last tick comes into force. With EN clear the scale is held (log 34). -/
def Lsc.tick (l : Lsc) (now : Nat) : Lsc :=
  let decided := l.latched || !l.defer
  let flag := if l.latched then l.dr else if l.defer then false else l.pending
  let f := flag && l.en
  let c1 := l.clean + 1
  let up := decide (Lsc.cleanRun l.ctrl ≤ c1)
  let k := if !decided || !l.en then l.k else if f then max (l.k - 1) l.kmin else if up then min (l.k + 1) l.kmax else l.k
  let clean := if !decided || !l.en then l.clean else if f then 0 else if up then 0 else c1
  let l' : Lsc := { l with
    k := k, clean := clean,
    floorHits := if decided && f && l.k == l.kmin then satAdd 0xFFFF l.floorHits 1 else l.floorHits,
    step := if decided && l.gated && !f then l.step + 1 else l.step,
    pending := if l.latched || l.defer then l.pending else false,
    used := if l.latched || l.defer then l.used else l.reports,
    history := (l.history <<< 1) ||| bit1 64 (decided && f),
    jitLeft := l.jitLeft - 1,
    decisions := if decided then l.decisions.set now flag else l.decisions,
    latched := false, gated := false, dr := false }
  let l' : Lsc := match l'.stateHi with
    | some w => { l' with k := (w.extractLsb' 24 8).toInt, jitLeft := bits w 16 8, stateHi := none }
    | none => l'
  let l' : Lsc := match l'.stateLo with
    | some w => { l' with clean := bits w 0 16, stateLo := none }
    | none => l'
  let l' : Lsc := match l'.stepHeld with
    | some w => { l' with step := w, stepHeld := none }
    | none => l'
  { l' with ctrl := l.ctrlHeld }

/-- The publish record (07 Table 7-3) for the round about to start. -/
def Lsc.record (l : Lsc) (index : W64) (flagged decided : Bool) : List W8 :=
  leBytes 8 index.toNat ++ leBytes 8 l.step.toNat ++ leBytes 4 (pow2f l.k).toNat ++ [BitVec.ofInt 8 l.k]
    ++ leBytes 1 ((if flagged then 1 else 0) + (if decided then 2 else 0) + (if l.jitLeft != 0 then 4 else 0))
    ++ leBytes 1 l.jitLeft ++ leBytes 1 0 ++ leBytes 4 l.clean ++ leBytes 4 0

/-- Writes the publish record through the page tables of the named context, or counts that it was not written (07 R248); a page on its way is
written when it is there (log 100). -/
def Dev.publish (d : Dev) (p : Nat) (index : W64) (decided : Bool) : Dev :=
  match d.parts.get? p with
  | none => d
  | some u =>
    if !u.lsc.pubEn then d else
    let miss : Dev := d.updLsc p (fun l => { l with pubMissed := satAdd 31 l.pubMissed 1 })
    match d.obj.ctxs.get? u.lsc.pubCtx with
    | none => miss
    | some x =>
      if x.st != .active || x.part != p then miss else
      match d.prepare u.lsc.pubCtx u.lead .store (spansOf u.lsc.pubVa.toNat 32) with
      | .fault _ _ _ => miss
      | _ => d.engStore u.lsc.pubCtx u.lead u.lsc.pubVa.toNat (u.lsc.record index (u.lsc.history.getLsbD 0) decided)

/-- The controller's part of a tick: the decision, and the record for the round with the given index. -/
def Dev.lscTick (d : Dev) (p : Nat) (index : W64) : Dev :=
  match d.parts.get? p with
  | none => d
  | some u =>
    let decided := u.lsc.latched || !u.lsc.defer
    (d.updLsc p (fun l => l.tick u.rnd.opened)).publish p index decided

end Sys2Proof.Machine
end

