-- ==== Sys2Proof/Machine/RseOps.lean ====
section
/-! DEFINITION. Shared operations of the resilience engine (12): the shard, the log and holding
rings. -/

namespace Sys2Proof.Machine

/-- Number of parity units of a stripe. -/
def Wg.np (w : Wg) : Nat := if w.parity then 2 else 1
/-- W of 12 R407. -/
def Wg.width (w : Wg) : Nat := ceilDiv w.shardUnits (w.size - w.np)
/-- Number of stripes. -/
def Wg.stripes (w : Wg) : Nat := w.size * w.width

def Wg.regionVa (r : W64) : Nat := bits r 20 44 * 2 ^ 20
def Wg.regionMib (r : W64) : Nat := bits r 1 19
def Wg.regionEn (r : W64) : Bool := r.getLsbD 0
/-- Enabled regions in ascending number, as (virtual address, MiB). -/
def Wg.regs (w : Wg) : List (Nat × Nat) := (w.regions.filter (fun kv => Wg.regionEn kv.2)).map (fun kv => (Wg.regionVa kv.2, Wg.regionMib kv.2))
/-- Units that the regions hold. -/
def Wg.units (w : Wg) : Nat := (w.regs.map (fun r => r.2)).foldl (· + ·) 0
/-- Virtual address of unit u of the shard (12 R394). -/
def unitVa : List (Nat × Nat) → Nat → Option Nat
  | [], _ => none
  | (va, n) :: t, u => if u < n then some (va + u * 2 ^ 20) else unitVa t (u - n)
/-- Do regions, given as (virtual address, MiB), cover the bytes from a position to an end, with fuel? -/
def covered (l : List (Nat × Nat)) : Nat → Nat → Nat → Bool
  | 0, va, e => decide (e ≤ va)
  | n + 1, va, e => decide (e ≤ va) || match l.find? (fun r => decide (r.1 ≤ va) && decide (va < r.1 + r.2 * 2 ^ 20)) with
    | some r => covered l n (r.1 + r.2 * 2 ^ 20) e
    | none => false
/-- Does a range lie wholly inside the protected regions (12 R397)? -/
def Wg.inRegion (w : Wg) (va n : Nat) : Bool := covered w.regs (w.regs.length + 1) va (va + n)

def Wg.ringVa (x : W64) : Nat := bits x 20 44 * 2 ^ 20
def Wg.ringBytes (x : W64) : Nat := bits x 0 20 * 2 ^ 30
def Wg.inputVa (w : Wg) : Nat := bits w.input 17 47 * 2 ^ 17
def Wg.inputLen (w : Wg) : Nat := bits w.input 0 17

/-- Ranks that are neither LOST nor REBUILDING. -/
def Wg.healthy (w : Wg) : List Nat := (List.range w.size).filter (fun r => !w.lostMask.getLsbD r && !w.rebuildMask.getLsbD r)
/-- The leader (12 R401). -/
def Wg.leader (w : Wg) : Nat := w.healthy.headD 0
/-- Rank of a member by module and partition. -/
def Dev.rankOf (d : Dev) (w : Wg) (m p : Nat) : Option Nat :=
  (List.range w.size).find? (fun r => memMod (d.member w r) = m && memPart (d.member w r) = p)

/-! Rings (12 R410 to R413). An entry that reaches the end of its ring goes on at its start (log 35). -/

/-- Writes bytes into a ring from a running position, cut where the ring wraps. -/
def Dev.ringWrite (d : Dev) (c t va size pos : Nat) (l : List W8) : Dev :=
  let o := pos % size
  let n := size - o
  let d := d.engStore c t (va + o) (l.take n)
  if l.length ≤ n then d else d.engStore c t va (l.drop n)

/-- Does a read of a ring meet an uncorrectable error? -/
def Dev.ringBad (d : Dev) (c va size pos n : Nat) : Bool :=
  let o := pos % size
  let k := min n (size - o)
  d.vbad c (va + o) k || d.vbad c va (n - k)

def Dev.ringRead (d : Dev) (c va size pos n : Nat) : List W8 :=
  let o := pos % size
  let k := min n (size - o)
  d.vreadNew c (va + o) k ++ d.vreadNew c va (n - k)

/-- Bytes of a ring in use. -/
def usedBytes (l : List LogEnt) : Nat := (l.map (fun e => e.len)).foldl (· + ·) 0

/-- Room of two ROUND entries (12 R413). -/
def roundRoom : Nat := 2 * (64 + 65536)

def pad32 (l : List W8) : List W8 := l ++ List.replicate (ceilDiv l.length 32 * 32 - l.length) 0

/-- Header fields of a log entry (12 Table 12-1). -/
structure LogHdr where
  ty : Nat
  flags : Nat
  round : Nat
  step : Nat
  eta : W32
  beta : W32
  lambda : W32
  k : Int

def LogHdr.bytes (h : LogHdr) (len seq crc : Nat) : List W8 :=
  leBytes 1 h.ty ++ leBytes 1 h.flags ++ leBytes 2 0 ++ leBytes 4 len ++ leBytes 8 h.round ++ leBytes 8 seq ++ leBytes 8 h.step
    ++ leBytes 4 h.eta.toNat ++ leBytes 4 h.beta.toNat ++ leBytes 4 h.lambda.toNat ++ [BitVec.ofInt 8 h.k] ++ leBytes 3 0
    ++ leBytes 4 crc ++ leBytes 12 0

/-- Packets of at most 256 data flits that carry a byte list. -/
def cutData : Nat → List W8 → List (List W8)
  | 0, _ => []
  | n + 1, l => if l.isEmpty then [] else l.take 65536 :: cutData n (l.drop 65536)

/-- Ranks that hold this member's log (12 R412). -/
def Wg.holders (w : Wg) : List Nat := (List.range w.np).map (fun k => (w.rank + 1 + k) % w.size)

/-- Appends an entry to the log ring of the slot of partition p and ships it to its holders (12 R410 to R412). -/
def Dev.logAppend (d : Dev) (p : Nat) (h : LogHdr) (body : List W8) : Dev :=
  let w := d.wg p
  let body := pad32 body
  let len := 64 + body.length
  let e0 := h.bytes len w.logSeq 0 ++ body
  let e := h.bytes len w.logSeq (crc32 e0).toNat ++ body
  let t := ((d.parts.get? p).map Part.lead).getD 0
  let d := d.ringWrite w.context t (Wg.ringVa w.log) (Wg.ringBytes w.log) w.logPos e
  let d := d.updWg p (fun w => { w with logPos := w.logPos + len, logSeq := w.logSeq + 1,
                                        logEnts := w.logEnts ++ [⟨w.logSeq, h.round, h.ty, w.logPos, len, []⟩] })
  let d : Dev := if h.flags % 2 = 1 then { d with rse := { d.rse with unprotected := satAdd 0xFFFF d.rse.unprotected 1 } } else d
  (w.holders.filter (fun r => !w.lostMask.getLsbD r)).foldl (fun (d : Dev) r =>
    (cutData (e.length / 65536 + 2) e).foldl (fun (d : Dev) x => d.sendRank p w r 0x38 [(1, w.rank), (8, w.logSeq)] x) d) d

/-- Does the log ring have room for an entry with a body of n bytes, beside two ROUND entries and the bytes that dispatched commands have yet
to append (12 R413)? -/
def Wg.logRoom (w : Wg) (promised n : Nat) : Bool :=
  decide (usedBytes w.logEnts + promised + roundRoom + 64 + ceilDiv n 32 * 32 ≤ Wg.ringBytes w.log)

/-- LOG_FILL in percent (12 Table 12-8). -/
def Wg.logFill (w : Wg) : Nat := if Wg.ringBytes w.log = 0 then 0 else min 100 (100 * usedBytes w.logEnts / Wg.ringBytes w.log)

/-- Is a write of a command admitted in a round one of the frozen snapshot's round or earlier (12 R402)? -/
def Dev.oldWrite (d : Dev) (p round : Nat) : Bool :=
  match (d.wg p).snap with
  | some s => s.frozen && decide (round ≤ s.round)
  | none => false

/-- A protected sub-page that had no settled place at the freeze has one now: no write reached it since, so it is its SNAP copy (12 R401). -/
def Dev.snapLate (d : Dev) (p : Nat) (o : Nat × Nat) : Dev :=
  d.updWg p (fun w => match w.snap with
    | some s => if s.frozen && w.prot.contains o && !w.snapAt.any (fun e => e.1 = o) then { w with snapAt := w.snapAt ++ [(o, (d.osub o).loc)] } else w
    | none => w)

/-- A copy that is neither LIVE, SNAP nor BASE goes back to the pair pool (12 R400, R404, R405). -/
def Dev.dropCopy (d : Dev) (p : Nat) (o : Nat × Nat) (loc : Nat) : Dev :=
  let w := d.wg p
  if (d.osub o).loc = loc || w.base.contains (o, loc) || w.snapAt.contains (o, loc) then d
  else (d.freeSub loc).updWg p (fun w => { w with poolLeft := w.poolLeft + 1 })

/-! Stripes and the parity area (12 R407, R409). -/

/-- Ranks that hold the P and the Q parity of a stripe; Q has none with single parity. -/
def Wg.pRank (w : Wg) (s : Nat) : Nat := s % w.size
def Wg.qRank (w : Wg) (s : Nat) : Option Nat := if w.parity then some ((s + 1) % w.size) else none
/-- Data members of a stripe in ascending rank. -/
def Wg.dataRanks (w : Wg) (s : Nat) : List Nat := (List.range w.size).filter (fun r => r != w.pRank s && w.qRank s != some r)
/-- Data index of a rank in a stripe. -/
def Wg.dataIdx (w : Wg) (s r : Nat) : Nat := ((w.dataRanks s).findIdx? (fun k => k == r)).getD 0
/-- Unit of a data member's shard that stands in a stripe. -/
def Wg.unitOf (w : Wg) (s r : Nat) : Nat :=
  s / w.size * (w.size - w.np) + ((List.range (s % w.size)).filter (fun t => (w.dataRanks t).contains r)).length
/-- Address of the parity unit that this member holds of a stripe, on a side: P units first, in ascending stripe, then Q units (log 43). -/
def Wg.parityAt (w : Wg) (side s : Nat) (q : Bool) : Nat :=
  Wg.ringVa w.parityVa + ((side * w.np + (if q then 1 else 0)) * w.width + s / w.size) * 2 ^ 20
/-- Does this member hold parity of a stripe, and is it Q? -/
def Wg.holds (w : Wg) (s : Nat) : Option Bool := if w.pRank s = w.rank then some false else if w.qRank s = some w.rank then some true else none

/-- Fills the sub-pages of a range that have local backing with zeros. -/
def Dev.zeroArea (d : Dev) (c va n : Nat) : Dev :=
  match d.obj.ctxs.get? c with
  | none => d
  | some x => (List.range (n / 65536)).foldl (fun (d : Dev) k =>
    let s := d.sub x (va / 65536 + k)
    if s.st == .local then d.zeroSub s.loc else d) d

/-- A snapshot of round r is agreed at this member: the SNAP side of its parity area starts from zeros (12 R401, R403). -/
def Dev.snapBegin (d : Dev) (p r : Nat) : Dev :=
  let w := d.wg p
  (d.zeroArea w.context (w.parityAt (1 - w.side) 0 false) (w.np * w.width * 2 ^ 20)).updWg p
    (fun w => { w with snap := some ⟨r, false, false, [], [], false, []⟩ })

/-- A snapshot is aborted: SNAP copies that nothing shares are freed, its parity is discarded (12 R405). -/
def Dev.snapDiscard (d : Dev) (p : Nat) : Dev :=
  let w := d.wg p
  match w.snap with
  | none => d
  | some _ =>
    let d := d.updWg p (fun w => { w with snap := none, snapAt := [], st := if w.st = 2 then 1 else w.st })
    let d := w.snapAt.foldl (fun (d : Dev) e => d.dropCopy p e.1 e.2) d
    { d with rse := { d.rse with aborted := satAdd 0xFFFF d.rse.aborted 1 } }

end Sys2Proof.Machine
end

