-- ==== Sys2Proof/Machine/Update.lean ====
section
/-! DEFINITION. Update commands (07 R245 to R267): validation, operands, the sign-momentum rule, embedding rows, block
preconditioning, completion. -/

namespace Sys2Proof.Machine

/-- Descriptor bytes lo to lo + n - 1 as a number (07 Table 7-5). -/
def ud (desc : List W8) (lo n : Nat) : Nat := leNat ((desc.drop lo).take n)
/-- Bits of UCTRL (07 Table 7-6). -/
def uc (desc : List W8) (lo len : Nat) : Nat := ud desc 0 8 / 2 ^ lo % 2 ^ len

def uStat (x : List W8) : Bool := uc x 35 1 = 1
def uLog (x : List W8) : Bool := uc x 34 1 = 1
def uPre (x : List W8) : Bool := uc x 25 1 = 1
def uTrk (x : List W8) : Bool := uc x 24 1 = 1
def uPg (x : List W8) : Bool := uc x 13 1 = 1
def uGsrc (x : List W8) : Bool := uc x 2 1 = 1
def uEmb (x : List W8) : Bool := uc x 0 2 = 1
def uW (x : List W8) : Nat := ud x 0x08 8
def uM (x : List W8) : Nat := ud x 0x10 8
def uG (x : List W8) : Nat := ud x 0x18 8
def uSsc (x : List W8) : Nat := ud x 0x20 8
def uRow (x : List W8) : Nat := ud x 0x28 8
def uIdx (x : List W8) : Nat := ud x 0x30 8
def uPreVa (x : List W8) : Nat := ud x 0x38 8
def uStatVa (x : List W8) : Nat := ud x 0x40 8
def uCount (x : List W8) : Nat := ud x 0x48 8
def uRows (x : List W8) : Nat := ud x 0x50 8
def uRowLen (x : List W8) : Nat := ud x 0x74 4
def uWsize (x : List W8) : Nat := if uc x 4 3 = 0 then 4 else 2
def uMfmt (x : List W8) : Nat := uc x 7 3
def uMsize (x : List W8) : Nat := if uMfmt x = 0 then 4 else if uMfmt x = 2 then 2 else 1
def uGsize (x : List W8) : Nat := if uc x 10 3 = 0 then 4 else 2
def uF (x : List W8) (lo : Nat) : W32 := BitVec.ofNat 32 (ud x lo 4)
/-- Elements that the command covers. -/
def uElems (x : List W8) : Nat := if uEmb x then uCount x * uRowLen x else uCount x
/-- Elements of the whole tensor or table. -/
def uAll (x : List W8) : Nat := if uEmb x then uRows x * uRowLen x else uCount x

/-- An FP32 word that is +0 or positive and finite. -/
def posOrZero (x : W32) : Bool := x == 0 || (!(dec32 x).neg && (dec32 x).isFin && !(dec32 x).isZero)
/-- An FP32 word in [0, 1); the sign of a zero is not asked. -/
def unitRange (x : W32) : Bool := (dec32 x).isFin && decide (0 ≤ cmpV (dec32 x) (.fin false 0 1)) && decide (cmpV (dec32 x) (.fin false 1 1) < 0)

/-- Checks of a descriptor without its pages: the code, zero for none, and the first misaligned address (07 R265, R266). -/
def updCheck (x : List W8) (va : Nat) (int8 : Bool) : Nat × Nat :=
  let g := !uGsrc x
  let bad :=
    uc x 36 28 != 0 || ud x 0x84 4 != 0 || decide (2 ≤ uc x 0 2) || !(uc x 4 3 = 0 || uc x 4 3 = 2) || !(uMfmt x = 0 || uMfmt x = 2 || uMfmt x = 7)
    || uc x 20 2 = 3 || uc x 22 2 = 3 || (g && decide (3 ≤ uc x 10 3)) || (uMfmt x = 7 && !int8) || uCount x = 0
    || (uEmb x && (uRowLen x = 0 || uRowLen x % 32 != 0 || uRows x = 0))
    || (uPre x && (if uEmb x then uRowLen x % 16 != 0 else uCount x % 16 != 0))
    || (uPre x && (!(dec32 (uF x 0x7C)).isFin || decide (cmpV (dec32 (uF x 0x7C)) (.fin false 0 1) < 0) || !unitRange (uF x 0x80)))
    || (g && ((dec32 (uF x 0x78)).isNan || decide (cmpV (dec32 (uF x 0x78)) (.fin false 0 1) < 0)))
  let used : List Nat := [va, uW x, uM x, uG x] ++ (if uEmb x then [uRow x, uIdx x] else []) ++ (if uPre x then [uPreVa x] else []) ++ (if uStat x then [uStatVa x] else [])
  if bad then (cIllegal, 0)
  else match used.find? (fun a => a % 32 != 0) with
    | some a => (cMisaligned, a)
    | none => (0, 0)

/-- Where byte a of an operand lies: a replayed operand goes on at the start of its log ring, given as (address, bytes), zero bytes for
none (12 R418; log 35). -/
def ringAddr (ring : Nat × Nat) (a : Nat) : Nat := if ring.2 != 0 && decide (ring.1 + ring.2 ≤ a) then a - ring.2 else a

/-- Entries of the index list. -/
def Dev.updIdx (d : Dev) (c : Nat) (x : List W8) (ring : Nat × Nat) : List Nat :=
  if uEmb x then (List.range (uCount x)).map (fun p => leNat (d.vread c (ringAddr ring (uIdx x + 4 * p)) 4)) else []

/-- Operand ranges of n elements from element i with gradient offset g (07 R254, R265). -/
def updRange (x : List W8) (i g n : Nat) : List Rng :=
  rngRw (uW x + i * uWsize x) (n * uWsize x) ++ rngRw (uM x + i * uMsize x) (n * uMsize x)
    ++ (if uGsrc x then rngOf .load (uG x + g / 4) (ceilDiv (2 * n) 8) else rngOf .load (uG x + g * uGsize x) (n * uGsize x))
    ++ rngOf .load (uSsc x + i / 32) (ceilDiv n 32) ++ (if uTrk x then rngOf .store (uSsc x + i / 32) (ceilDiv n 32) else [])
    ++ (if uPre x then rngRw (uPreVa x + 1152 * (i / 16)) (1152 * (n / 16)) else [])

/-- Every operand range of a command. -/
def Dev.updRanges (d : Dev) (c : Nat) (x : List W8) : List Rng :=
  (if uEmb x then
    let idx := (d.updIdx c x (0, 0)).zipIdx
    rngOf .load (uIdx x) (4 * uCount x)
      ++ (idx.filter (fun r => decide (r.1 < uRows x))).flatMap (fun r =>
        updRange x (r.1 * uRowLen x) (r.2 * uRowLen x) (uRowLen x) ++ rngRw (uRow x + 8 * r.1) 8)
  else updRange x 0 0 (uCount x)) ++ (if uStat x then rngOf .store (uStatVa x) 32 else [])

/-! The rule of a block. -/

/-- What a command's blocks are updated with: descriptor, η, β, λ, step t, round of the generator keys. -/
structure UpdCtx where
  x : List W8
  eta : W32
  beta : W32
  lam : W32
  t : Nat
  round : W64
  ring : Nat × Nat

def signV : Int → FVal
  | 0 => .fin false 0 1
  | Int.ofNat _ => .fin false 1 1
  | Int.negSucc _ => .fin true 1 1

def updRnd (m : Nat) (seed round : W64) (tensor : W32) (e : W64) : Rnd :=
  match m with
  | 0 => .rne
  | 1 => .rtz
  | _ => .sto (gen seed round tensor e)

/-- powi of 07 R259. -/
def powi (x : W32) (n : Nat) : W32 :=
  (List.range 64).foldl (fun p k =>
    let p := fmul32 p p
    if n / 2 ^ (63 - k) % 2 = 1 then fmul32 p x else p) one32

/-- Weight and momentum of an element as FP32. -/
def decW (x : List W8) (b : Nat) : W32 := if uWsize x = 4 then BitVec.ofNat 32 b else BitVec.ofNat 32 (b * 65536)
def decM (x : List W8) (b : Nat) : W32 :=
  if uMfmt x = 7 then rne32 (mulV (decodeC 7 b) (dec32 0x3C010204#32)) else if uMfmt x = 0 then BitVec.ofNat 32 b else BitVec.ofNat 32 (b * 65536)

/-- The sign of gradient element k, and whether it is counted in NONFINITE (07 R256, R264). -/
def Dev.gradSign (d : Dev) (c : Nat) (x : List W8) (ring : Nat × Nat) (k : Nat) : Int × Bool :=
  if uGsrc x then
    match bits (d.vbyte c (ringAddr ring (uG x + k / 4))) (2 * (k % 4)) 2 with
    | 0 => (0, false)
    | 1 => (1, false)
    | 3 => (-1, false)
    | _ => (0, true)
  else
    let v := decodeC (uc x 10 3) (leNat (d.vread c (uG x + k * uGsize x) (uGsize x)))
    (tsign v (dec32 (uF x 0x78)), !v.isFin)

/-- Preconditioner state of 16 elements. -/
structure PreSt where
  g : List W32
  l : List W32
  last : Nat
  valid : Bool

/-- Word of a packed lower triangle. -/
def tri (i j : Nat) : Nat := i * (i + 1) / 2 + j
def PreSt.at (l : List W32) (i j : Nat) : W32 := l.getD (tri i j) 0

def words (l : List W8) : List W32 := (List.range (l.length / 4)).map (fun k => BitVec.ofNat 32 (leNat ((l.drop (4 * k)).take 4)))

def PreSt.of (b : List W8) : PreSt :=
  ⟨words (b.take 544), words ((b.drop 544).take 544), leNat ((b.drop 1088).take 8), leNat ((b.drop 1096).take 4) % 2 = 1⟩
def PreSt.bytes (p : PreSt) : List W8 :=
  p.g.flatMap (fun v => leBytes 4 v.toNat) ++ p.l.flatMap (fun v => leBytes 4 v.toNat) ++ leBytes 8 p.last ++ leBytes 4 (if p.valid then 1 else 0) ++ leBytes 52 0

/-- Column j of the factorisation; a pivot that is not positive stops it (07 R261, R262). -/
def PreSt.column (eps : W32) (p : PreSt) (j : Nat) : PreSt :=
  if !p.valid then p else
  let acc := (List.range j).foldl (fun a k => ffma32 (fneg32 (PreSt.at p.l j k)) (PreSt.at p.l j k) a) (fadd32 (PreSt.at p.g j j) eps)
  if !(decide (0 < cmpV (dec32 acc) (.fin false 0 1)) && !(dec32 acc).isNan) then { p with valid := false } else
  let lj := fsqrtB acc
  let rj := frcpB lj
  let l := p.l.set (tri j j) lj
  let l := ((List.range 16).filter (fun i => decide (j < i))).foldl (fun l i =>
    let a := (List.range j).foldl (fun a k => ffma32 (fneg32 (PreSt.at l i k)) (PreSt.at l j k) a) (PreSt.at p.g i j)
    l.set (tri i j) (fmul32 a rj)) l
  { p with l := l }

/-- The solve with the factor: y, then u (07 R261). -/
def PreSt.solve (l : List W32) (s : List Int) : List W32 :=
  let y := (List.range 16).foldl (fun y i =>
    let a := (List.range i).foldl (fun a k => ffma32 (fneg32 (PreSt.at l i k)) (y.getD k 0) a) (rne32 (signV (s.getD i 0)))
    y ++ [fmul32 a (frcpB (PreSt.at l i i))]) []
  ((List.range 16).map (fun k => 15 - k)).foldl (fun u i =>
    let a := ((List.range 16).filter (fun k => decide (i < k))).foldl (fun a k => ffma32 (fneg32 (PreSt.at l k i)) (u.getD k 0) a) (y.getD i 0)
    u.set i (fmul32 a (frcpB (PreSt.at l i i)))) (List.replicate 16 0)

/-- One step of a preconditioner block: its new state, the signs used, whether it refreshed, whether it fell back. -/
def PreSt.step (x : List W8) (t : Nat) (p : PreSt) (s : List Int) : PreSt × List Int × Bool × Bool :=
  let b2 := uF x 0x80
  let omb2 := fadd32 one32 (fneg32 b2)
  let g := (List.range 16).flatMap (fun i => (List.range (i + 1)).map (fun j =>
    rne32 (addV (mulV (dec32 b2) (dec32 (PreSt.at p.g i j))) (mulV (mulV (dec32 omb2) (signV (s.getD i 0))) (signV (s.getD j 0))))))
  let fresh := !p.valid || decide ((p.last : Int) + (uc x 26 8 + 1 : Nat) ≤ (t : Int))
  let p : PreSt := { p with g := g }
  let p := if fresh then (List.range 16).foldl (PreSt.column (uF x 0x7C)) { p with last := t, valid := true } else p
  if p.valid then (p, (PreSt.solve p.l s).map (fun u => tsign (dec32 u) (.fin false 0 1)), fresh, false) else (p, s, fresh, true)

/-- What one block gives: writes, elements counted in NONFINITE, refreshes, fallbacks, raw signs, elements written. -/
structure BlkRes where
  wr : List (Nat × List W8)
  nonfin : Nat
  refreshes : Nat
  fallbacks : Nat
  signs : List Int
  updated : Nat

/-- The step-scale byte after an update (07 R258). -/
def trackByte (bb : W8) (ws : List Nat) (wf : Nat) : W8 :=
  match ((ws.map (fun b => decodeC wf b)).filter (fun v => v.isFin && !v.isZero)).foldl (fun m v => maxV m v.abs) (.fin false 0 1) with
  | .fin _ n dd => if n = 0 then bb else BitVec.ofNat 8 (min 254 (max 0 (127 + floorLog2 n dd)).toNat)
  | _ => bb

/-- Block of n elements from element i (offset in the tensor), with gradient offset g; Δ > 0 decays it first (07 R257 to R262). -/
def Dev.block (d : Dev) (c : Nat) (u : UpdCtx) (i n g delta : Nat) : BlkRes :=
  let x := u.x
  let bb := d.vbyte c (uSsc x + i / 32)
  let gs := (List.range n).map (fun k => d.gradSign c x u.ring (g + k))
  let s := gs.map (fun v => v.1)
  if bb = 0xFF then ⟨[], n, 0, 0, s, 0⟩ else
  let a := rne32 ((dec32 u.eta).shift ((bb.toNat : Int) - 127))
  let dd := fmul32 a u.lam
  let omb := fadd32 one32 (fneg32 u.beta)
  let pres := if uPre x then (List.range (n / 16)).map (fun k =>
    (uPreVa x + 1152 * (i / 16 + k), PreSt.step x u.t (PreSt.of (d.vread c (uPreVa x + 1152 * (i / 16 + k)) 1152)) ((s.drop (16 * k)).take 16))) else []
  let s2 := if uPre x then pres.flatMap (fun r => r.2.2.1) else s
  let qw := powi (fadd32 one32 (fneg32 dd)) delta
  let qm := powi u.beta delta
  let wf := uc x 4 3
  let el := (List.range n).map (fun k =>
    let e := BitVec.ofNat 64 (ud x 0x68 8 + i + k)
    let w := decW x (leNat (d.vread c (uW x + (i + k) * uWsize x) (uWsize x)))
    let m := decM x (leNat (d.vread c (uM x + (i + k) * uMsize x) (uMsize x)))
    let w := if delta = 0 then w else fmul32 w qw
    let m := if delta = 0 then m else fmul32 m qm
    let m1 := rne32 (addV (mulV (dec32 u.beta) (dec32 m)) (mulV (dec32 omb) (signV (s2.getD k 0))))
    let w1 := ffma32 (fneg32 dd) w w
    let w2 := rne32 (addV (dec32 w1) (mulV (dec32 a) (signV (tsign (dec32 m1) (.fin false 0 1)))).negate)
    let seed := BitVec.ofNat 64 (ud x 0x60 8)
    let tid := BitVec.ofNat 32 (ud x 0x70 4)
    let wb := convertV wf (updRnd (uc x 20 2) seed u.round tid e) (dec32 w2)
    let mv := if uMfmt x = 7 then mulV (dec32 m1) (.fin false 127 1) else dec32 m1
    (wb, convertV (uMfmt x) (updRnd (uc x 22 2) (seed ^^^ 0x4000000000000000#64) u.round tid e) mv))
  { wr := [(uW x + i * uWsize x, el.flatMap (fun r => leBytes (uWsize x) r.1)), (uM x + i * uMsize x, el.flatMap (fun r => leBytes (uMsize x) r.2))]
      ++ pres.map (fun r => (r.1, r.2.1.bytes))
      ++ (if uTrk x then [(uSsc x + i / 32, [trackByte bb (el.map (fun r => r.1)) wf])] else []),
    nonfin := (gs.filter (fun v => v.2)).length,
    refreshes := (pres.filter (fun r => r.2.2.2.1)).length, fallbacks := (pres.filter (fun r => r.2.2.2.2)).length,
    signs := s, updated := n }

/-! The whole command. -/

/-- A block of a command: its index-list entry, element offset, size, gradient offset, Δ. -/
structure UBlk where
  ent : Nat
  i : Nat
  n : Nat
  g : Nat
  delta : Nat
  deriving DecidableEq

/-- An index-list entry: its row, whether it is out of range, a duplicate, stale, and Δ. -/
structure UEnt where
  row : Nat
  bad : Bool
  dup : Bool
  stale : Bool
  delta : Nat

/-- Entries of the index list classified in order (07 R259). -/
def Dev.updEnts (d : Dev) (c : Nat) (x : List W8) (ring : Nat × Nat) (t : Nat) : List UEnt :=
  (((d.updIdx c x ring).foldl (fun (r : List UEnt × List Nat) row =>
    if uRows x ≤ row then (⟨row, true, false, false, 0⟩ :: r.1, r.2)
    else if r.2.contains row then (⟨row, false, true, false, 0⟩ :: r.1, r.2)
    else
      let last := leNat (d.vread c (uRow x + 8 * row) 8)
      (⟨row, false, false, decide (t ≤ last), if last < t then t - 1 - last else 0⟩ :: r.1, row :: r.2)) ([], [])).1).reverse

/-- Blocks of a command in ascending element order. -/
def updBlocks (x : List W8) (ents : List UEnt) : List UBlk :=
  if uEmb x then (ents.zipIdx.filter (fun e => !e.1.bad && !e.1.dup)).flatMap (fun e =>
    (List.range (uRowLen x / 32)).map (fun b => ⟨e.2, e.1.row * uRowLen x + 32 * b, 32, e.2 * uRowLen x + 32 * b, e.1.delta⟩))
  else (List.range (ceilDiv (uCount x) 32)).map (fun b => ⟨0, 32 * b, min 32 (uCount x - 32 * b), 32 * b, 0⟩)

/-- The update engine of a block: the stack that holds its weights, the lead tile's first one where nothing backs them (07 R246). -/
def Dev.ueOf (d : Dev) (c : Nat) (x : List W8) (lead i : Nat) : Nat :=
  match d.obj.ctxs.get? c with
  | none => 2 * lead
  | some k => match d.phys k (uW x + i * uWsize x) with
    | some a => a / 65536 / stackPages
    | none => 2 * lead

/-- First address of a block's operands that an uncorrectable error makes unreadable. -/
def Dev.blkBad (d : Dev) (c : Nat) (x : List W8) (b : UBlk) : Option Nat :=
  let l : List (Nat × Nat) := [(uW x + b.i * uWsize x, b.n * uWsize x), (uM x + b.i * uMsize x, b.n * uMsize x),
    (if uGsrc x then (uG x + b.g / 4, ceilDiv (2 * b.n) 8) else (uG x + b.g * uGsize x, b.n * uGsize x)), (uSsc x + b.i / 32, 1)]
    ++ (if uPre x then [(uPreVa x + 1152 * (b.i / 16), 1152 * (b.n / 16))] else [])
    ++ (if uEmb x then [(uRow x + 8 * (b.i / uRowLen x), 8)] else [])
  l.findSome? (fun r => if d.vbad c r.1 r.2 then some r.1 else none)

/-- Counts at the update engines of a tile. -/
def Dev.updUe (d : Dev) (t : Nat) (f : UeRegs → UeRegs) : Dev := d.updTile t (fun k => { k with ue := f k.ue })

/-- Totals of a command's blocks. -/
structure UpdTot where
  nonfin : Nat
  fallbacks : Nat
  updated : Nat
  signs : List (Nat × List Int)

/-- Applies blocks in order, each engine no more than its limit (07 R246, R247). -/
def Dev.applyBlocks (d : Dev) (c : Nat) (u : UpdCtx) (old : Bool) (lead : Nat) (limit : Nat → Option Nat) (bs : List UBlk) : Dev × UpdTot × List UBlk :=
  let r := bs.foldl (fun (r : Dev × UpdTot × List UBlk × Tbl Nat) b =>
    let e := r.1.ueOf c u.x lead b.i
    let n := r.2.2.2.getD e 0
    if (match limit e with | some k => decide (k ≤ n) | none => false) then r else
    let v := r.1.block c u b.i b.n b.g b.delta
    let d := Dev.spend (e / 2) c 11 v.updated (r.1.engLoads c (e / 2) (updRange u.x b.i b.g b.n))
    let d := v.wr.foldl (fun (d : Dev) w => d.engWriteAs old c (e / 2) w.1 w.2) d
    let d := d.updUe (e / 2) (fun k => { k with
      done := wrapAdd 64 k.done v.updated, nonfinite := wrapAdd 32 k.nonfinite v.nonfin,
      refreshes := wrapAdd 32 k.refreshes v.refreshes, fallback := wrapAdd 32 k.fallback v.fallbacks })
    (d, ⟨r.2.1.nonfin + v.nonfin, r.2.1.fallbacks + v.fallbacks, r.2.1.updated + v.updated, (b.g, v.signs) :: r.2.1.signs⟩, b :: r.2.2.1, r.2.2.2.set e (n + 1)))
    (d, ⟨0, 0, 0, []⟩, [], [])
  (r.1, r.2.1, r.2.2.1)

/-- Step counts of rows wholly updated, and the counts of entries (07 R259). -/
def Dev.rowCounts (d : Dev) (c : Nat) (u : UpdCtx) (old : Bool) (lead : Nat) (ents : List UEnt) (done_ : List UBlk) : Dev :=
  if !uEmb u.x then d else
  ents.zipIdx.foldl (fun (d : Dev) e =>
    if e.1.bad then d.updUe lead (fun k => { k with badRows := satAdd 0xFFFF k.badRows 1 })
    else if e.1.dup then d.updUe lead (fun k => { k with dupRows := satAdd 0xFFFF k.dupRows 1 })
    else if (done_.filter (fun b => b.ent = e.2)).length < uRowLen u.x / 32 then d
    else if e.1.stale then d.updUe (d.ueOf c u.x lead (e.1.row * uRowLen u.x) / 2) (fun k => { k with staleRows := wrapAdd 32 k.staleRows 1 })
    else d.engWriteAs old c lead (uRow u.x + 8 * e.1.row) (leBytes 8 u.t)) d

/-- Packs signs two bits each, little-endian (07 R263). -/
def packSigns : List Int → Nat
  | [] => 0
  | s :: t => (if s = 0 then 0 else if s = 1 then 1 else 3) + 4 * packSigns t

/-- The sign stream: the raw signs by gradient offset, zero for skipped entries. -/
def signStream (x : List W8) (l : List (Nat × List Int)) : List W8 :=
  let n := uElems x
  let v := l.foldl (fun (a : Nat) r => a + packSigns r.2 * 4 ^ r.1) 0
  leBytes (ceilDiv (2 * n) 8) v

/-- The status record of 07 Table 7-7. -/
def updStatus (skipped : Bool) (t : Nat) (o : UpdTot) (dup bad : Nat) : List W8 :=
  if skipped then leBytes 1 1 ++ leBytes 23 0 ++ leBytes 8 t
  else leBytes 1 (if o.fallbacks = 0 then 0 else 2) ++ leBytes 3 0 ++ leBytes 4 o.nonfin ++ leBytes 8 o.updated ++ leBytes 4 o.fallbacks
    ++ leBytes 2 (min 0xFFFF dup) ++ leBytes 2 (min 0xFFFF bad) ++ leBytes 8 t

/-- Does a protected range fall outside the regions (12 R397)? -/
def Wg.unprot (w : Wg) (x : List W8) : Bool :=
  let n := uAll x
  !(w.inRegion (uW x) (n * uWsize x) && w.inRegion (uM x) (n * uMsize x) && w.inRegion (uSsc x) (ceilDiv n 32)
    && (!uEmb x || w.inRegion (uRow x) (8 * uRows x)) && (!uPre x || w.inRegion (uPreVa x) (1152 * (n / 16))))

/-- Hyperparameters and step kept with a dispatched command: η, β, λ, and t in two words (07 R255). -/
def Cmd.updCtx (k : Cmd) : UpdCtx :=
  { x := k.desc, eta := k.hyper.getD 0 0, beta := k.hyper.getD 1 0, lam := k.hyper.getD 2 0,
    t := (k.hyper.getD 3 0).toNat + 2 ^ 32 * (k.hyper.getD 4 0).toNat,
    round := if uc k.desc 3 1 = 1 then BitVec.ofNat 64 (ud k.desc 0x88 8) else BitVec.ofNat 64 k.round, ring := (0, 0) }

/-- Log entry of an update command (12 R410). -/
def Dev.logUpd (d : Dev) (p : Nat) (k : Cmd) (ty : Nat) (body : List W8) : Dev :=
  let w := d.wg p
  if !w.armed || d.ctxLost w.context then d else
  let u := k.updCtx
  d.logAppend p { ty := ty, flags := if w.unprot k.desc then 1 else 0, round := k.round, step := u.t, eta := u.eta, beta := u.beta, lambda := u.lam, k := 0 }
    (k.desc ++ leBytes 16 0 ++ body)

/-- The fault record of an update command (07 R266); before any block has been read, its engine is that of the first block (log 75). -/
def updFault (d : Dev) (va : Nat) (desc : List W8) (eng code : Nat) (addr : W64) : FaultRec :=
  { code := code, more := false, tile := eng / 2, cluster := 0xFE, sched := eng % 2, slot := 0, pc := BitVec.ofNat 64 va, mask := 0, addr := addr,
    ins := BitVec.ofNat 64 (ud desc 0 8), ext := BitVec.ofNat 64 (ud desc 8 8), time := d.clk.now, suppressed := 0 }

/-- Bytes of an update command's log entry after its header (12 R410). -/
def uLogBytes (x : List W8) : Nat := 0xA0 + (if uEmb x then 4 * uCount x else 0) + ceilDiv (2 * uElems x) 8

/-- Bytes of the log ring that applied commands of a partition have yet to append (12 R413). -/
def Dev.logPromised (d : Dev) (p : Nat) : Nat :=
  ((d.obj.queues.filter (fun u => u.2.part = p)).flatMap (fun u => u.2.cmds.map (fun kv =>
    if kv.2.st == .running && kv.2.opc = 2 && uLog kv.2.desc then 64 + ceilDiv (uLogBytes kv.2.desc) 32 * 32 else 0))).foldl (· + ·) 0

/-- Dispatch of an UPDATE command: its checks, its pins, the descriptor's first, the room of the log ring, its gate (07 R245, R265; 08 R290;
12 R413). -/
def Dev.updDispatch (d : Dev) (q i : Nat) : Dev :=
  match d.obj.queues.get? q, d.cmd? q i with
  | some qu, some k =>
    let c := qu.ctx
    match d.parts.get? qu.part with
    | none => d
    | some u =>
      let va := k.pay 0 8
      let fail (d : Dev) (desc : List W8) (code : Nat) (a : W64) (m : Option MemFault) : Dev :=
        d.faultCmd c q i (updFault d va desc (if desc.isEmpty then 2 * u.lead else d.ueOf c desc u.lead 0) code a) m none
      let page (store : Bool) (cs : Nat) (a : W64) : Option MemFault := some ⟨false, store, cs, a⟩
      let bad (d : Dev) (desc : List W8) (a n : Nat) (pins : List (Nat × Nat)) : Dev :=
        fail ((d.metBad c a n).updCmd q i (fun k => { k with pins := pins })) desc cUncorrectable (BitVec.ofNat 64 a) none
      match d.pinAll c u.lead (rngOf .load va 0x90) with
      | .wait d => d
      | .fault w cs a => fail d [] cPage a (page w cs a)
      | .ok d1 pins1 =>
        let failP (d : Dev) (desc : List W8) (code : Nat) (a : W64) (m : Option MemFault) : Dev :=
          fail (d.updCmd q i (fun k => { k with pins := pins1 })) desc code a m
        match d1.engWaits c u.lead (rngOf .load va 0x90) with
        | some d => d.unpin pins1
        | none =>
        let d1 := d1.engLoads c u.lead (rngOf .load va 0x90)
        if d1.vbad c va 0x90 then bad d1 [] va 0x90 pins1 else
        let x := d1.vread c va 0x90
        let e := updCheck x va (d1.fmtOk qu.part 7)
        if e.1 != 0 then failP d1 x e.1 (BitVec.ofNat 64 e.2) none else
        match (if uEmb x then d1.prepare c u.lead .load (spansOf (uIdx x) (4 * uCount x)) else .ok d1) with
        | .stall d => d.unpin pins1
        | .fault cs _ a => failP d1 x cPage a (page false cs a)
        | .ok d1 =>
          if uEmb x && d1.vbad c (uIdx x) (4 * uCount x) then bad d1 x (uIdx x) (4 * uCount x) pins1 else
          match d1.pinAll c u.lead (d1.updRanges c x) with
          | .wait d => d.unpin pins1
          | .fault w cs a => failP d1 x cPage a (page w cs a)
          | .ok d' pins2 =>
            let pins := pins1 ++ pins2
            let w := d.wg qu.part
            if uLog x && w.armed && !w.logRoom (d.logPromised qu.part) (uLogBytes x) then
              if k.stalled then d else (d.updWg qu.part (fun w => { w with logStalls := satAdd 0xFFFF w.logStalls 1 })).updCmd q i (fun k => { k with stalled := true })
            else match (if uStat x then d'.engWaits c u.lead (rngOf .store (uStatVa x) 32) else none) with
            | some d => d.unpin pins
            | none =>
              let g := u.lsc.gate u.rnd.opened k.opened
              let d := d'.updLsc qu.part (fun _ => g.2)
              let t := if ud x 0x58 8 = 0 then u.lsc.step.toNat + 1 else ud x 0x58 8
              let gp := u.upd.groups.getD (uc x 14 6) UpdGroup.reset
              let h := (if uPg x then [gp.eta, gp.beta, gp.lambda] else k.hyper.take 3) ++ [BitVec.ofNat 32 t, BitVec.ofNat 32 (t / 2 ^ 32)]
              let d := d.updCmd q i (fun k => { k with st := .running, pins := pins, desc := x, hyper := h })
              let k := { k with desc := x, hyper := h }
              if g.1 then
                if uStat x && d.vbadPartial c (uStatVa x) 32 then bad d x (uStatVa x) 32 pins else
                let d := if uStat x then d.engWriteAs (d.oldWrite qu.part k.round) c u.lead (uStatVa x) (updStatus true t ⟨0, 0, 0, []⟩ 0 0) else d
                let d := if uLog x then d.logUpd qu.part k 3 [] else d
                (d.updUe u.lead (fun e => { e with skipped := wrapAdd 32 e.skipped 1 })).retire q i cOk
              else d
  | _, _ => d

/-- Engines that a dispatched update command uses, in a device that has pinned its operands. -/
def Dev.uesOf (d : Dev) (c lead : Nat) (k : Cmd) : List Nat :=
  let u := k.updCtx
  ((updBlocks u.x (if uEmb u.x then d.updEnts c u.x u.ring u.t else [])).map (fun b => d.ueOf c u.x lead b.i)).eraseDups

/-- Does an engine that a command uses still have to apply a command dispatched before it (07 R246)? -/
def Dev.updBehind (d : Dev) (p lead c : Nat) (k : Cmd) : Bool :=
  let mine := d.uesOf c lead k
  d.obj.queues.any (fun u => u.2.part = p && u.2.cmds.any (fun kv =>
    kv.2.opc = 2 && kv.2.st == .running && decide (kv.2.seq < k.seq) && (d.uesOf u.2.ctx lead kv.2).any mine.contains))

/-- UPDATE_COMPLETE: the engines have applied the blocks, those of commands dispatched before it first; while a write must wait for its
sub-pages nothing is applied yet (08 R292, R299); one that was stopped has applied a number of blocks on each engine
that the spec leaves open, and so has one that met an uncorrectable error, up to the block that read it (07 R247, R265). -/
def Dev.updComplete (d : Dev) (q i : Nat) : Dev :=
  match d.obj.queues.get? q, d.cmd? q i with
  | some qu, some k =>
    if k.opc != 2 || k.st != .running || (k.stop.isNone && (((d.parts.get? qu.part).map (fun u => u.tiles)).getD []).any d.ueStopped) then d else
    let c := qu.ctx
    let u := k.updCtx
    let x := u.x
    let old := d.oldWrite qu.part k.round
    let lead := ((d.parts.get? qu.part).map Part.lead).getD 0
    if d.updBehind qu.part lead c k then d else
    match d.engWaits c lead (d.updRanges c x) with
    | some d' => d'
    | none =>
    let ents := if uEmb x then d.updEnts c x u.ring u.t else []
    let bs := updBlocks x ents
    let badAt := bs.findSome? (fun b => (d.blkBad c x b).map (fun a => (b, a)))
    let fr (e : Nat) : Nat := (Config.free (d.clk.free + e)).toNat % (bs.length + 1)
    let before (e : Nat) : Option Nat :=
      let mine := bs.filter (fun b => d.ueOf c x lead b.i = e)
      if mine.any (fun b => (d.blkBad c x b).isSome) then some (mine.takeWhile (fun b => (d.blkBad c x b).isNone)).length else none
    let limit (e : Nat) : Option Nat :=
      if k.stop.isSome then some (min (fr e) ((before e).getD bs.length))
      else if badAt.isSome then some ((before e).getD (fr e)) else none
    let d0 : Dev := if k.stop.isSome || badAt.isSome then { d with clk := { d.clk with free := d.clk.free + 16 } } else d
    let r := d0.applyBlocks c u old lead limit bs
    let d := r.1.rowCounts c u old lead ents r.2.2
    match k.stop, badAt with
    | some code, _ => d.retire q i code
    | none, some (b, a) =>
      (d.metBad c a 1).faultCmd c q i (updFault d (k.pay 0 8) x (d.ueOf c x lead b.i) cUncorrectable (BitVec.ofNat 64 a)) none none |>.retire q i cUncorrectable
    | none, none =>
      if uStat x && d.vbadPartial c (uStatVa x) 32 then
        (d.faultCmd c q i (updFault d (k.pay 0 8) x (d.ueOf c x lead 0) cUncorrectable (BitVec.ofNat 64 (uStatVa x))) none none).retire q i cUncorrectable
      else
      let d := if uStat x then d.engWriteAs old c lead (uStatVa x)
          (updStatus false u.t r.2.1 (ents.filter (fun e => e.dup)).length (ents.filter (fun e => e.bad)).length) else d
      let d := if uLog x then d.logUpd qu.part k 2 ((if uEmb x then d.vread c (uIdx x) (4 * uCount x) else []) ++ signStream x r.2.1.signs) else d
      d.retire q i cOk
  | _, _ => d

end Sys2Proof.Machine
end

