-- ==== Sys2Proof/Machine/Coll.lean ====
section
/-! DEFINITION. The collective engine (11 R378 to R391): descriptors, the order of combination, chunks, completion, restarts. -/

namespace Sys2Proof.Machine

/-! Fields of CCTRL (11 Table 11-7). -/
def ccStat (w : W64) : Bool := w.getLsbD 15
def ccSurvive (w : W64) : Bool := w.getLsbD 14
def ccFlag (w : W64) : Bool := w.getLsbD 13
def ccAcc32 (w : W64) : Bool := w.getLsbD 12
def ccDfmt (w : W64) : Nat := bits w 10 2
def ccRop (w : W64) : Nat := bits w 7 3
def ccAlgo (w : W64) : Nat := bits w 5 2
def ccOpc (w : W64) : Nat := bits w 0 4

/-- Bytes of an element in memory, and of a partial in the accumulation format. -/
def ccElem (w : W64) : Nat := if ccDfmt w = 0 || ccDfmt w = 3 then 4 else 2
def ccAcc (w : W64) : Nat := if ccAcc32 w then 4 else ccElem w
/-- Accumulation format; INT32 is apart. -/
def ccFmt (w : W64) : Fmt := if ccAcc32 w || ccDfmt w = 0 then fp32 else if ccDfmt w = 1 then fp16 else bf16

/-- Bytes read at SRC by a member; only the root of a BROADCAST contributes (11 R380, R384). -/
def srcBytes (w : W64) (root : Bool) (count : Nat) : Nat :=
  if ccOpc w = 4 || (ccOpc w = 3 && !root) then 0 else if ccOpc w = 0 || ccOpc w = 1 then count * ccElem w else count
/-- Bytes written at DST by participant me of n (11 R380, R384). -/
def dstBytes (w : W64) (count n me : Nat) : Nat :=
  let q := ceilDiv count (2 * n)
  match ccOpc w with
  | 0 => count * ccElem w
  | 1 => (min (2 * me * q + 2 * q) count - 2 * me * q) * ccElem w
  | 2 => n * count
  | 3 => count
  | _ => 0
/-- Size of an element of SRC and DST, to which they are aligned (11 R381). -/
def ccAlign (w : W64) : Nat := if ccOpc w = 2 || ccOpc w = 3 then 1 else ccElem w

/-- An element of DFMT in the accumulation format: exact (11 R383). -/
def toAcc (w : W64) (b : Nat) : Nat := if ccAcc32 w then arith fp32 .rne (decodeC (ccDfmt w) b) else b

/-- add_acc of 11 R383. -/
def addAcc (w : W64) (a b : Nat) : Nat :=
  let int := ccDfmt w = 3
  let sa := (BitVec.ofNat 32 a).toInt
  let sb := (BitVec.ofNat 32 b).toInt
  match ccRop w with
  | 2 => if int then (if sa < sb then b else a) else fmaxB (ccFmt w) a b
  | 3 => if int then (if sb < sa then b else a) else fminB (ccFmt w) a b
  | _ => if int then (a + b) % 2 ^ 32 else faddB (ccFmt w) .rne a b

/-- A combined element finished into DFMT over n participants (11 R384). -/
def finAcc (w : W64) (n a : Nat) : Nat :=
  let v := if ccRop w = 1 then arith (ccFmt w) .rne (divV (decodeF (ccFmt w) a) (.fin false n 1)) else a
  if ccAcc32 w then convertV (ccDfmt w) .rne (decodeF fp32 v) else v

/-- One half of a step: where to send which elements, from whom to take which, whether they are added. -/
structure Half where
  dest : Nat
  sendLo : Nat
  sendN : Nat
  src : Nat
  recvLo : Nat
  recvN : Nat
  deriving DecidableEq, Repr

/-- A step of a collective: its halves, whether it reduces, bytes of an element on the wire. -/
structure CStep where
  halves : List Half
  reduce : Bool
  width : Nat
  deriving DecidableEq, Repr

/-- Segment j of a ring over n participants: first element and size (11 R383). -/
def seg (base cnt n j : Nat) : Nat × Nat :=
  let q := ceilDiv cnt (2 * n)
  (base + j * q, min q (cnt - j * q))

/-- Reducing or gathering steps of a ring of ranks `ps` in which this member stands at place i. The even segment of each
pair travels in the + direction, the odd one in the − direction. -/
def ringSteps (ps : List Nat) (i base cnt : Nat) (reduce : Bool) (width : Nat) : List CStep :=
  let n := ps.length
  let rank (k : Nat) : Nat := ps.getD (k % n) 0
  (List.range (n - 1)).map (fun t =>
    let lag := if reduce then 1 + t else t
    let up := 2 * n + i - lag
    let dn := i + lag
    let s0 := seg base cnt n (2 * (up % n))
    let r0 := seg base cnt n (2 * ((up - 1) % n))
    let s1 := seg base cnt n (2 * (dn % n) + 1)
    let r1 := seg base cnt n (2 * ((dn + 1) % n) + 1)
    ⟨[⟨rank (i + 1), s0.1, s0.2, rank (i + n - 1), r0.1, r0.2⟩, ⟨rank (i + n - 1), s1.1, s1.2, rank (i + 1), r1.1, r1.2⟩], reduce, width⟩)

/-- Steps of an ALLGATHER of `count` bytes each: the first half of a contribution goes in the + direction, the rest in the −
direction (log 36). -/
def gatherSteps (ps : List Nat) (i count : Nat) : List CStep :=
  let n := ps.length
  let h := ceilDiv count 2
  let rank (k : Nat) : Nat := ps.getD (k % n) 0
  (List.range (n - 1)).map (fun t =>
    let s0 := (2 * n + i - t) % n
    let r0 := (2 * n + i - t - 1) % n
    let s1 := (i + t) % n
    let r1 := (i + t + 1) % n
    ⟨[⟨rank (i + 1), s0 * count, h, rank (i + n - 1), r0 * count, h⟩,
      ⟨rank (i + n - 1), s1 * count + h, count - h, rank (i + 1), r1 * count + h, count - h⟩], false, 1⟩)

/-- Place of a rank in a list of ranks. -/
def placeOf (ps : List Nat) (r : Nat) : Nat := (ps.findIdx? (fun k => k == r)).getD 0

/-- Steps of a BROADCAST along the + direction from the root: a member takes the bytes, then passes them on. -/
def castSteps (ps : List Nat) (i root count : Nat) : List CStep :=
  let n := ps.length
  let k := (i + n - placeOf ps root) % n
  let rank (j : Nat) : Nat := ps.getD (j % n) 0
  (List.range (n - 1)).map (fun t =>
    ⟨(if t = k then [⟨rank (i + 1), 0, count, rank (i + 1), 0, 0⟩] else []) ++ (if t + 1 = k then [⟨rank (i + n - 1), 0, 0, rank (i + n - 1), 0, count⟩] else []), false, 1⟩)

/-- Participants of a run: ranks neither LOST in the table nor withdrawn (11 R382, R390). -/
def Dev.groupMember (d : Dev) (g : Group) (r : Nat) : Nat := leNat (d.dramRead (g.table * 32 + 4 * r) 4)
def Dev.lostRanks (d : Dev) (g : Group) : List Nat := (List.range g.size).filter (fun r => d.groupMember g r / 2 ^ 15 % 2 = 1)
def Dev.live (d : Dev) (g : Group) (r : CollRun) : List Nat :=
  (List.range g.size).filter (fun k => d.groupMember g k / 2 ^ 15 % 2 = 0 && !r.withdrawn.contains k)

/-- Does a GRID collective run as RING (11 R383)? -/
def gridFalls (g : Group) (r : CollRun) (n : Nat) : Bool :=
  ccAlgo r.ctrl = 1 && ccOpc r.ctrl = 0 && (n != g.size || g.size != (g.dx + 1) * (g.dy + 1) * (g.dz + 1))
def useGrid (g : Group) (r : CollRun) (n : Nat) : Bool := ccAlgo r.ctrl = 1 && ccOpc r.ctrl = 0 && !gridFalls g r n

/-- The steps of a run at this member over its participants. -/
def collSteps (g : Group) (r : CollRun) (ps : List Nat) : List CStep :=
  let n := ps.length
  let i := placeOf ps g.rank
  match ccOpc r.ctrl with
  | 0 =>
    if useGrid g r n then
      let dx := g.dx + 1
      let dy := g.dy + 1
      let dz := g.dz + 1
      let x := g.rank % dx
      let y := g.rank / dx % dy
      let z := g.rank / (dx * dy)
      let px := (List.range dx).map (fun k => k + dx * (y + dy * z))
      let py := (List.range dy).map (fun k => x + dx * (k + dy * z))
      let pz := (List.range dz).map (fun k => x + dx * (y + dy * k))
      let rx := 2 * ceilDiv r.count (2 * dx)
      let ry := 2 * ceilDiv rx (2 * dy)
      let st (f : Bool) (w : Nat) : List (List CStep) :=
        [ringSteps px x 0 (dx * rx) f w, ringSteps py y (x * rx) (dy * ry) f w, ringSteps pz z (x * rx + y * ry) ry f w]
      (st true (ccAcc r.ctrl)).flatten ++ (st false (ccElem r.ctrl)).reverse.flatten
    else ringSteps ps i 0 r.count true (ccAcc r.ctrl) ++ ringSteps ps i 0 r.count false (ccElem r.ctrl)
  | 1 => ringSteps ps i 0 r.count true (ccAcc r.ctrl)
  | 2 => gatherSteps ps i r.count
  | 3 => castSteps ps i r.root r.count
  | _ => []

/-- Elements that this member owns once the reducing steps are done, as (first, size). -/
def ownRange (g : Group) (r : CollRun) (ps : List Nat) : Nat × Nat :=
  let n := ps.length
  if useGrid g r n then
    let dx := g.dx + 1
    let dy := g.dy + 1
    let rx := 2 * ceilDiv r.count (2 * dx)
    let ry := 2 * ceilDiv rx (2 * dy)
    let rz := 2 * ceilDiv ry (2 * (g.dz + 1))
    (g.rank % dx * rx + g.rank / dx % dy * ry + g.rank / (dx * dy) * rz, rz)
  else
    let q := ceilDiv r.count (2 * n)
    (2 * placeOf ps g.rank * q, 2 * q)

/-- Elements of the working vector, padding of a grid included. -/
def vecLen (g : Group) (r : CollRun) (ps : List Nat) : Nat :=
  match ccOpc r.ctrl with
  | 0 =>
    let dx := g.dx + 1
    let dy := g.dy + 1
    let dz := g.dz + 1
    let rx := 2 * ceilDiv r.count (2 * dx)
    let ry := 2 * ceilDiv rx (2 * dy)
    if useGrid g r ps.length then dx * rx + dy * ry + 2 * dz * ceilDiv ry (2 * dz) else r.count
  | 1 => r.count
  | 2 => r.count * ps.length
  | 3 => r.count
  | _ => 0

/-! Packets. -/

/-- ARGS of CHUNK and CHUNK_ACK; bit 15 of STEP names the half (log 36). -/
def chunkArgs (g : Group) (r : CollRun) (step piece : Nat) : BitVec 128 :=
  mkArgs [(2, g.id), (2, step), (4, g.epoch.toNat), (4, r.seq), (4, piece)]

/-- Context of a queue's commands. -/
def Dev.ctxOfQ (d : Dev) (q : Nat) : Nat := ((d.obj.queues.get? q).map (fun u => u.ctx)).getD 64

/-- Sends a COLL packet to a rank, for the context of its run; its TAG is the collective sequence that its ARGS give (11 Tables 11-2, 11-4). -/
def Dev.sendMember (d : Dev) (g : Group) (rank ty : Nat) (args : BitVec 128) (data : List W8) : Dev :=
  let m := d.groupMember g rank
  let seq := args.toNat / 2 ^ (if ty = 0x21 || ty = 0x22 then 64 else 48) % 2 ^ 32
  let c := ((g.runs.find? (fun r => r.seq = seq)).map (fun r => d.ctxOfQ r.q)).getD 64
  (Dev.hoopSpend g.part c data.length d).send ty (memMod m) (memPart m) g.part (BitVec.ofNat 32 seq) args data

/-- DIGEST of a group: SIZE, the shape, the table with LOST read as zero (11 R379). -/
def Dev.groupDigest (d : Dev) (g : Group) : W32 :=
  crc32 (leBytes 2 g.size ++ leBytes 1 g.dx ++ leBytes 1 g.dy ++ leBytes 1 g.dz
    ++ (List.range g.size).flatMap (fun r => leBytes 4 (let v := d.groupMember g r; v % 2 ^ 15 + v / 2 ^ 16 * 2 ^ 16)))

/-- Digest of a collective: CCTRL bits 12:0, COUNT, ROOT (11 R382). -/
def collDigest (w : W64) (count root : Nat) : W32 := crc32 (leBytes 2 (bits w 0 13) ++ leBytes 8 count ++ leBytes 2 root)

/-- Sends JOIN for a run to its participants: the group's digest, and as data the collective's and the ranks this member
holds lost (log 36). -/
def Dev.sendJoin (d : Dev) (g : Group) (r : CollRun) : Dev :=
  let lost := d.lostRanks g
  let body := leBytes 4 r.digest.toNat ++ leBytes 2 lost.length ++ lost.flatMap (leBytes 2)
  ((d.live g r).filter (fun k => k != g.rank)).foldl (fun (d : Dev) k =>
    d.sendMember g k 0x20 (mkArgs [(2, g.id), (4, g.epoch.toNat), (4, r.seq), (4, (d.groupDigest g).toNat)]) body) d

def Dev.updGroup (d : Dev) (k : Nat) (f : Group → Group) : Dev := { d with cole := { d.cole with groups := d.cole.groups.upd k f } }
def Dev.group (d : Dev) (k : Nat) : Group := d.cole.groups.getD k Group.reset
def Dev.updRun (d : Dev) (k seq : Nat) (f : CollRun → CollRun) : Dev :=
  d.updGroup k (fun g => { g with runs := g.runs.map (fun r => if r.seq = seq then f r else r) })
def Dev.run? (d : Dev) (k seq : Nat) : Option CollRun := (d.group k).runs.find? (fun r => r.seq = seq)
def Dev.leadOf (d : Dev) (p : Nat) : Nat := ((d.parts.get? p).map Part.lead).getD 0

/-- The fault record of a command that runs on no cluster: lead tile, cluster 0xFF (02 Table 2-7). -/
def cmdFault (d : Dev) (p va code : Nat) (addr : W64) : FaultRec :=
  { code := code, more := false, tile := d.leadOf p, cluster := 0xFF, sched := 0, slot := 0, pc := BitVec.ofNat 64 va, mask := 0, addr := addr,
    ins := 0, ext := 0, time := d.clk.now, suppressed := 0 }

/-- Removes a run from its group. -/
def Dev.dropRun (d : Dev) (k seq : Nat) : Dev := d.updGroup k (fun g => ({ g with runs := g.runs.filter (fun r => r.seq != seq) } : Group).settle)

/-- The record of 11 Table 11-8; ELAPSED_NS lies outside what the model times (log 4). -/
def Dev.collStatus (d : Dev) (g : Group) (r : CollRun) (ps : List Nat) (orf : Bool) : List W8 :=
  let lost := d.lostRanks g
  let dropped := decide (ps.length < g.size)
  leBytes 1 ((if dropped then 1 else 0) + (if orf then 2 else 0) + (if r.restarted then 4 else 0) + (if gridFalls g r ps.length then 8 else 0))
    ++ leBytes 1 0 ++ leBytes 2 ps.length ++ leBytes 4 g.epoch.toNat ++ leBytes 2 (placeOf ps g.rank) ++ leBytes 2 (lost.headD 0xFFFF)
    ++ leBytes 4 lost.length ++ leBytes 8 (d.clk.now - r.started) ++ leBytes 4 r.seq ++ leBytes 4 0

/-- An uncorrectable error that a run's own read, or its write of part of a quarter, met (08 R295, R515). -/
def Dev.collBad (d : Dev) (k : Nat) (r : CollRun) (a : W64) : Dev :=
  ((d.metBad (d.ctxOfQ r.q) a.toNat 32).dropRun k r.seq).faultCmd (d.ctxOfQ r.q) r.q r.i
    (cmdFault d (d.group k).part (((d.cmd? r.q r.i).map (fun c => c.pay 0 8)).getD 0) cUncorrectable a) none none

/-- The status record of a run that completes, where STAT asks for it and no error stands in its way (11 R391). -/
def Dev.collRecord (d : Dev) (k : Nat) (r : CollRun) (ps : List Nat) (orf : Bool) : Dev :=
  let g := d.group k
  if ccStat r.ctrl then d.engStore (d.ctxOfQ r.q) (d.leadOf g.part) r.statusVa.toNat (d.collStatus g r ps orf) else d

/-- One more collective has completed (11 Table 11-18). -/
def Dev.collCount (d : Dev) : Dev := { d with cole := { d.cole with completed := wrapAdd 32 d.cole.completed 1 } }

/-- A run completes: the flag is delivered, the status record written, the command retired (11 R386, R387, R391). -/
def Dev.collDone (d : Dev) (k : Nat) (r : CollRun) (ps : List Nat) : Dev :=
  let g := d.group k
  let orf := ccFlag r.ctrl && r.dones.any (fun x => x.2)
  let opened := ((d.cmd? r.q r.i).map (fun c => c.opened)).getD 0
  let d := if ccFlag r.ctrl then d.updPart g.part (fun u => { u with lsc := u.lsc.collect u.rnd.opened opened r.sampled orf }) else d
  if ccStat r.ctrl && d.vbadPartial (d.ctxOfQ r.q) r.statusVa.toNat 32 then d.collBad k r r.statusVa else
  (((d.collRecord k r ps orf).dropRun k r.seq).collCount).retire r.q r.i cOk

/-- Ends a run with a code that is no fault of its context. -/
def Dev.collEnd (d : Dev) (k seq code : Nat) : Dev :=
  match d.run? k seq with
  | none => d
  | some r => (((d.collRecord k r (d.live (d.group k) r) false).dropRun k seq).collCount).retire r.q r.i code

/-- Ends a run with ILLEGAL_INSTRUCTION (11 R379, R382). -/
def Dev.collIllegal (d : Dev) (k seq : Nat) : Dev :=
  match d.run? k seq with
  | none => d
  | some r =>
    let va := ((d.cmd? r.q r.i).map (fun c => c.pay 0 8)).getD 0
    (((d.collRecord k r (d.live (d.group k) r) false).dropRun k seq).collCount).faultCmd (d.ctxOfQ r.q) r.q r.i
      (cmdFault d (d.group k).part va cIllegal 0) none none

/-- Little-endian elements of a byte list. -/
def elemsOf (w : Nat) : Nat → List W8 → List Nat
  | 0, _ => []
  | n + 1, l => leNat (l.take w) :: elemsOf w n (l.drop w)

/-- Replaces elements from lo on. -/
def putAt (v : List Nat) (lo : Nat) (es : List Nat) : List Nat := v.take lo ++ es.take (v.length - lo) ++ v.drop (lo + es.length)
/-- Adds received partials to the elements from lo on. -/
def addAt (w : W64) (v : List Nat) (lo : Nat) (es : List Nat) : List Nat :=
  putAt v lo (((v.drop lo).take es.length).zip es |>.map (fun x => addAcc w x.2 x.1))

/-- Finishes the elements a member owns into DFMT. -/
def finishAt (w : W64) (n : Nat) (v : List Nat) (o : Nat × Nat) : List Nat := putAt v o.1 (((v.drop o.1).take o.2).map (finAcc w n))

/-- Starts a run whose participants have all joined: the contribution is read (11 R387). -/
def Dev.collStart (d : Dev) (k : Nat) (r : CollRun) (ps : List Nat) : Dev :=
  let g := d.group k
  let c := d.ctxOfQ r.q
  let mine := ccOpc r.ctrl != 3 || r.root = g.rank
  let n := srcBytes r.ctrl mine r.count
  if mine && d.vbad c r.src.toNat n then d.collBad k r r.src
  else
    let d := if mine then d.engLoads c (d.leadOf g.part) (rngOf .load r.src.toNat n) else d
    let raw := if mine then d.vread c r.src.toNat n else []
    let len := vecLen g r ps
    let v := match ccOpc r.ctrl with
      | 0 => (elemsOf (ccElem r.ctrl) r.count raw).map (toAcc r.ctrl)
      | 1 => (elemsOf (ccElem r.ctrl) r.count raw).map (toAcc r.ctrl)
      | 2 => putAt (List.replicate len 0) (placeOf ps g.rank * r.count) (raw.map BitVec.toNat)
      | _ => raw.map BitVec.toNat
    d.updRun k r.seq (fun r => { r with running := true, t := 0, vec := v ++ List.replicate (len - v.length) 0 })

/-- Pieces of at most 64 KiB of a half's elements. -/
def pieceCount (w n : Nat) : Nat := ceilDiv (w * n) 65536

/-- Sends the chunks of a half. -/
def Dev.sendHalf (d : Dev) (k : Nat) (r : CollRun) (width : Nat) (h : Half) (hi : Nat) : Dev :=
  let g := d.group k
  let bytes := ((r.vec.drop h.sendLo).take h.sendN).flatMap (leBytes width)
  (List.range (pieceCount width h.sendN)).foldl (fun (d : Dev) p =>
    let x := (bytes.drop (65536 * p)).take 65536
    let step := r.t + 2 ^ 15 * hi
    (d.sendMember g h.dest 0x21 (chunkArgs g r step p) x).updRun k r.seq (fun r => { r with sent := r.sent ++ [(h.dest, step, p, x)] })) d

/-- Has every piece of a half arrived? -/
def CollRun.has (r : CollRun) (width : Nat) (h : Half) (hi : Nat) : Bool :=
  (List.range (pieceCount width h.recvN)).all (fun p => r.got.any (fun x => x.1 = r.t && x.2.1 = hi && x.2.2.1 = p))

/-- Elements of a half that arrived. -/
def CollRun.gotElems (r : CollRun) (width : Nat) (h : Half) (hi : Nat) : List Nat :=
  let l := (List.range (pieceCount width h.recvN)).flatMap (fun p =>
    ((r.got.find? (fun x => x.1 = r.t && x.2.1 = hi && x.2.2.1 = p)).map (fun x => x.2.2.2)).getD [])
  elemsOf width h.recvN l

/-- What a run writes at DST (11 R384). -/
def collOut (g : Group) (r : CollRun) (ps : List Nat) : List W8 :=
  let w := r.ctrl
  match ccOpc w with
  | 0 => (r.vec.take r.count).flatMap (leBytes (ccElem w))
  | 1 =>
    let o := ownRange g r ps
    ((r.vec.drop o.1).take o.2).flatMap (leBytes (ccElem w))
  | 4 => []
  | _ => r.vec.map (BitVec.ofNat 8)

/-- Moves a run on as far as what has arrived allows, with fuel: it starts, goes from step to step, finishes, completes. -/
def Dev.collPump (k seq : Nat) : Nat → Dev → Dev
  | 0, d => d
  | n + 1, d =>
    match d.run? k seq with
    | none => d
    | some r =>
      let g := d.group k
      let ps := d.live g r
      let steps := collSteps g r ps
      let reds := (steps.filter (fun s => s.reduce)).length
      if !r.running then
        if ps.all (fun x => r.joined.any (fun j => j.1 = x)) then
          match d.engWaits (d.ctxOfQ r.q) (d.leadOf g.part) (rngOf .load r.src.toNat (srcBytes r.ctrl (r.root = g.rank) r.count)) with
          | some d => d
          | none =>
          let d := d.collStart k r ps
          let d := if ccOpc r.ctrl ≤ 1 && reds = 0 then d.updRun k seq (fun r => { r with vec := finishAt r.ctrl ps.length r.vec (ownRange g r ps) }) else d
          let d := match d.run? k seq, steps.head? with
            | some r, some s => s.halves.zipIdx.foldl (fun (d : Dev) h => if ccOpc r.ctrl = 3 && h.1.sendN = 0 then d else d.sendHalf k r s.width h.1 h.2) d
            | _, _ => d
          Dev.collPump k seq n d
        else d
      else if r.finished then
        if ps.all (fun x => r.dones.any (fun y => y.1 = x)) then d.collDone k r ps else d
      else match steps[r.t]? with
        | none =>
          let out := collOut g r ps
          match d.engWaits (d.ctxOfQ r.q) (d.leadOf g.part) (rngOf .store r.dst.toNat out.length ++ (if ccStat r.ctrl then rngOf .store r.statusVa.toNat 32 else [])) with
          | some d => d
          | none =>
          if d.vbadPartial (d.ctxOfQ r.q) r.dst.toNat out.length then d.collBad k r r.dst else
          let d := d.engWrite (d.ctxOfQ r.q) (d.leadOf g.part) r.dst.toNat out
          let opened := ((d.cmd? r.q r.i).map (fun c => c.opened)).getD 0
          let flag := ccFlag r.ctrl && ((d.parts.get? g.part).map (fun u => u.lsc.carried u.rnd.opened opened)).getD false
          let upto := ((d.parts.get? g.part).map (fun u => u.lsc.reports)).getD 0
          let d := (ps.filter (fun x => x != g.rank)).foldl (fun (d : Dev) x =>
            d.sendMember g x 0x23 (mkArgs [(2, g.id), (4, g.epoch.toNat), (4, r.seq), (1, if flag then 1 else 0)]) []) d
          Dev.collPump k seq n (d.updRun k seq (fun r => { r with finished := true, dones := (g.rank, flag) :: r.dones, sampled := upto }))
        | some s =>
          if s.halves.zipIdx.all (fun h => r.has s.width h.1 h.2) then
            let v := s.halves.zipIdx.foldl (fun v h =>
              let es := r.gotElems s.width h.1 h.2
              if s.reduce then addAt r.ctrl v h.1.recvLo es else putAt v h.1.recvLo es) r.vec
            let last := s.reduce && r.t + 1 = reds
            let v := if last then finishAt r.ctrl ps.length v (ownRange g r ps) else v
            let d := d.updRun k seq (fun r => { r with vec := v, t := r.t + 1, got := r.got.filter (fun x => x.1 != r.t) })
            let d := match d.run? k seq, steps[r.t + 1]? with
              | some r, some s => s.halves.zipIdx.foldl (fun (d : Dev) h => d.sendHalf k r s.width h.1 h.2) d
              | _, _ => d
            Dev.collPump k seq n d
          else d

/-- Fuel that covers every step of a run. -/
def Dev.pump (d : Dev) (k seq : Nat) : Dev :=
  match d.run? k seq with
  | some r => Dev.collPump k seq ((collSteps (d.group k) r (d.live (d.group k) r)).length + 4) d
  | none => d

/-- Moves every run of a group on. -/
def Dev.pumpAll (d : Dev) (k : Nat) : Dev := ((d.group k).runs.map (fun r => r.seq)).foldl (fun (d : Dev) s => d.pump k s) d

/-- A group's membership changed: the epoch moves on, partial work is discarded, and every run joins again from its source,
or ends where its root is gone or, without SURVIVE, a member was lost (11 R387). `hit` names the runs that lost a member. -/
def Dev.collRestart (d : Dev) (k : Nat) (hit : Nat → Bool) : Dev :=
  let d := d.updGroup k (fun g => { g with epoch := g.epoch + 1 })
  ((d.group k).runs).foldl (fun (d : Dev) r =>
    let g := d.group k
    let gone := ccOpc r.ctrl = 3 && !((d.live g r).contains r.root)
    if hit r.seq && (!ccSurvive r.ctrl || gone) then d.collEnd k r.seq cMemberLost
    else
      let d := { d with cole := { d.cole with restarts := satAdd 0xFFFF d.cole.restarts 1 } }
      let d := d.updRun k r.seq (fun r => { r with restarted := true, running := false, t := 0, vec := [], got := [], sent := [], finished := false,
                                                   dones := [], joined := [(g.rank, r.digest.toNat)] })
      match d.run? k r.seq with
      | some r => d.sendJoin g r
      | none => d) d

/-- A rank of a group is lost: marked in the table, and every run restarts (11 R377, R387). -/
def Dev.groupLoss (d : Dev) (k rank : Nat) : Dev :=
  let g := d.group k
  let v := d.groupMember g rank
  if g.st != 1 || v / 2 ^ 15 % 2 = 1 || g.size ≤ rank then d else
  ((d.dramWrite (g.table * 32 + 4 * rank) (leBytes 4 (v + 2 ^ 15))).collRestart k (fun _ => true)).pumpAll k

/-- Slot of an ACTIVE group of a partition by its identifier (11 R372). -/
def Dev.groupOf (d : Dev) (p id : Nat) : Option Nat :=
  (d.cole.groups.find? (fun kv => kv.2.st = 1 && kv.2.part = p && kv.2.id = id)).map (fun kv => kv.1)

/-- The checks of a descriptor that need no memory (11 R381), zero for none, and the first address that is
not aligned; n participants, this one the me-th, root if it is ROOT. -/
def collCheck (x : List W8) (n me : Nat) (root : Bool) : Nat × Nat :=
  let w := BitVec.ofNat 64 (ud x 0 8)
  let opc := ccOpc w
  let count := ud x 0x18 8
  let s := ud x 0x08 8
  let t := ud x 0x10 8
  let sn := srcBytes w root count
  let tn := dstBytes w count n me
  let overlaps := decide (0 < sn) && decide (0 < tn) && decide (s < t + tn) && decide (t < s + sn)
  let bad := ud x 0 8 / 2 ^ 16 != 0 || w.getLsbD 4 || decide (5 ≤ opc) || decide (2 ≤ ccAlgo w) || decide (4 ≤ ccRop w)
    || ((x.drop 0x2C).take 20).any (fun b => b != 0)
    || (ccRop w = 1 && ccDfmt w = 3) || (ccAcc32 w && !(ccDfmt w = 1 || ccDfmt w = 2)) || (ccAlgo w = 1 && opc != 0)
    || (opc != 4 && ccSurvive w && overlaps) || (opc != 4 && (count = 0 || decide (2 ^ 40 < count)))
  let used : List (Nat × Nat) := (if opc = 4 then [] else [(s, ccAlign w), (t, ccAlign w)]) ++ (if ccStat w then [(ud x 0x20 8, 32)] else [])
  if bad then (cIllegal, 0)
  else match used.find? (fun a => a.1 % a.2 != 0) with
    | some a => (cMisaligned, a.1)
    | none => (0, 0)

end Sys2Proof.Machine
end

