-- ==== Sys2Proof/Machine/CollPkts.lean ====
section
/-! DEFINITION. Packets of collectives (11 R379, R382, R383, R386 to R390), their timeouts, the loss of a member, the dispatch of COLL. -/

namespace Sys2Proof.Machine

/-- Rank of a group's member by module and partition. -/
def Dev.groupRank (d : Dev) (g : Group) (m p : Nat) : Option Nat :=
  (List.range g.size).find? (fun r => memMod (d.groupMember g r) = m && memPart (d.groupMember g r) = p)

/-- Puts a packet aside: it belongs to an epoch or a collective that this member has not reached (log 36). -/
def Dev.putEarly (d : Dev) (k : Nat) (pkt : Pkt) : Dev := d.updGroup k (fun g => { g with early := g.early ++ [pkt] })

/-- JOIN: digests of the group and of the collective are compared, losses learnt, the member admitted (11 R379, R382, R387). -/
def Dev.joinIn (d : Dev) (k r : Nat) (pkt : Pkt) : Dev :=
  let d := d.updGroup k (fun g => { g with heard := (pkt.srcMod :: g.heard).eraseDups })
  if pkt.arg 10 4 != (d.groupDigest (d.group k)).toNat then
    ((d.group k).runs.map (fun r => r.seq)).foldl (fun (d : Dev) s => d.collIllegal k s) (d.updGroup k (fun g => { g with st := 2 }))
  else
    let b := pkt.body
    let lost := (List.range (leNat ((b.drop 4).take 2))).map (fun j => leNat ((b.drop (6 + 2 * j)).take 2))
    let d := (lost.filter (fun x => x != (d.group k).rank)).foldl (fun (d : Dev) x => d.groupLoss k x) d
    let g := d.group k
    let epoch := pkt.arg 2 4
    let seq := pkt.arg 6 4
    match g.runs.find? (fun r => r.seq = seq) with
    | none => if g.epoch.toNat < epoch || (seq = g.seq.toNat || decide (g.seq.toNat < seq)) then d.putEarly k pkt else d
    | some run =>
      if g.epoch.toNat < epoch then d.putEarly k pkt
      else if epoch < g.epoch.toNat then d
      else if leNat (b.take 4) != run.digest.toNat then d.collIllegal k seq
      else (d.updRun k seq (fun x => { x with joined := if x.joined.any (fun j => j.1 = r) then x.joined else (r, leNat (b.take 4)) :: x.joined })).pump k seq

/-- A COLL packet of rank r for an ACTIVE group slot, by its type. -/
def Dev.collPkt (d : Dev) (k r : Nat) (pkt : Pkt) : Dev :=
  if pkt.ty = 0x20 then d.joinIn k r pkt else
  let g := d.group k
  let c := decide (pkt.ty = 0x21) || decide (pkt.ty = 0x22)
  let epoch := if c then pkt.arg 4 4 else pkt.arg 2 4
  let seq := if c then pkt.arg 8 4 else pkt.arg 6 4
  let ack (d : Dev) : Dev := d.sendMember g r 0x22 pkt.args []
  if g.epoch.toNat < epoch || (epoch = g.epoch.toNat && decide (g.seq.toNat ≤ seq)) then d.putEarly k pkt
  else if epoch < g.epoch.toNat then d
  else match d.run? k seq with
    | none => if pkt.ty = 0x21 then ack d else d
    | some run =>
      let step := pkt.arg 2 2
      match pkt.ty with
      | 0x21 =>
        let e := (step % 2 ^ 15, step / 2 ^ 15, pkt.arg 12 4, pkt.body)
        let old := decide (e.1 < run.t) || run.got.any (fun x => x.1 = e.1 && x.2.1 = e.2.1 && x.2.2.1 = e.2.2.1)
        ((ack d).updRun k seq (fun x => { x with got := if old then x.got else x.got ++ [e] })).pump k seq
      | 0x22 => d.updRun k seq (fun x => { x with sent := x.sent.filter (fun y => !(y.1 = r && y.2.1 = step && y.2.2.1 = pkt.arg 12 4)) })
      | 0x23 => (d.updRun k seq (fun x => { x with dones := if x.dones.any (fun y => y.1 = r) then x.dones else (r, pkt.arg 10 1 = 1) :: x.dones })).pump k seq
      | 0x24 => ((d.updRun k seq (fun x => { x with withdrawn := r :: x.withdrawn })).collRestart k (fun s => s = seq)).pumpAll k
      | _ => d

/-- Packets put aside are tried again, with fuel. -/
def Dev.replayN (k : Nat) : Nat → Dev → Dev
  | 0, d => d
  | n + 1, d =>
    let l := (d.group k).early
    let d := d.updGroup k (fun g => { g with early := [] })
    let d := l.foldl (fun (d : Dev) pkt => match d.groupRank (d.group k) pkt.srcMod pkt.srcPart with
      | some r => d.collPkt k r pkt
      | none => d) d
    Dev.replayN k n d

def Dev.replayEarly (d : Dev) (k : Nat) : Dev := Dev.replayN k 3 d

/-- A member of a group is lost (11 R377, R387). -/
def Dev.memberLoss (d : Dev) (k rank : Nat) : Dev := (d.groupLoss k rank).replayEarly k

/-- COLL_CHUNK_TIMEOUT: collectives of a group whose chunks went unacknowledged for 10 ms complete with LINK_LOST (11 R388). -/
def Dev.chunkTimeout (d : Dev) (k : Nat) : Dev :=
  (((d.group k).runs.filter (fun r => !r.sent.isEmpty)).map (fun r => r.seq)).foldl (fun (d : Dev) s =>
    ({ d with cole := { d.cole with timeouts := satAdd 0xFFFF d.cole.timeouts 1 } } : Dev).collEnd k s cLinkLost) d

/-- COLL_JOIN_TIMEOUT: the oldest collective that still waits for a JOIN completes with MEMBER_LOST (11 R389). -/
def Dev.joinTimeout (d : Dev) (k : Nat) : Dev :=
  let g := d.group k
  if g.timeoutMs = 0 then d else
  match g.runs.find? (fun r => !r.running && !(d.live g r).all (fun x => r.joined.any (fun j => j.1 = x))) with
  | none => d
  | some r => ({ d with cole := { d.cole with timeouts := satAdd 0xFFFF d.cole.timeouts 1 } } : Dev).collEnd k r.seq cMemberLost

def execCollChunkTimeout (g : Nat) (s : State) := onDev (fun d => d.chunkTimeout g) s
def execCollJoinTimeout (g : Nat) (s : State) := onDev (fun d => d.joinTimeout g) s

/-- Chunks without acknowledgement are sent again (11 R388). -/
def Dev.resendChunks (d : Dev) : Dev :=
  d.cole.groups.foldl (fun (d : Dev) kv => kv.2.runs.foldl (fun (d : Dev) r => r.sent.foldl (fun (d : Dev) x =>
    d.sendMember kv.2 x.1 0x21 (chunkArgs kv.2 r x.2.1 x.2.2.1) x.2.2.2) d) d) d

/-- Dispatch of a COLL command (11 R380 to R382): pinned, its descriptor first, checked, joined; a group with four in flight makes it wait
(08 R290). -/
def Dev.collDispatch (d : Dev) (q i : Nat) : Dev :=
  match d.obj.queues.get? q, d.cmd? q i with
  | some qu, some k =>
    let c := qu.ctx
    let va := k.pay 0 8
    let fail (d : Dev) (code : Nat) (a : W64) (m : Option MemFault) : Dev := d.faultCmd c q i (cmdFault d qu.part va code a) m none
    if va % 32 != 0 then fail d cMisaligned (BitVec.ofNat 64 va) none else
    let lead := d.leadOf qu.part
    let d0 := d
    match d.pinAll c lead (rngOf .load va 64) with
    | .wait d => d
    | .fault w cs a => fail d cPage a (some ⟨false, w, cs, a⟩)
    | .ok d pins1 =>
      let fail (d : Dev) (code : Nat) (a : W64) (m : Option MemFault) : Dev := fail (d.updCmd q i (fun k => { k with pins := pins1 })) code a m
      match d.engWaits c lead (rngOf .load va 64) with
      | some d => d.unpin pins1
      | none =>
      let d := d.engLoads c lead (rngOf .load va 64)
      if d.vbad c va 64 then fail (d.metBad c va 64) cUncorrectable (BitVec.ofNat 64 va) none else
      let x := d.vread c va 64
      let w := BitVec.ofNat 64 (ud x 0 8)
      match d.groupOf qu.part (ud x 0x28 2) with
      | none => fail d cIllegal 0 none
      | some gk =>
        let g := d.group gk
        let ps := (List.range g.size).filter (fun r => d.groupMember g r / 2 ^ 15 % 2 = 0)
        let n := ps.length
        let me := placeOf ps g.rank
        let root := ud x 0x2A 2 = g.rank
        let code := collCheck x n me root
        let count := if ccOpc w = 4 then 0 else ud x 0x18 8
        if code.1 != 0 then fail d code.1 (BitVec.ofNat 64 code.2) none
        else if 4 ≤ g.runs.length then d0
        else match d.pinAll c lead
            (rngOf .load (ud x 0x08 8) (srcBytes w root count) ++ rngOf .store (ud x 0x10 8) (dstBytes w count n me)
              ++ (if ccStat w then rngOf .store (ud x 0x20 8) 32 else [])) with
          | .wait d => d.unpin pins1
          | .fault st cs a => fail d cPage a (some ⟨false, st, cs, a⟩)
          | .ok d pins2 =>
            let pins := pins1 ++ pins2
            let r : CollRun := { q := q, i := i, seq := g.seq.toNat, ctrl := w, src := BitVec.ofNat 64 (ud x 0x08 8), dst := BitVec.ofNat 64 (ud x 0x10 8),
                                 count := count, statusVa := BitVec.ofNat 64 (ud x 0x20 8), root := ud x 0x2A 2, digest := collDigest w count (ud x 0x2A 2),
                                 restarted := false, started := d.clk.now, joined := [(g.rank, (collDigest w count (ud x 0x2A 2)).toNat)], withdrawn := [],
                                 running := false, t := 0, vec := [], got := [], sent := [], finished := false, dones := [], sampled := 0 }
            let d := d.updCmd q i (fun k => { k with st := .running, pins := pins, desc := x })
            let d := d.updGroup gk (fun g => { g with runs := g.runs ++ [r], seq := g.seq + 1 })
            if ccOpc w = 3 && !((d.live g r).contains r.root) then d.collEnd gk r.seq cMemberLost
            else ((d.sendJoin g r).pump gk r.seq).replayEarly gk
  | _, _ => d

end Sys2Proof.Machine
end

