-- ==== Sys2Proof/Machine/Commands.lean ====
section
/-! DEFINITION. The life of a queued command: leaving QUEUED, waiting, admission between ticks, dispatch, the end of a COPY,
ABORT (09 R315, R318, R326; 10 R335 to R338). -/

namespace Sys2Proof.Machine

/-- CCLK of an operating point in MHz, and its core rail in units of 10 mV (13 Table 13-2). -/
def opMhz (op : Nat) : Nat := [600, 800, 1000, 1200, 1400, 1600, 1850, 2100].getD (op % 8) 2100
def opRail (op : Nat) : Nat := [55, 58, 61, 64, 68, 72, 78, 85].getD (op % 8) 85
/-- A time at OP7 scaled to an operating point, and back (10 R335). -/
def atOp7 (op n : Nat) : Nat := n * opMhz op / 2100

/-- Budget class of a command (10 R335): 0 COMPUTE, 1 UPDATE, 2 COLL. -/
def Cmd.clsOf (c : Cmd) : Nat := if c.opc = 2 then 1 else if c.opc = 4 then 2 else 0
/-- Is a command pinned to a round, and which index does it name (10 R337)? -/
def Cmd.pinned (c : Cmd) : Bool := c.roundF.getLsbD 63
def Cmd.roundIdx (c : Cmd) : Nat := bits c.roundF 0 63

/-- Budget of a round of length len with reserve w for maintenance, by class (10 R335). -/
def Part.budgetFor (u : Part) (len w cls : Nat) : Nat :=
  let b := len - Rounds.reserveNs u.rnd.ctrl - w
  if cls = 0 then atOp7 u.pwr.op b else b

def Rounds.budget (r : Rounds) (cls : Nat) : Nat := if cls = 0 then r.budget0 else if cls = 1 then r.budget1 else r.budget2
def Rounds.charged (r : Rounds) (cls : Nat) : Nat := if cls = 0 then r.charged0 else if cls = 1 then r.charged1 else r.charged2
def Rounds.charge (r : Rounds) (cls n : Nat) : Rounds :=
  if cls = 0 then { r with charged0 := r.charged0 + n } else if cls = 1 then { r with charged1 := r.charged1 + n } else { r with charged2 := r.charged2 + n }

/-- Commands of a partition that satisfy f, by queue and index. -/
def Dev.cmdsIn (d : Dev) (p : Nat) (f : Cmd → Bool) : List (Nat × Nat) :=
  d.obj.queues.flatMap (fun qv => if qv.2.part = p then qv.2.cmds.filterMap (fun kv => if f kv.2 then some (qv.1, kv.1) else none) else [])

/-- Commands admitted and not retired (09 Table 9-7: INFLIGHT_OPS). -/
def Cmd.inflight (c : Cmd) : Bool := c.st == .admitted || c.st == .running

/-- Is a partition's admission open: not drained, no power state in the way (10 R351; 13 R448)? -/
def Dev.admitsNow (d : Dev) (p : Nat) (u : Part) : Bool :=
  decide (u.drain ≤ 1) && d.ptc.psState = 0 && !d.ptc.ticked.contains p && !d.rstc.coreStep

/-- A command completes ROUND_OVERRUN without running, counted (10 R337, R338). -/
def Dev.overrunCmd (d : Dev) (q i : Nat) : Dev := d.retire q i cOverrun

/-- Does a READY command fit the current round: its budget, the in-flight quota, its round (10 R337, R338)? -/
def Dev.fitsRound (d : Dev) (p : Nat) (u : Part) (c : Cmd) : Bool :=
  let idx := u.rnd.index.toNat
  decide (u.rnd.charged c.clsOf + max c.cost (Rounds.minCharge u.rnd.ctrl) ≤ u.rnd.budget c.clsOf)
  && decide ((d.cmdsIn p Cmd.inflight).length < (d.sztE p 24).toNat)
  && (if c.pinned then c.roundIdx == idx else decide (c.roundIdx ≤ idx))

/-- Admits a command into the current round: charged, with the round's index and, for an UPDATE, the hyperparameters in force
(07 R255, 10 R338). -/
def Dev.admitCmd (d : Dev) (p : Nat) (u : Part) (q i : Nat) (c : Cmd) : Dev :=
  let n := max c.cost (Rounds.minCharge u.rnd.ctrl)
  (d.updRounds p (fun r => { r.charge c.clsOf n with firstQ := r.firstQ <|> some q })).updCmd q i (fun k => { k with
    st := .admitted, round := u.rnd.index.toNat, opened := u.rnd.opened, charge := n, cls := c.clsOf,
    hyper := if c.opc = 2 then [u.upd.cur.eta, u.upd.cur.beta, u.upd.cur.lambda] else [] })

/-- Does a command of an ACTIVE queue stand where it may leave QUEUED (09 R318)? -/
def Queue.mayLeave (u : Queue) (i : Nat) (c : Cmd) : Bool :=
  u.st == .active && c.st == .queued && decide ((BitVec.ofNat 32 i - u.head).toNat < (u.committed - u.head).toNat)
  && u.cmds.all (fun kv => decide ((BitVec.ofNat 32 i - u.head).toNat ≤ (BitVec.ofNat 32 kv.1 - u.head).toNat) || !(kv.2.st == .queued || kv.2.st == .waiting))
  && (BitVec.ofNat 32 i == u.head || match u.cmds.get? (BitVec.ofNat 32 i - 1).toNat with
      | none => true
      | some k => k.st == .retired || (c.concurrent && k.inflight))

/-- What a fence says of a wait; a destroyed fence says what it said last (09 R321; log 84). -/
def Dev.waitRes (d : Dev) (c : Cmd) : WaitRes :=
  match d.obj.fences.get? (fenceSlot c.waitFence) with
  | some f => f.eval c.waitValue
  | none => .waiting

/-- A command becomes READY: ROUND_OVERRUN when its round has closed or no empty round could take it, else it waits for admission. -/
def Dev.toReady (d : Dev) (p q i : Nat) (c : Cmd) : Dev :=
  match d.parts.get? p with
  | none => d
  | some u =>
    let d := d.updCmd q i (fun k => { k with st := .ready })
    if (c.pinned && decide (c.roundIdx < u.rnd.index.toNat)) || decide (u.budgetFor u.rnd.period 0 c.clsOf < c.cost)
    then d.overrunCmd q i else d

/-- A command in WAITING is evaluated (09 R320, Table 9-7). -/
def Dev.evalWait (d : Dev) (p q i : Nat) (c : Cmd) : Dev :=
  match d.waitRes c with
  | .satisfied => d.toReady p q i c
  | .failed code => if code = cProducerLost then d.retire q i cDependencyLost else d.retire q i code
  | .waiting => d.updCmd q i (fun k => { k with st := .waiting })

/-- A command leaves QUEUED if it may. -/
def Dev.leaveCmd (d : Dev) (q i : Nat) : Dev :=
  match d.obj.queues.get? q, d.cmd? q i with
  | some u, some c => if !u.mayLeave i c then d else if c.wait then d.evalWait u.part q i c else d.toReady u.part q i c
  | _, _ => d

/-- Admission between ticks of a command that has become READY (10 R338): its cost must fit the time left. -/
def Dev.admitBetween (d : Dev) (q i : Nat) : Dev :=
  match d.obj.queues.get? q, d.cmd? q i with
  | some qu, some c =>
    match d.parts.get? qu.part with
    | none => d
    | some u =>
      let spent := d.clk.now + Rounds.reserveNs u.rnd.ctrl
      let left := u.rnd.nextTick - spent
      let left := if c.clsOf = 0 then atOp7 u.pwr.op left else left
      if c.st == .ready && d.admitsNow qu.part u && d.fitsRound qu.part u c && decide (spent ≤ u.rnd.nextTick) && decide (c.cost ≤ left) then d.admitCmd qu.part u q i c else d
  | _, _ => d

/-- CMD_LEAVE_QUEUED: a command leaves QUEUED and, if it is READY, may be admitted at once. -/
def execCmdLeaveQueued (q i : Nat) (s : State) := onDev (fun d => (d.leaveCmd q i).admitBetween q i) s

/-- CMD_WAIT_SATISFIED: the fence of a WAITING command is evaluated again. -/
def execCmdWaitSatisfied (q i : Nat) (s : State) := onDev (fun d =>
  match d.obj.queues.get? q, d.cmd? q i with
  | some u, some c => if c.st == .waiting then (d.evalWait u.part q i c).admitBetween q i else d
  | _, _ => d) s

/-! Dispatch. -/

/-- A command that fails at dispatch, with the pins it took. -/
def Dev.failDispatch (d : Dev) (q i va code : Nat) (a : W64) (m : Option MemFault) (pins : List (Nat × Nat)) : Dev :=
  match d.obj.queues.get? q with
  | none => d
  | some u => (d.updCmd q i (fun k => { k with pins := pins })).faultCmd u.ctx q i (cmdFault d u.part va code a) m none

/-- LAUNCH: the shape is checked, the arguments pinned and read once (02 R44, 09 R315). -/
def Dev.launchDispatch (d : Dev) (q i : Nat) : Dev :=
  match d.obj.queues.get? q, d.cmd? q i with
  | some u, some k =>
    if !k.fits then d.failDispatch q i k.entryVa cIllegal 0 none []
    else match d.pinAll u.ctx (d.leadOf u.part) (rngOf .load k.argVa k.argBytes) with
      | .wait d => d
      | .fault w cs a => d.failDispatch q i k.entryVa cPage a (some ⟨false, w, cs, a⟩) []
      | .ok d pins =>
        match d.engWaits u.ctx (d.leadOf u.part) (rngOf .load k.argVa k.argBytes) with
        | some d => d.unpin pins
        | none =>
        if d.vbad u.ctx k.argVa k.argBytes then
          (d.metBad u.ctx k.argVa k.argBytes).failDispatch q i k.entryVa cUncorrectable (BitVec.ofNat 64 k.argVa) none pins
        else
          let d := d.engLoads u.ctx (d.leadOf u.part) (rngOf .load k.argVa k.argBytes)
          let args := d.vread u.ctx k.argVa k.argBytes
          d.updCmd q i (fun k => { k with st := .running, pins := pins, args := args })
  | _, _ => d

/-- COPY: addresses and length multiples of 32, both ranges pinned (09 R315, 08 R290). -/
def Dev.copyDispatch (d : Dev) (q i : Nat) : Dev :=
  match d.obj.queues.get? q, d.cmd? q i with
  | some u, some k =>
    if k.pay 0 8 % 32 != 0 || k.pay 8 8 % 32 != 0 || k.pay 16 8 % 32 != 0 then
      d.failDispatch q i 0 cMisaligned (if k.pay 0 8 % 32 != 0 then BitVec.ofNat 64 (k.pay 0 8) else if k.pay 8 8 % 32 != 0 then BitVec.ofNat 64 (k.pay 8 8) else 0) none []
    else match d.pinAll u.ctx (d.leadOf u.part) (rngOf .load (k.pay 0 8) (k.pay 16 8) ++ rngOf .store (k.pay 8 8) (k.pay 16 8)) with
      | .wait d => d
      | .fault w cs a => d.failDispatch q i 0 cPage a (some ⟨false, w, cs, a⟩) []
      | .ok d pins => d.updCmd q i (fun k => { k with st := .running, pins := pins })
  | _, _ => d

/-- SYNC only waits and signals: dispatched, it finishes. -/
def Dev.syncDispatch (d : Dev) (q i : Nat) : Dev := (d.updCmd q i (fun k => { k with st := .running })).retire q i cOk

/-- Is a command of a queue that stands before entry i not dispatched yet (07 R246)? -/
def Queue.undispatched (u : Queue) (i : Nat) : Bool :=
  u.cmds.any (fun kv => decide ((BitVec.ofNat 32 kv.1 - u.head).toNat < (BitVec.ofNat 32 i - u.head).toNat) && kv.2.st != .running && kv.2.st != .retired)

/-- Dispatches an ADMITTED command whose opcode satisfies f; commands of one queue in queue order (07 R246). -/
def Dev.dispatch (d : Dev) (f : Nat → Bool) (q i : Nat) : Dev :=
  match d.cmd? q i with
  | none => d
  | some k =>
    if k.st != .admitted || k.stop.isSome || !f k.opc || ((d.obj.queues.get? q).map (fun u => u.undispatched i)).getD true then d else
    let n := d.obj.dispatched + 1
    let d := Dev.updCmd { d with obj := { d.obj with dispatched := n } } q i (fun k => { k with seq := n })
    match k.opc with
    | 1 => d.launchDispatch q i
    | 2 => d.updDispatch q i
    | 3 => d.copyDispatch q i
    | 4 => d.collDispatch q i
    | _ => d.syncDispatch q i

def execLaunch (q i : Nat) (s : State) := onDev (fun d => d.dispatch (fun o => o = 1) q i) s
def execUpdate (q i : Nat) (s : State) := onDev (fun d => d.dispatch (fun o => o = 2) q i) s
def execCopy (q i : Nat) (s : State) := onDev (fun d => d.dispatch (fun o => o = 3) q i) s
def execColl (q i : Nat) (s : State) := onDev (fun d => d.dispatch (fun o => o = 4) q i) s
def execSync (q i : Nat) (s : State) := onDev (fun d => d.dispatch (fun o => o = 5) q i) s
def execCmdDispatch (q i : Nat) (s : State) := onDev (fun d => d.dispatch (fun _ => true) q i) s
def execUpdateComplete (q i : Nat) (s : State) := onDev (fun d => d.updComplete q i) s

/-- First byte offset, in lines of 256 bytes, of a COPY whose source or destination cannot be read (08 R515). -/
def Dev.copyBad (d : Dev) (c src dst n : Nat) : Option Nat :=
  (List.range (ceilDiv n 256)).find? (fun l => d.vbad c (src + 256 * l) (min 256 (n - 256 * l)) || d.vbadPartial c (dst + 256 * l) (min 256 (n - 256 * l)))

/-- COPY_COMPLETE (09 R315, R326): the bytes move as through a temporary, once the sub-pages can take them (08 R292, R299). A stopped COPY, or one that met an uncorrectable
error, has moved a number of 256-byte lines that the spec leaves open. -/
def Dev.copyComplete (d : Dev) (q i : Nat) : Dev :=
  match d.obj.queues.get? q, d.cmd? q i with
  | some u, some k =>
    if k.opc != 3 || k.st != .running then d else
    let src := k.pay 0 8
    let dst := k.pay 8 8
    let n := k.pay 16 8
    let rs := rngOf .load src n ++ rngOf .store dst n
    match d.engWaits u.ctx (d.leadOf u.part) rs with
    | some d' => d'
    | none =>
    let d := d.engLoads u.ctx (d.leadOf u.part) rs
    let bad := d.copyBad u.ctx src dst n
    let top := bad.getD (ceilDiv n 256)
    let lines := if k.stop.isNone && bad.isNone then ceilDiv n 256 else d.draw.toNat % (top + 1)
    let d := if k.stop.isNone && bad.isNone then d else d.drew
    let d := d.engWrite u.ctx (d.leadOf u.part) dst (d.vread u.ctx src (min n (256 * lines)))
    match k.stop, bad with
    | some code, _ => d.retire q i code
    | none, some l => (d.faultCmd u.ctx q i (cmdFault d u.part 0 cUncorrectable (BitVec.ofNat 64 (src + 256 * l))) none none).retire q i cUncorrectable
    | none, none => d.retire q i cOk
  | _, _ => d

/-- What waited for sub-pages goes on: writes of engines, collectives, object commands (08 R276, R292, R299; log 100). -/
def Dev.resume (d : Dev) : Dev :=
  let d := d.flush
  let d := (d.cole.groups.map (fun kv => kv.1)).foldl Dev.pumpAll d
  d.portsRetry

def execCopyComplete (q i : Nat) (s : State) := onDev (fun d => d.copyComplete q i) s

/-! ABORT (09 R326). -/

def cmdAbort (port : Nat) (v : OPort) (d : Dev) : ObjRes :=
  argOk (fits v.arg0 16 && fits v.arg1 32 && v.arg2 == 0 && v.arg3 == 0) <|
  withQueue d v.arg0 fun q u =>
    let i : W32 := v.arg1.truncate 32
    if decide ((i - u.head).toNat < (u.committed - u.head).toNat) then
      match u.cmds.get? i.toNat with
      | none => .ign 0x08
      | some c =>
        let wait (stop : Bool) : ObjRes :=
          let mine := stop && (c.stop.isNone || c.abortPorts.any (fun a => a.2))
          .busy (d.updCmd q i.toNat (fun k => { k with abortPorts := (port, mine) :: k.abortPorts, stop := if stop then k.stop <|> some cAborted else k.stop }))
        if c.st == .retired then .ok d cAlreadyDone 0 0
        else if c.opc = 4 && c.inflight then wait false
        else if c.st != .running then .ok (d.retire q i.toNat cAborted) cAborted 0 0
        else if d.hasPlaits q i.toNat || d.onEngine q i.toNat then wait true
        else .ok (d.retire q i.toNat (c.stop.getD cAborted)) (if c.stop.getD cAborted = cAborted then cAborted else cAlreadyDone) 0 0
    else if decide ((i - u.head).toNat < (u.reserved - u.head).toNat) || decide ((i - u.reserved).toNat < 2 ^ 31) then .ign 0x08
    else .ok d cAlreadyDone 0 0

def execAbort (p : Nat) (h : BitVec 56) (s : State) := onDev (objCmd 0x13 (cmdAbort p) p h) s

end Sys2Proof.Machine
end

