-- ==== Sys2Proof/Machine/Records.lean ====
section
/-! DEFINITION. Records of the OTP (14 R463, Table 14-4): generations, the body in force, energy coefficients. -/

namespace Sys2Proof.Machine

/-- Body length of a record that has generations (14 Table 14-4), zero for others. -/
def otpLen (ty : Nat) : Nat :=
  if ty = 0x01 then 128 else if ty = 0x02 then 64 else if 0x10 ≤ ty && ty ≤ 0x16 then 544 else if ty = 0x30 then 56
  else if ty = 0x31 then 2048 else 0

/-- Little-endian field of n bytes at offset lo of a byte list. -/
def leAt (b : List W8) (lo n : Nat) : Nat := leNat ((b.drop lo).take n)

/-- Is a programmed slot a valid generation (14 R463)? -/
def slotValid (ty gen : Nat) (b : List W8) : Bool :=
  leAt b 0 1 = ty && leAt b 1 1 = gen && leAt b 4 4 = otpLen ty && b.length = 16 + otpLen ty
  && (crc32 (b.take 8 ++ b.drop 16)).toNat = leAt b 8 4

/-- The generation in force of a record. -/
def Otp.active (o : Otp) (ty : Nat) : Option Nat :=
  [3, 2, 1, 0].find? (fun g => match o.slots.get? (4 * ty + g) with
    | some b => slotValid ty g b
    | none => false)

/-- The body in force of a record. -/
def Otp.record (o : Otp) (ty : Nat) : Option (List W8) :=
  (o.active ty).bind (fun g => (o.slots.get? (4 * ty + g)).map (fun b => b.drop 16))

/-- The lowest slot of a record that is not programmed (14 R463). -/
def Otp.unused (o : Otp) (ty : Nat) : Option Nat := (List.range 4).find? (fun g => (o.slots.get? (4 * ty + g)).isNone)

/-- Energy coefficient i of the OTP record in force (13 Table 13-19). -/
def Otp.coef (o : Otp) (i : Nat) : Nat := leAt ((o.record 0x30).getD []) (4 * i) 4

end Sys2Proof.Machine
end

