-- ==== Sys2Proof/Machine/Rounds.lean ====
section
/-! DEFINITION. The round tick in the order of 01 Table 1-13, the round monitor and the stretch (10 R331 to R342). -/

namespace Sys2Proof.Machine

/-! Progress (10 R340). -/

/-- Bytes that the halves of a list of steps move. -/
def stepBytes (l : List CStep) : Nat :=
  (l.flatMap (fun s => s.halves.map (fun h => s.width * (h.sendN + h.recvN)))).foldl (· + ·) 0

/-- Bytes that a run has moved: sent and acknowledged, and received, the pieces of the step it stands at among them. -/
def CollRun.moved (r : CollRun) (l : List CStep) : Nat :=
  let sum (l : List Nat) : Nat := l.foldl (· + ·) 0
  let out := sum ((l.take (if r.running then r.t + 1 else r.t)).flatMap (fun s => s.halves.map (fun h => s.width * h.sendN)))
  let inn := sum ((l.take r.t).flatMap (fun s => s.halves.map (fun h => s.width * h.recvN)))
  out - sum (r.sent.map (fun x => x.2.2.2.length)) + inn + sum (r.got.map (fun x => x.2.2.2.length))

/-- Progress of a command as a fraction: a LAUNCH by its retired work groups, a COLL by the bytes it has moved; what an
engine has done of a running COPY or UPDATE is timing, a free value (log 10). -/
def Dev.progress (d : Dev) (k : Nat) (q i : Nat) (c : Cmd) : Nat × Nat :=
  if c.st != .running then (0, 1) else
  match c.opc with
  | 1 => (c.groupsDone, max 1 c.nGroups)
  | 4 =>
    match d.cole.groups.findSome? (fun kv => (kv.2.runs.find? (fun r => r.q = q && r.i = i)).map (fun r => (kv.2, r))) with
    | none => (0, 1)
    | some (g, r) =>
      let l := collSteps g r (d.live g r)
      if r.finished then (1, 1) else (r.moved l, max 1 (stepBytes l))
  | 5 => (0, 1)
  | _ => ((Config.free (d.clk.free + k)).toNat % (2 ^ 32 + 1), 2 ^ 32)

/-- Free values taken by n commands. -/
def Dev.drewN (d : Dev) (n : Nat) : Dev := { d with clk := { d.clk with free := d.clk.free + n } }

/-- cost × (1 − progress), rounded up, at least MIN_CHARGE_NS (10 R339). -/
def carryCharge (ctrl : W64) (c : Cmd) (pr : Nat × Nat) : Nat := max (Rounds.minCharge ctrl) (ceilDiv (c.cost * (pr.2 - pr.1)) pr.2)

/-! Order 1: retirement accounting. -/

/-- Treatment of one unretired command at a tick (09 R325, 10 Table 10-2, R351); `phase` is the drain phase that the tick opens. A command
that the tick or an ABORT before it stops has no charge in the rounds after it, unless it is carried. -/
def Dev.overrun (d : Dev) (p : Nat) (u : Part) (phase : Nat) (t : Nat × Nat) : Dev :=
  match d.cmd? t.1 t.2, d.obj.queues.get? t.1 with
  | some c, some qu =>
    let d := d.updCmd t.1 t.2 (fun k => { k with closed := if k.closed = 0 then u.rnd.nextTick else k.closed })
    let dead := ((d.obj.ctxs.get? qu.ctx).map (fun x => x.st == .teardown)).getD true
    let compute := c.opc = 1 || c.opc = 3 || c.opc = 5
    let late := phase = 3 || (phase = 0 && (Rounds.ovrPolicy u.rnd.ctrl = 1 || Rounds.carryMax u.rnd.ctrl ≤ c.carries))
    let out (d : Dev) : Dev := d.updCmd t.1 t.2 (fun k => { k with unsummed := true })
    if dead then (if c.stop.isSome then out d else ((out d).withdraw t.1 t.2).stopCmd t.1 t.2 cAborted)
    else if compute && late then (if c.stop.isSome then out d else (out d).stopCmd t.1 t.2 cOverrun)
    else (d.updRounds p (fun r => { r with carried := wrapAdd 32 r.carried 1 })).updCmd t.1 t.2 (fun k => { k with carries := k.carries + 1 })
  | _, _ => d

/-- READY commands pinned to a round before index idx complete ROUND_OVERRUN (10 R337; log 38). -/
def Dev.pinsPast (d : Dev) (p : Nat) (idx : Nat) : Dev :=
  (d.cmdsIn p (fun c => c.st == .ready && c.pinned && decide (c.roundIdx < idx))).foldl (fun (d : Dev) t => d.overrunCmd t.1 t.2) d

/-- Shadow entries not yet compared are dropped (04 R172). -/
def Dev.dropShadow (d : Dev) (u : Part) : Dev :=
  let l := d.arrays.filter (fun kv => u.tiles.contains (ckTile (kv.1 / 4)))
  let d := l.foldl (fun (d : Dev) kv => d.updTile (ckTile (kv.1 / 4)) (fun t => { t with mxa := { t.mxa with dropped := wrapAdd 32 t.mxa.dropped kv.2.shadow.length } })) d
  l.foldl (fun (d : Dev) kv => d.updArray kv.1 (fun a => { a with shadow := [] })) d

/-! Energy (13 R445, R446). `coef` gives the coefficient of a class in fJ. -/

/-- Is a class scaled by the core rail (13 Table 13-5)? -/
def railScaled (cls : Nat) : Bool := !(cls = 9 || cls = 11 || cls = 12)

/-- Energy in fJ of n events of a class at an operating point. -/
def eventFj (coef : Nat → Nat) (op cls n : Nat) : Nat :=
  if railScaled cls then coef cls * n * (opRail op * opRail op) / (85 * 85) else coef cls * n

/-- fJ that the events of some classes drew for a context on the tiles of a partition in its round. -/
def Dev.drawn (d : Dev) (coef : Nat → Nat) (u : Part) (c : Nat) (classes : List Nat) : Nat :=
  (u.tiles.flatMap (fun t => classes.map (fun k => eventFj coef u.pwr.op k (d.energy.getD (energyKey t c k) 0)))).foldl (· + ·) 0

/-- Classes of COMPUTE (13 R446). -/
def computeClasses : List Nat := [0, 1, 2, 3, 4, 6, 7, 8, 9, 10, 11, 12]

/-- PTC_ENERGY_CTXc at a tick; the registers count whole units (log 92). -/
def Dev.energyCtx (coef : Nat → Nat) (u : Part) (d : Dev) (c : Nat) : Dev :=
  let comp := d.drawn coef u c computeClasses
  let pack := d.drawn coef u c [5]
  let unit (n : Nat) : Nat := min (2 ^ 32 - 1) (n / (4 * 10 ^ 9))
  let e := d.ptc.eCtx.getD c ⟨0, 0, 0⟩
  { d with ptc := { d.ptc with eCtx := d.ptc.eCtx.set c ⟨unit pack, unit comp, wrapAdd 64 e.total ((comp + pack) / 10 ^ 9)⟩ } }

/-- fJ of the leakage of a partition's tiles over a round: how it scales with temperature is not stated, a free value per round (log 92). -/
def Dev.leakFj (d : Dev) (coef : Nat → Nat) (u : Part) (ns : Nat) : Nat :=
  u.tiles.length * eventFj coef u.pwr.op 13 ns / 1000 * (d.draw.toNat % 2 ^ 32) / 2 ^ 16

/-- The energy of the round that closes at time t: that of every context, and UNATTRIB with what no context caused; the counts start again. -/
def Dev.energyWrite (d : Dev) (coef : Nat → Nat) (u : Part) (p t : Nat) (idx : W64) : Dev :=
  let cs := (d.obj.ctxs.filter (fun kv => kv.2.part = p)).map (fun kv => kv.1)
  let d := cs.foldl (Dev.energyCtx coef u) d
  let rest := d.drawn coef u 64 (5 :: computeClasses) + d.leakFj coef u (t - u.rnd.opened)
  let d : Dev := { d with ptc := { d.ptc with ePart := d.ptc.ePart.set p (idx.toNat % 2 ^ 32, min (2 ^ 32 - 1) (rest / (4 * 10 ^ 9))) } }
  Dev.drew { d with energy := d.energy.filter (fun kv => !u.tiles.contains (kv.1 / 16 / 65)) }

/-! Migration candidates (08 R281). -/

def sampleSum (t : Tbl Nat) : Nat := (t.map (fun kv => kv.2)).foldl (· + ·) 0

/-- The tile that a sub-page should move to. -/
def migTarget (u : Part) (s : Sub) : Option Nat :=
  let m := u.memp.mig
  let n := sampleSum s.samples
  if !m.getLsbD 31 || s.st != .local || n < bits m 0 8 then none else
  (s.samples.find? (fun kv => kv.1 != stackOf s.loc / 2 && decide (bits m 16 8 * n ≤ 100 * kv.2))).map (fun kv => kv.1)

/-- Queues migrations, then starts the samples and the use bits of a new round (08 R281, R283). -/
def Dev.sampleTick (d : Dev) (p : Nat) (u : Part) : Dev :=
  let q := (d.subsOf p).filterMap (fun s => if d.wgKeeps p s.1 then none else (migTarget u s.2).map (fun t => (s.1.1, s.1.2, t)))
  let d := d.updMemp p (fun m => { m with migQ := m.migQ ++ q })
  let next (s : Sub) : Sub := { s with usedPrev := s.used, used := false, samples := [] }
  { d with obj := { d.obj with mobjs := d.obj.mobjs.mapV (fun _ o => if o.part = p then { o with subs := o.subs.mapV (fun _ s => next s) } else o) } }

/-! Far memory handshakes (08 R287). -/

/-- Places in the lend pool of stack s of partition u: its last sub-pages before the carve-out share (log 24). -/
def poolStart (u : Part) (s : Nat) : Nat := s * stackPages + stackData - poolIn u s

/-- A base for n lent sub-pages: the lowest place, stack by stack, that no ACTIVE entry uses. -/
def lendBase (u : Part) (n : Nat) : Option Nat :=
  let act := (u.memp.lend.filter (fun kv => kv.2.active)).map (fun kv => (kv.2.base, kv.2.subpages))
  let ss := u.tiles.flatMap (fun t => [2 * t, 2 * t + 1])
  ss.findSome? (fun s =>
    let cand := poolStart u s :: (act.map (fun a => a.1 + a.2)).filter (fun b => stackOf b = s)
    cand.find? (fun b => decide (poolStart u s ≤ b) && decide (b + n ≤ s * stackPages + stackData)
      && act.all (fun a => decide (b + n ≤ a.1) || decide (a.1 + a.2 ≤ b))))

/-- Armed lend entries get their BASE and serve. -/
def Dev.lendTick (d : Dev) (p : Nat) : Dev :=
  match d.parts.get? p with
  | none => d
  | some u => u.memp.lend.foldl (fun (d : Dev) kv =>
    if !kv.2.armed then d else
    match ((d.parts.get? p).bind (fun u => lendBase u kv.2.subpages)) with
    | none => d
    | some b => d.updMemp p (fun m => { m with lend := m.lend.upd kv.1 (fun l => { l with active := true, armed := false, base := b }) })) d

/-- Armed far entries send their lend handshake. -/
def Dev.farTick (d : Dev) (p : Nat) : Dev :=
  match d.parts.get? p with
  | none => d
  | some u => u.memp.far.foldl (fun (d : Dev) kv =>
    if !kv.2.armed then d else
    let d := d.updMemp p (fun m => { m with far := m.far.upd kv.1 (fun f => { f with armed := false, asked := true }) })
    d.memReq p kv.1 kv.2.module 0x14 (mkArgs [(1, kv.1), (8, kv.2.base * 65536), (4, kv.2.subpages)]) [] (.lend p kv.1)) d

/-! Order 6: snapshots and the log (12 R399, R401, R410). -/

/-- The leader takes a snapshot request of round r: on the first, every member is told to freeze at the close of round r + 1 (12 R401). -/
def Dev.leaderRequest (d : Dev) (p r : Nat) : Dev :=
  let w := d.wg p
  if w.st != 1 || w.snap.isSome || w.lostMask != 0 || w.rebuildMask != 0 || w.leader != w.rank then d else
  (d.sendRanks p w w.others 0x32 [(8, r + 1)]).snapBegin p (r + 1)

/-- Does a member ask for a snapshot at the tick that closes round r (12 R399)? -/
def Dev.wantsSnap (d : Dev) (w : Wg) (r : Nat) : Bool :=
  let c := w.snapCtrl
  let gap := r - w.baseRound.toNat
  w.st = 1 && w.lostMask == 0 && w.rebuildMask == 0 && w.snap.isNone
  && ((decide (bits c 16 16 ≤ d.rse.risk) && decide (bits c 0 8 ≤ gap)) || decide (bits c 8 8 ≤ gap) || decide (75 ≤ w.logFill))

/-- Freezes SNAP equal to LIVE for every protected sub-page (12 R401). -/
def Dev.snapFreeze (d : Dev) (p r : Nat) : Dev :=
  match (d.wg p).snap with
  | none => d
  | some s =>
    if s.frozen || s.round != r then d else
    let live := ((d.wg p).prot.filter (fun o => (d.osub o).st == .local)).map (fun o => (o, (d.osub o).loc))
    d.updWg p (fun w => { w with st := 2, snap := some { s with frozen := true }, snapAt := live })

/-- Does the slot log the rounds that close: ACTIVE, a snapshot in progress or not, its context not lost (12 R410, R423; log 39)? -/
def Dev.logsRounds (d : Dev) (w : Wg) : Bool :=
  (w.st = 1 || w.st = 2) && ((d.obj.ctxs.get? w.context).map (fun x => x.st == .active)).getD false

/-- The resilience engine's part of the tick that closes round r. -/
def Dev.rseTick (d : Dev) (p : Nat) (u : Part) (r : Nat) : Dev :=
  if !(d.wg p).armed then d else
  let d := d.ownLoss p
  let away := ((d.wg p).prot ++ (d.wg p).areas).filter (fun o => (d.osub o).st == .far)
  let d := (d.pageIns (d.wg p).context p u.lead away).1
  let w := d.wg p
  let l := ((d.parts.get? p).map (fun v => v.lsc)).getD u.lsc
  let d := if d.logsRounds w && d.vbad w.context w.inputVa w.inputLen then d.loseUncorr w.context
    else if d.logsRounds w then
      d.logAppend p { ty := 1, flags := if l.history.getLsbD 0 then 2 else 0, round := r, step := l.step.toNat,
                      eta := u.upd.cur.eta, beta := u.upd.cur.beta, lambda := u.upd.cur.lambda, k := l.k } (d.vread w.context w.inputVa w.inputLen)
    else d
  let d := d.snapFreeze p r
  let w := d.wg p
  if !d.wantsSnap w r then d
  else if w.leader = w.rank then d.leaderRequest p r
  else d.sendRank p w w.leader 0x31 [(8, r)] []

/-! Order 7: maintenance (01 R40; 08 R299; 12 R424, R425; 14 R478). -/

def Dev.updSc (d : Dev) (tile k : Nat) (f : Sc → Sc) : Dev :=
  d.updTile tile (fun t => if k = 0 then { t with sc0 := f t.sc0 } else { t with sc1 := f t.sc1 })

/-- A tile fails; the partition that owns it starts to drain (12 R425). -/
def Dev.failTile (d : Dev) (tile : Nat) : Dev :=
  let d := d.updTile tile (fun t => { t with avail := false, spare := { t.spare with failed := true } })
  let d := d.event 0x09 ((ownerOf d.parts tile).getD 0xFF) tile 0xFF
  match ownerOf d.parts tile with
  | some p => d.updPart p (fun u => { u with drain := max 1 u.drain })
  | none => d

/-- Retires a cluster: a spare takes over its logical number, its state is saved to be restored there; without a spare the
tile fails (12 R424, R425). -/
def Dev.retireCluster (d : Dev) (tile c : Nat) : Dev :=
  let s := (d.tile tile).spare
  if !s.map.contains c || 40 ≤ c then d else
  match (List.range 40).find? (fun k => !s.map.contains k && !s.retired.getLsbD k) with
  | none => (d.updTile tile (fun t => { t with spare := { t.spare with retired := t.spare.retired ||| (1#40 <<< c) } })).failTile tile
  | some k =>
    let d := d.updTile tile (fun t => { t with spare := { t.spare with
      retired := t.spare.retired ||| (1#40 <<< c), sparesLeft := t.spare.sparesLeft - 1, map := t.spare.map.map (fun x => if x = c then k else x) } })
    (d.event 0x09 ((ownerOf d.parts tile).getD 0xFF) tile c).updCluster (ckey tile c) (fun x => { x with saveReq := x.ctx.isSome })

/-- A loaded component of a type comes into force (14 R478). -/
def Dev.inForce (d : Dev) (ty : Nat) : Dev :=
  match d.secm.next.get? ty with
  | some c => { d with secm := { d.secm with
      comps := d.secm.comps.set ty c
      next := d.secm.next.del ty
      places := ((d.secm.nextPlaces.get? ty).map (fun x => d.secm.places.set ty x)).getD d.secm.places
      nextPlaces := d.secm.nextPlaces.del ty } }
  | none => d

/-- A tile has loaded its scheduler microcode; with the last one the component is active (14 R478). -/
def Dev.ucodeLoaded (d : Dev) (tile : Nat) : Dev :=
  let l := d.secm.ucodeTiles.filter (fun t => t != tile)
  let d : Dev := { d with secm := { d.secm with ucodeTiles := l } }
  if l.isEmpty then d.inForce 4 else d

/-- A stack controller has loaded its firmware in its retraining window; with the last stack it is active. -/
def Dev.scLoaded (d : Dev) (s : Nat) : Dev :=
  let l := d.secm.scPend.filter (fun t => t != s)
  let d : Dev := { d with secm := { d.secm with scPend := l } }
  if l.isEmpty then d.inForce 6 else d

/-- A lane was retrained under the new PHY firmware; with the last lane it is active. -/
def Dev.phyLoaded (d : Dev) (p k : Nat) : Dev :=
  let l := d.secm.phyLanes.filter (fun x => x != (p, k))
  let d : Dev := { d with secm := { d.secm with phyLanes := l } }
  if l.isEmpty then d.inForce 5 else d

/-- Carries out the first pending maintenance action of a tile. -/
def Dev.maintain (d : Dev) (tile : Nat) : Dev :=
  match (d.tile tile).maint with
  | [] => d
  | m :: rest =>
    let d := d.updTile tile (fun t => { t with maint := rest })
    match m with
    | .microcode => d.ucodeLoaded tile
    | .retrain k => (d.updSc tile k (fun s => { s with st := .retrain, steered := [], writeback := false })).scLoaded (2 * tile + k)
    | .swap c => d.retireCluster tile c

/-- Is a retraining window open on a tile (08 R299)? -/
def Tile.retraining (t : Tile) : Bool := t.sc0.st == .retrain || t.sc1.st == .retrain

/-- Tiles of no partition carry out one pending action each, independently of every other tile (01 R39, R40). The spec names no tick for them: every
ROUND_TICK serves them, that of a number without a partition too (log 106). -/
def Dev.maintainFree (d : Dev) : Dev :=
  (List.range 8).foldl (fun (d : Dev) t => if (ownerOf d.parts t).isSome || (d.tile t).retraining then d else d.maintain t) d

/-- Reserve for maintenance at the opening tick (10 Table 10-1) of a partition; while a retraining window is open it is that
window's, and no other action starts (log 38). -/
def Dev.maintTick (d : Dev) (u : Part) : Nat × Dev :=
  if u.tiles.any (fun t => (d.tile t).retraining) then (2000000, d) else
  match u.tiles.find? (fun t => !(d.tile t).maint.isEmpty) with
  | none => (0, d)
  | some t => (match (d.tile t).maint with
    | .microcode :: _ => 300000
    | .retrain _ :: _ => 2000000
    | .swap _ :: _ => 20000
    | [] => 0, d.maintain t)

/-! Order 8: admission. -/

/-- The READY command at the head of each queue of a partition, rotating from the queue after `last` (10 R338). -/
def Dev.heads (d : Dev) (p : Nat) (last : Option Nat) : List (Nat × Nat) :=
  let hs := d.obj.queues.filterMap (fun qv => if qv.2.part = p then (qv.2.cmds.find? (fun kv => kv.2.st == .ready)).map (fun kv => (qv.1, kv.1)) else none)
  match last with
  | none => hs
  | some l => hs.filter (fun h => decide (l < h.1)) ++ hs.filter (fun h => decide (h.1 ≤ l))

/-- Passes over the heads until none of the kind can be admitted, with fuel; the commands admitted, in order. An admitted
command lets a CONCURRENT successor leave QUEUED (09 R318). -/
def Dev.admitPass (d : Dev) (p : Nat) (pinned : Bool) (last : Option Nat) : Nat → List (Nat × Nat) → Dev × List (Nat × Nat)
  | 0, acc => (d, acc)
  | n + 1, acc =>
    match d.parts.get? p with
    | none => (d, acc)
    | some u =>
      match (d.heads p last).find? (fun h => match d.cmd? h.1 h.2 with
          | some c => c.pinned == pinned && d.fitsRound p u c
          | none => false) with
      | none => (d, acc)
      | some h => match d.cmd? h.1 h.2 with
        | none => (d, acc)
        | some c => Dev.admitPass ((d.admitCmd p u h.1 h.2 c).leaveCmd h.1 (BitVec.ofNat 32 h.2 + 1).toNat) p pinned (some h.1) n (acc ++ [h])

/-- The pinned pass and the unpinned pass, again as long as one admits: a pinned command that becomes READY during the second one
gets its turn (10 R338; log 38). -/
def Dev.admitPasses (d : Dev) (p : Nat) (last : Option Nat) (fuel : Nat) : Nat → List (Nat × Nat) → Dev × List (Nat × Nat)
  | 0, acc => (d, acc)
  | n + 1, acc =>
    let a := d.admitPass p true last fuel acc
    let b := a.1.admitPass p false last fuel a.2
    if b.2.length = acc.length then b else b.1.admitPasses p last fuel n b.2

/-- Carried commands are charged first (10 R338, R339). -/
def Dev.chargeCarried (d : Dev) (p : Nat) (ctrl : W64) : Dev :=
  let l := d.cmdsIn p (fun c => c.inflight && !c.unsummed)
  let d' := l.zipIdx.foldl (fun (e : Dev) t =>
    match d.cmd? t.1.1 t.1.2 with
    | some c =>
      let n := carryCharge ctrl c (d.progress t.2 t.1.1 t.1.2 c)
      (e.updRounds p (fun r => r.charge c.clsOf n)).updCmd t.1.1 t.1.2 (fun k => { k with charge := n })
    | none => e) d
  d'.drewN l.length

/-- Order 2, decided by what order 8 admits: clusters of carried LAUNCH commands are preempted when commands of another context
are admitted (02 R47, 10 R339). -/
def Dev.preempt (d : Dev) (u : Part) (new : List (Nat × Nat)) : Dev :=
  let cs := new.map (fun t => d.ctxOfQ t.1)
  { d with clusters := d.clusters.mapV (fun k x => match x.ctx with
      | some c => if u.tiles.contains (ckTile k) && cs.any (fun c' => c' != c) && !(d.plaitsOn k).isEmpty then { x with saveReq := true } else x
      | none => x) }

/-! The tick. -/

/-- Orders 3 to 5 and the opening of the round: what was held comes into force; a drain tick discards the pending period and
operating point (10 R351, 01 R39). `t` is the tick, `phase` the drain phase it opens. -/
def Part.open_ (u : Part) (t phase : Nat) : Part :=
  let r := u.rnd
  let keep := phase = 2
  let period := if keep then r.period else r.periodHeld
  let aligned := decide (t < r.align)
  let phaseCls := if keep then u.pwr.phase else u.pwr.phaseHeld
  let pref := if keep then u.pwr.opPref else u.pwr.opPrefHeld
  let rnd : Rounds := { r with
    period := period, periodHeld := period, ctrl := r.ctrlHeld, index := r.indexHeld.getD (r.index + 1), indexHeld := none, align := 0,
    opened := t, len := if aligned then r.align - t else period, stretch := 0, charged0 := 0, charged1 := 0, charged2 := 0, recv := 0,
    monitored := false, applied := false, slow := 64, doneCost := 0, predNum := 0, predDen := 0, fixed := aligned,
    lastQ := r.firstQ <|> r.lastQ, firstQ := none }
  { u with drain := phase, rnd := rnd, szt := u.szt.set 25 (BitVec.ofNat 64 period),
           upd := { u.upd with cur := u.upd.held },
           memp := { u.memp with mig := u.memp.migHeld, pag := u.memp.pagHeld },
           pwr := { phase := phaseCls, phaseHeld := phaseCls, opPref := pref, opPrefHeld := pref, op := bits pref (4 * phaseCls) 4 } }
where bits (x lo n : Nat) : Nat := x / 2 ^ lo % 2 ^ n

/-- The budgets of the round just opened (10 R335). -/
def Part.setBudgets (u : Part) (w : Nat) : Part :=
  { u with rnd := { u.rnd with budget0 := u.budgetFor u.rnd.len w 0, budget1 := u.budgetFor u.rnd.len w 1, budget2 := u.budgetFor u.rnd.len w 2 } }

/-- ROUND_TICK: every action of a tick of partition p, in the order of 01 Table 1-13. -/
def Dev.roundTick (coef : Nat → Nat) (d : Dev) (p : Nat) : Dev :=
  if d.rstc.coreStep then d else
  let d := d.maintainFree
  match d.parts.get? p with
  | none => d
  | some u =>
    let t := u.rnd.nextTick
    let d := (d.stops.filter (fun z => u.tiles.contains (ckTile z.ck))).foldl Dev.endStop (d.at t)
    let phase := if u.drain = 0 then 0 else min 3 (u.drain + 1)
    let idx := u.rnd.index
    let d := (d.cmdsIn p Cmd.inflight).foldl (fun (d : Dev) c => d.overrun p u phase c) d
    let next := u.rnd.indexHeld.getD (idx + 1)
    let d := d.pinsPast p (max (idx.toNat + 1) next.toNat)
    let d := d.lscTick p next
    let d := ((d.dropShadow u).energyWrite coef u p t idx).sampleTick p u
    let d := d.updPart p (fun u => u.open_ t phase)
    let d := d.rseTick p u idx.toNat
    let d := (d.lendTick p).farTick p
    let m := d.maintTick u
    let d := m.2.updPart p (fun u => u.setBudgets m.1)
    let d := d.chargeCarried p u.rnd.ctrlHeld
    let d : Dev := { d with ptc := { d.ptc with ticked := if d.ptc.psPending then (p :: d.ptc.ticked).eraseDups else d.ptc.ticked.filter (fun x => x != p) } }
    match d.parts.get? p with
    | none => d
    | some v =>
      let d := (d.drainFar p).resume
      if !d.admitsNow p v then d else
      let fuel := (d.obj.queues.map (fun qv => qv.2.cmds.length)).foldl (· + ·) 0 + 1
      let b := d.admitPasses p v.rnd.lastQ fuel fuel []
      b.1.preempt v b.2

def execRoundTick (p : Nat) (s : State) := onDev (fun d => d.roundTick s.otp.coef p) s

/-! The round monitor (10 R340). -/

/-- Members of the synchronous group: those of the collective group with the same identifier (11 R378), as (module, partition). -/
def Dev.syncMembers (d : Dev) (p id : Nat) : List (Nat × Nat) :=
  match d.groupOf p id with
  | none => []
  | some k =>
    let g := d.group k
    (((List.range g.size).filter (fun r => r != g.rank)).map (fun r => d.groupMember g r)).map (fun v => (v % 4096, v / 4096 % 8))

/-- Σ cost × progress over the round's commands as a fraction. -/
def Dev.workDone (d : Dev) (p : Nat) (u : Part) : Nat × Nat :=
  (d.cmdsIn p (fun c => c.inflight && !c.unsummed)).zipIdx.foldl (fun (a : Nat × Nat) t =>
    match d.cmd? t.1.1 t.1.2 with
    | some c =>
      let pr := d.progress t.2 t.1.1 t.1.2 c
      (a.1 * pr.2 + c.cost * pr.1 * a.2, a.2 * pr.2)
    | none => a) (u.rnd.doneCost, 1)

/-- ROUND_MONITOR_CHECK: at 0.8 of the round a partition with STRETCH_EN predicts its end and asks for the stretch it needs. -/
def Dev.monitor (d : Dev) (p : Nat) : Dev :=
  match d.parts.get? p with
  | none => d
  | some u =>
    let r := u.rnd
    if r.monitored || r.fixed || !Rounds.stretchEn r.ctrl then d else
    let d := (d.at (r.opened + 8 * r.len / 10)).updRounds p (fun r => { r with monitored := true })
    let w := d.workDone p u
    let d := d.drewN (d.cmdsIn p Cmd.inflight).length
    let charged := r.charged0 + r.charged1 + r.charged2
    if charged = 0 then d else
    -- F = w.1 / (w.2 * charged); the end lies 8 * len * w.2 * charged / (10 * w.1) after T_k
    let num := 8 * r.len * w.2 * charged
    let den := 10 * w.1
    let d := d.updRounds p (fun r => { r with predNum := num, predDen := den })
    let res := Rounds.reserveNs r.ctrl
    let cap := Rounds.stretchMax r.ctrl * r.len / 100
    if den != 0 && num + res * den ≤ r.len * den then d else
    let s := if den = 0 then cap else min cap (ceilDiv (num + res * den - r.len * den) (den * 10000) * 10000)
    let d := d.updRounds p (fun r => { r with recv := max r.recv s })
    let g := Rounds.syncGroup r.ctrl
    if g = 0xFFFF then d else
    let d := d.updRounds p (fun r => { r with sent := satAdd 0xFFFF r.sent 1 })
    (d.syncMembers p g).foldl (fun (d : Dev) m =>
      let pkt (d : Dev) (copy : Nat) : Dev := d.send 0x03 m.1 m.2 p 0 (mkArgs [(2, g), (8, r.index.toNat), (4, s), (1, copy)]) []
      pkt (pkt d 0) 1) d

def execRoundMonitorCheck (p : Nat) (s : State) := onDev (fun d => d.monitor p) s

/-- A STRETCH for a partition (10 R341): late ones and those of another round are counted. -/
def Dev.stretchIn (d : Dev) (p group idx s : Nat) : Dev :=
  d.updRounds p (fun r =>
    if Rounds.syncGroup r.ctrl = 0xFFFF || Rounds.syncGroup r.ctrl != group then r
    else if r.index.toNat != idx then { r with mismatch := satAdd 0xFF r.mismatch 1 }
    else if r.applied then { r with late := satAdd 0xFF r.late 1 }
    else { r with recv := max r.recv s })

/-- 64 k of 10 R342 for R_m / A as a fraction; where A is 0 the spec gives no quotient, a free value (log 105). -/
def slowBy (n a : Int) : Nat :=
  (max 16 (min 64 (if a < 0 then -((64 * n) / (-a)) else -((-(64 * n)) / a)))).toNat

/-- STRETCH_APPLY: at 0.9 of the round the closing tick moves by the largest stretch, and a member that is early may slow its
clock (10 R341, R342). -/
def Dev.stretchApply (d : Dev) (p : Nat) : Dev :=
  match d.parts.get? p with
  | none => d
  | some u =>
    let r := u.rnd
    if r.applied then d else
    let at_ := 9 * r.len / 10
    let d := d.at (r.opened + at_)
    let s := if r.fixed then 0 else r.recv
    let room : Int := (r.len : Int) + s - Rounds.reserveNs r.ctrl - at_
    let early := s != 0 && Rounds.stretchSlow r.ctrl && r.predDen != 0 && decide (r.predNum < (r.len + s) * r.predDen)
    let k := if early && room = 0 then 16 + d.draw.toNat % 49 else slowBy ((r.predNum : Int) - at_ * r.predDen) (room * r.predDen)
    let d := if early && room = 0 then d.drew else d
    d.updRounds p (fun r => { r with applied := true, stretch := s, rounds := if s = 0 then r.rounds else wrapAdd 32 r.rounds 1, slow := if early then k else 64 })

def execStretchApply (p : Nat) (s : State) := onDev (fun d => d.stretchApply p) s

end Sys2Proof.Machine
end

