-- ==== Sys2Proof/Machine/Partitions.lean ====
section
/-! DEFINITION. Overlay records and their checks, forming and dissolving partitions (10 R332, R333, R347 to R351; 01 R25 to R34). -/

namespace Sys2Proof.Machine

/-! Checks of an overlay record (10 Table 10-6). -/

/-- Entry p of a record. -/
def recEntry (b : List W8) (p : Nat) : PartEnt := BitVec.ofNat 512 (leAt b (0x20 + 64 * p) 64)

/-- Tiles of a mask. -/
def maskTiles (m : Nat) : List Nat := (List.range 8).filter (fun t => m / 2 ^ t % 2 = 1)

/-- The tile sets of 01 Table 1-5. -/
def shapeOk (m : Nat) : Bool :=
  [0x01, 0x02, 0x04, 0x08, 0x10, 0x20, 0x40, 0x80, 0x11, 0x22, 0x44, 0x88, 0x33, 0xCC, 0xFF].contains m

/-- A value that TILEn_UE_LSC_CTRL accepts (07 Table 7-13). -/
def lscCtrlOk (w : W64) : Bool :=
  let kmin := sbyte w 24
  let kmax := sbyte w 32
  let kinit := sbyte w 40
  Lsc.cleanRun w != 0 && decide (-126 ≤ kmin) && decide (kmin ≤ kmax) && decide (kmin ≤ kinit) && decide (kinit ≤ kmax) && bits w 2 2 != 3

/-- A value that TILEn_RND_CTRL accepts (10 Table 10-8). -/
def rndCtrlOk (w : W64) : Bool :=
  decide (1 ≤ Rounds.stretchMax w) && decide (Rounds.stretchMax w ≤ 100) && decide (1 ≤ Rounds.carryMax w) && decide (Rounds.ovrPolicy w ≤ 1)
  && decide (20 ≤ bits w 16 16) && decide (bits w 16 16 ≤ 1000) && decide (100 ≤ Rounds.minCharge w)

/-- A round period (10 R334). -/
def periodOk (n : Nat) : Bool := decide (250000 ≤ n) && decide (n ≤ 4000000000) && n % 1000 = 0

/-- Six preferences of at most 7 (10 Table 10-5, 13 Table 13-20). -/
def opPrefOk (n : Nat) : Bool := (List.range 6).all (fun k => decide (n / 16 ^ k % 16 ≤ 7)) && n / 2 ^ 24 = 0

def PartEnt.ok (e : PartEnt) : Bool :=
  bits e 9 7 = 0 && e.formats % 8 = 7 && e.weaveWeight != 0 && periodOk e.period && (List.range 4).all (fun k => e.vcWeights / 256 ^ k % 256 != 0)
  && e.farBytes % 65536 = 0 && e.lendPool % 65536 = 0 && lscCtrlOk e.lscCtrl && rndCtrlOk e.rndCtrl && opPrefOk (bits e 448 32)

/-- Masks that overlap none of the earlier ones. -/
def disjoint : Nat → List Nat → Bool
  | _, [] => true
  | used, m :: t => used &&& m == 0 && disjoint (used ||| m) t

def sumOf (l : List PartEnt) (f : PartEnt → Nat) : Nat := (l.map f).foldl (· + ·) 0

/-- Cause of the first check that record `num` fails, zero for a valid record; a record that is not there fails the first. -/
def recordCause (num : Nat) (body : Option (List W8)) : Nat :=
  match body with
  | none => 1
  | some b =>
    let es := (List.range 8).map (recEntry b)
    let ps := es.filter (fun e => e.tileMask != 0)
    if !(b.length = 544 && leAt b 3 1 = 1 && leAt b 0 2 = 1 && leAt b 2 1 = num && (crc32 (b.drop 0x20)).toNat = leAt b 4 4
        && leAt b 8 24 = 0 && es.all (fun e => bits e 480 32 = 0)) then 1
    else if !((List.range 8).zip es).all (fun e => e.2.tileMask = 0 || (shapeOk e.2.tileMask && (maskTiles e.2.tileMask).headD 8 = e.1))
        || !disjoint 0 (ps.map PartEnt.tileMask) then 2
    else if 64 < sumOf ps PartEnt.ctxSlots || 1024 < sumOf ps PartEnt.queueSlots || 16384 < sumOf ps PartEnt.fenceSlots
        || 16384 < sumOf ps PartEnt.inflight || 1048576 < sumOf ps PartEnt.mobjSlots then 3
    else if !ps.all PartEnt.ok then 4
    else if !ps.all (fun e => decide (e.lendPool ≤ 94 * 2 ^ 30 * (maskTiles e.tileMask).length)) then 5
    else 0

/-! Formation. -/

/-- The size table of a partition (01 Table 1-11). -/
def sizeTable (gen p overlay moduleId : Nat) (e : PartEnt) : List W64 :=
  let n := (maskTiles e.tileMask).length
  ([gen, p, e.tileMask, n, 38 * n, 4, 16, 32, 77824 * n, 131072, 1572864, 152 * n, 64, 4864 * n, e.formats,
    94 * 2 ^ 30 * n - e.lendPool, e.farBytes, 2 * n, 2 * n, 20000000000000 * n, e.ctxSlots, e.queueSlots, e.fenceSlots, e.mobjSlots, e.inflight,
    e.period, 2100000000, overlay, moduleId, 0, 0, 0] : List Nat).map (BitVec.ofNat 64)

/-- The smallest multiple of a period at or after t (10 R332). -/
def multipleFrom (period t : Nat) : Nat := ceilDiv t period * period

/-- Round timing of a partition formed at t (10 R332, R333). -/
def Rounds.form (e : PartEnt) (t : Nat) : Rounds :=
  let first := multipleFrom e.period (t + 250000)
  { period := e.period, periodHeld := e.period, ctrl := e.rndCtrl, ctrlHeld := e.rndCtrl, index := BitVec.ofNat 64 (first / e.period) - 1, indexHeld := none,
    align := 0, opened := t, len := first - t, stretch := 0, budget0 := 0, budget1 := 0, budget2 := 0, charged0 := 0, charged1 := 0, charged2 := 0,
    rounds := 0, sent := 0, late := 0, mismatch := 0, carried := 0, failed := 0, recv := 0, monitored := false, applied := false, slow := 64, lastQ := none,
    doneCost := 0, predNum := 0, predDen := 0, fixed := true, firstQ := none }

def Memp.reset : Memp :=
  { mig := 0x804B0210, migHeld := 0x804B0210, pag := 0x80040208, pagHeld := 0x80040208, countMig := 0, countOut := 0, countIn := 0, countDirect := 0,
    countCancel := 0, probeVa := 0, probeDone := false, probeHit := false, probeCtx := 0, pe0 := 0, pe1 := 0, spe := 0, far := [], lend := [],
    refused := 0, migQ := [], migRun := [], outing := false, clock := 0 }

def Pwr.form (pref : Nat) : Pwr := ⟨5, 5, pref, pref, pref / 16 ^ 5 % 16⟩

/-- A partition formed at t with a key; w is the reserve of a retraining window that its formation round overlaps (10 Table 10-1). -/
def Part.form (e : PartEnt) (szt : List W64) (t w : Nat) (key : BitVec 512) : Part :=
  Part.setBudgets { ent := e, tiles := maskTiles e.tileMask, szt := szt, rnd := Rounds.form e t, lsc := Lsc.start e.lscCtrl,
                    upd := ⟨UpdGroup.reset, UpdGroup.reset, []⟩, alarm := ⟨0, 0, 0, []⟩, memp := Memp.reset, pwr := Pwr.form e.opPref, drain := 0, key := key } w

/-- Reserve for a retraining window that is open on some tile when a formation round opens (10 Table 10-1). -/
def Dev.windowReserve (d : Dev) (ts : List Nat) : Nat := if ts.any (fun t => (d.tile t).retraining) then 2000000 else 0

/-- The stack controllers of a tile take up, or leave, their work (01 R28); a retraining window under way runs to its end. -/
def Dev.stacks (d : Dev) (tile : Nat) (on : Bool) : Dev :=
  let f (s : Sc) : Sc := if s.st == .failed || s.st == .off || s.st == .retrain then s else { s with st := if on then .active else .selfRefresh }
  d.updTile tile (fun t => { t with sc0 := f t.sc0, sc1 := f t.sc1 })

/-- Can a tile take part in a partition (01 R27)? -/
def Dev.tileOk (d : Dev) (t : Nat) : Bool := (d.tile t).avail && !(d.tile t).spare.failed

/-- Forms partition p from its entry, unless it exists or a tile of it is unavailable; its key is drawn from the random source (08 R301). -/
def Dev.formPart (d : Dev) (p overlay : Nat) (e : PartEnt) : Dev :=
  if e.tileMask = 0 || (d.parts.get? p).isSome || !(maskTiles e.tileMask).all d.tileOk then d else
  let gen := d.hid.layoutGen + 1
  let part := Part.form e (sizeTable gen.toNat p overlay d.hid.moduleId e) d.clk.now (d.windowReserve (maskTiles e.tileMask)) (Config.free512 d.clk.free)
  let d := d.drew
  let d : Dev := { d with hid := { d.hid with layoutGen := gen }, parts := d.parts.set p part, secm := { d.secm with keyGen := wrapAdd 32 d.secm.keyGen 1 } }
  (maskTiles e.tileMask).foldl (fun (d : Dev) t => d.stacks t true) d

/-- Forms every partition of a record's entries that does not exist. -/
def Dev.formAll (d : Dev) (overlay : Nat) (ents : List PartEnt) : Dev :=
  ents.zipIdx.foldl (fun (d : Dev) e => d.formPart e.2 overlay e.1) d

/-! The switch. -/

/-- Is a partition affected by a switch to a record's entries (10 R350)? -/
def affected (ents : List PartEnt) (p : Nat) (u : Part) : Bool := ents.getD p 0 != u.ent

/-- OVERLAY_REQUEST: a write of OTPC_OVERLAY_REQ.TARGET (10 R350, R351). -/
def Dev.overlayReq (otp : Otp) (v : W64) (d : Dev) : Dev :=
  let n := bits v 16 3
  if d.otpc.pending || n = 7 then d.ignore 0x09 0x10 0x00400100 else
  let body := otp.record (0x10 + n)
  let cause := recordCause n body
  if cause != 0 then { d with otpc := { d.otpc with refused := true, cause := cause, target := n } } else
  let ents := (List.range 8).map (recEntry (body.getD []))
  let hit := d.parts.filter (fun kv => affected ents kv.1 kv.2)
  let new := (ents.zipIdx.filter (fun e => e.1.tileMask != 0 && (d.parts.get? e.2).isNone))
  let d : Dev := { d with otpc := { d.otpc with refused := false, cause := 0, target := n, ents := ents, nextBody := body.getD [] } }
  if hit.isEmpty && new.isEmpty then Dev.event 0x06 0xFF n d.hid.layoutGen.toNat { d with hid := { d.hid with overlay := n }, otpc := { d.otpc with recBody := d.otpc.nextBody } } else
  let d : Dev := { d with otpc := { d.otpc with pending := true } }
  hit.foldl (fun (d : Dev) kv => d.updPart kv.1 (fun u => { u with drain := max 1 u.drain })) d

def execOverlayRequest (v : W64) (s : State) : Host.Outcome State Fault Refusal := .next { s with dev := s.dev.overlayReq s.otp v }

/-- Fields of a waling slot that control software wrote, with everything else free. -/
def Wg.freed (w : Wg) : Wg :=
  { Wg.reset with walingId := w.walingId, size := w.size, parity := w.parity, rank := w.rank, context := w.context, joining := w.joining,
                  shardUnits := w.shardUnits, table := w.table, snapCtrl := w.snapCtrl, log := w.log, hold := w.hold, parityVa := w.parityVa,
                  input := w.input, subst := w.subst, epoch := w.epoch, regions := w.regions }

/-- Frees a waling slot: an operation in progress is dropped, copies beside LIVE are freed, the objects' references go (12 R396). -/
def Dev.releaseWg (d : Dev) (p : Nat) : Dev :=
  let w := d.wg p
  if w.st = 0 then d else
  let d := d.snapDiscard p
  let bases := (d.wg p).base
  let d := bases.foldl (fun (d : Dev) e => if (d.osub e.1).loc = e.2 && (d.osub e.1).st == .local then d else d.freeSub e.2) d
  let d := d.setWg p w.freed
  let d := w.refs.foldl (fun (d : Dev) m => (d.updMobj m (fun o => { o with cmd := o.cmd - 1 })).reapMobj m) d
  ((d.obj.ctxs.filter (fun kv => kv.2.kept)).map (fun kv => kv.1)).foldl Dev.endTeardown d

/-- Is every engine's work on a partition's memory finished: nothing on its way to or from another place? -/
def Dev.quiet (d : Dev) (p : Nat) : Bool :=
  !(d.subsOf p).any (fun s => s.2.st == .migrating || s.2.st == .inbound || s.2.st == .outbound) && !d.fab.reqs.any (fun r => r.2.part = p)

/-- The lenders of a partition's far entries are told that they are released, by LEND_REQs for no sub-pages (08 R288, 10 R351; log 41). No
partition has the number given for the answers. -/
def Dev.releaseFar (d : Dev) (p : Nat) (u : Part) : Dev :=
  (u.memp.far.filter (fun kv => kv.2.st = 1 || kv.2.st = 2)).foldl (fun (d : Dev) kv =>
    d.memReq p kv.1 kv.2.module 0x14 (mkArgs [(1, kv.1), (8, kv.2.base * 65536), (4, 0)]) [] (.lend 8 kv.1)) d

/-- Removes what belongs to a partition: contexts, queues, fences, objects, local memory, requests under way. -/
def Dev.dropPart (d : Dev) (p : Nat) : Dev :=
  let cs := (d.obj.ctxs.filter (fun kv => kv.2.part = p)).map (fun kv => kv.1)
  let d := cs.foldl (fun (d : Dev) c => (d.teardown c).endTeardown c) d
  let gone := d.obj.mobjs.filter (fun kv => kv.2.part = p)
  let dead := d.obj.fences.filter (fun kv => kv.2.part = p)
  let d : Dev := { d with obj := { d.obj with
    mobjs := d.obj.mobjs.filter (fun kv => kv.2.part != p),
    mobjGen := gone.foldl (fun (t : Tbl Nat) kv => t.set kv.1 (nextGen 12 kv.2.gen)) d.obj.mobjGen,
    fences := d.obj.fences.filter (fun kv => kv.2.part != p),
    fenceGen := dead.foldl (fun (t : Tbl Nat) kv => t.set kv.1 (nextGen 18 kv.2.gen)) d.obj.fenceGen,
    queues := d.obj.queues.filter (fun kv => kv.2.part != p),
    ctxs := d.obj.ctxs.filter (fun kv => kv.2.part != p) } }
  let d := ((d.mem.used.filter (fun kv => kv.2 = p)).map (fun kv => kv.1)).foldl Dev.freeSub d
  { d with mem := { d.mem with direct := d.mem.direct.filter (fun e => (d.obj.mobjs.get? e.1.1).isSome), waiting := d.mem.waiting.filter (fun w => !cs.contains w.ctx) },
           fab := { d.fab with reqs := d.fab.reqs.filter (fun r => r.2.part != p) },
           saved := d.saved.filter (fun s => !cs.contains s.ctx) }

/-- The waling peers of a member that leaves its group are told by a WITHDRAW that names the WALING_ID and the slot's EPOCH and has 1 in
ARGS byte 10 (10 R351, 12 R414; log 45). -/
def Dev.walingLeave (d : Dev) (p : Nat) : Dev :=
  let w := d.wg p
  if !w.armed then d else
  w.others.foldl (fun (d : Dev) r =>
    d.send 0x24 (memMod (d.member w r)) (memPart (d.member w r)) p 0 (mkArgs [(2, w.walingId), (4, w.epoch.toNat), (4, 0), (1, 1)]) []) d

/-- PARTITION_DISSOLVE. A drained partition goes once all its work has retired (10 R351, steps 2 and 3). -/
def Dev.dissolve (d : Dev) (p : Nat) : Dev :=
  match d.parts.get? p with
  | none => d
  | some u =>
    if u.drain < 2 || !(d.cmdsIn p Cmd.inflight).isEmpty || (u.drain = 2 && !d.quiet p) then d else
    let d := (d.walingLeave p).releaseWg p
    let d : Dev := { d with cole := { d.cole with groups := d.cole.groups.mapV (fun _ g => if g.part = p && g.st != 0 then g.freed else g) } }
    let d := (d.dropPart p).releaseFar p u
    let d := ((List.range 40).flatMap (fun c => u.tiles.map (fun t => ckey t c))).foldl (fun (d : Dev) ck =>
      if (d.clusters.get? ck).isSome then d.clearCluster ck else d) d
    let d := u.tiles.foldl (fun (d : Dev) t => d.stacks t false) d
    { d with parts := d.parts.del p, energy := d.energy.filter (fun kv => !u.tiles.contains (kv.1 / 16 / 65)), hid := { d.hid with layoutGen := d.hid.layoutGen + 1 } }

def execPartitionDissolve (p : Nat) (s : State) := onDev (fun d => d.dissolve p) s

/-- PARTITION_FORM: once no affected partition is left, and in PS0 (13 R449), the target's partitions are formed (10 R351, step 4). -/
def Dev.formTarget (d : Dev) : Dev :=
  if !d.otpc.pending || d.ptc.psState != 0 || d.parts.any (fun kv => affected d.otpc.ents kv.1 kv.2) then d else
  let d := d.formAll d.otpc.target d.otpc.ents
  let d : Dev := { d with otpc := { d.otpc with pending := false, recBody := d.otpc.nextBody }, hid := { d.hid with overlay := d.otpc.target } }
  d.event 0x06 0xFF d.otpc.target d.hid.layoutGen.toNat

def execPartitionForm (s : State) := onDev Dev.formTarget s

end Sys2Proof.Machine
end

