-- ==== Sys2Proof/Machine/MemEvents.lean ====
section
/-! DEFINITION. Events of the memory system (08): migration, page-out, errors and repair, temperature bands, the end of a retraining
window, far-memory and lend entries, the probe. -/

namespace Sys2Proof.Machine

/-! Errors (08 R294 to R297, R515). -/

/-- Contexts that own what lies in a local sub-page: their objects' data, old code copies, waling copies, page tables. -/
def Dev.ownersOfLoc (d : Dev) (loc : Nat) : List Nat :=
  let subs := d.obj.mobjs.filterMap (fun kv =>
    let m := kv.2
    let here (s : Sub) : Bool := (s.st == .local || s.st == .migrating || s.st == .outbound) && s.loc = loc
    let copy (w : Wg) : Bool := w.base.any (fun e => e.1.1 = kv.1 && e.2 = loc) || w.snapAt.any (fun e => e.1.1 = kv.1 && e.2 = loc)
    if m.subs.any (fun s => here s.2) || m.oldCode.any (fun o => o.loc = loc) || d.rse.wgs.any (fun w => copy w.2) then some m.home else none)
  (subs ++ (d.obj.ctxs.filter (fun kv => kv.2.ptLocs.contains loc)).map (fun kv => kv.1)).eraseDups

/-- Absolute number of the first 64-byte quarter of a stack. -/
def stackQuarter (tile k : Nat) : Nat := (2 * tile + k) * stackPages * 1024

/-- Channel of a line of a stack (08 R271). -/
def channelOf (o : Nat) : Nat := (((o >>> 8) ^^^ (o >>> 13)) ^^^ (o >>> 18)) % 32

/-- The remap entry of a row (08 Table 8-16). -/
def remapWord (die channel bank row : Nat) : Nat := 2 ^ 63 + die * 2 ^ 28 + channel * 2 ^ 23 + bank * 2 ^ 17 + row

/-- An error that strikes a stack. -/
def Dev.strikeStack (d : Dev) (tile k : Nat) (e : ScrubErr) : Dev :=
  let o := e.quarter % (stackPages * 1024)
  d.strikeDram (stackQuarter tile k + o) (remapWord (e.die % 12) (channelOf (64 * o)) (e.bank % 64) (e.row % 2 ^ 17)) e.uncorrectable

/-- What a scrub pass does at a quarter beyond correction: its owner is lost, in the carve-out its event raised (08 R295, 15 R484). -/
def Dev.scrubBad (tile k : Nat) (d : Dev) (q : Nat) : Dev :=
  let d := d.updSc tile k (fun c => c.uncorrect (d.mem.rows.get? q))
  let d := if carveOk (64 * q) 64 then d.carveEvent (64 * q) else d
  (d.ownersOfLoc (q / 1024)).foldl Dev.loseUncorr d

/-- SCRUB_PASS: a controller that scrubs has read its whole stack and corrected what can be; the errors that struck since the last pass and
that no other reader met are an operand, being measured (08 R296, log 19). -/
def Dev.scrubPass (d : Dev) (tile k : Nat) (errs : List ScrubErr) : Dev :=
  let c := d.sc (2 * tile + k)
  if !c.scrubEn || !(c.st == .active) then d else
  let d := errs.foldl (fun (d : Dev) e => d.strikeStack tile k e) d
  let here (q : Nat) : Bool := q / 1024 / stackPages = 2 * tile + k
  let soft := d.mem.soft.filter here
  let d := soft.foldl (fun (d : Dev) q => d.updSc tile k (fun c => c.correct (d.mem.rows.getD q 0))) d
  let d : Dev := { d with mem := { d.mem with soft := d.mem.soft.filter (fun q => !here q) } }
  ((d.mem.bad.filter here).foldl (Dev.scrubBad tile k) d).updSc tile k (fun c => { c with scrubPasses := wrapAdd 16 c.scrubPasses 1, rowErrs := [] })

def execScrubPass (tile sc : Nat) (errs : List ScrubErr) (s : State) := onDev (fun d => d.scrubPass tile sc errs) s

/-- ROW_REPAIR_COMPLETE: reads switch to the spare; the data and its errors have moved unchanged (08 R297, R515). -/
def execRowRepairComplete (tile sc i : Nat) (s : State) := onDev (fun d =>
  d.updSc tile sc (fun c => { c with repairing := c.repairing.filter (fun j => j != i) })) s

/-! Temperature bands (08 R293). -/

/-- Band of a temperature: below 85, to 95, to 105, above. -/
def dramBand (t : Int) : Nat := if t < 85 then 0 else if t ≤ 95 then 1 else if t ≤ 105 then 2 else 3

/-- DRAM_BAND_EVAL: refresh and issue limit; a falling temperature leaves a band 2 °C below its edge. The throttled cycles of an
interval depend on the traffic, a free value (log 10). -/
def Dev.bandEval (d : Dev) (tile k : Nat) (t : Int) : Dev :=
  let c := d.sc (2 * tile + k)
  let raw := dramBand t
  let cur := c.band
  let b := if raw < cur then min cur (dramBand (t + 2)) else raw
  let limit := if b < 2 then 1000 else if b = 3 then 500 else max 500 (min 1000 (1000 - 50 * (t - 95))).toNat
  let limit := if (d.tile tile).trip.trip then 500 else limit
  let n := if c.limit < 1000 then (d.draw.toNat % 2 ^ 32) else 0
  (d.updSc tile k (fun c => { c with tempC := t, refresh := min 2 b, band := b, limit := limit, throttle := wrapAdd 64 c.throttle n })).drew

def execDramBandEval (tile sc : Nat) (t : Int) (s : State) := onDev (fun d => d.bandEval tile sc t) s

/-! Retraining windows (08 R299). -/

/-- RETRAIN_WINDOW_END: the stack serves again, in self-refresh while no partition owns it; what stalled goes on. -/
def execRetrainWindowEnd (tile sc : Nat) (s : State) := onDev (fun d =>
  let st : ScSt := if (ownerOf d.parts tile).isSome && !d.rstc.coreStep then .active else .selfRefresh
  (d.updSc tile sc (fun c => if c.st == .retrain then { c with st := st, writeback := true } else c)).resume) s

/-- STEERING_WRITEBACK_DONE: loads no longer check the region. -/
def execSteeringWritebackDone (tile sc : Nat) (s : State) := onDev (fun d =>
  (d.updSc tile sc (fun c => if c.writeback then { c with steered := [], writeback := false } else c)).resume) s

/-! Migration (08 R281, R282). -/

/-- May a sub-page migrate now? -/
def Dev.canMigrate (d : Dev) (p : Nat) (o : Nat × Nat) : Bool :=
  (d.osub o).st == .local && (d.osub o).pins == 0 && !d.wgKeeps p o && ((d.obj.mobjs.get? o.1).map (fun m => m.part == p)).getD false

/-- MIGRATION_START: the oldest queued sub-page enters MIGRATING with a place taken on the stacks of its target tile; one that can
no longer migrate is passed over (log 40). -/
def Dev.migStart (d : Dev) (p : Nat) : Dev :=
  match d.parts.get? p with
  | none => d
  | some u =>
    let rest := u.memp.migQ.dropWhile (fun e => !d.canMigrate p (e.1, e.2.1))
    match rest with
    | [] => d.updMemp p (fun m => { m with migQ := [] })
    | (m, k, t) :: tl =>
      match d.pickSub p t with
      | none => d
      | some loc =>
        let d := d.updMemp p (fun x => { x with migQ := tl })
        if stackOf loc / 2 != t then d else
        ((d.takeSub loc p).updSub (m, k) (fun s => { s with st := .migrating, target := loc })).updMemp p (fun x => { x with migRun := x.migRun ++ [(m, k)] })

def execMigrationStart (p : Nat) (s : State) := onDev (fun d => d.migStart p) s

/-- MIGRATION_COMPLETE: the oldest migration under way switches to its new place; an uncorrectable error abandons it (08 R295). -/
def Dev.migDone (d : Dev) (p : Nat) : Dev :=
  match d.parts.get? p with
  | none => d
  | some u =>
    match u.memp.migRun.dropWhile (fun o => !((d.osub o).st == .migrating)) with
    | [] => d.updMemp p (fun m => { m with migRun := [] })
    | o :: tl =>
      let s := d.osub o
      let d := Dev.loadAt (s.loc * 65536) 65536 (d.updMemp p (fun m => { m with migRun := tl }))
      if d.badIn (s.loc * 65536) 65536 then
        let d := (d.freeSub s.target).updSub o (fun s => { s with st := .local })
        d.loseUncorr (((d.obj.mobjs.get? o.1).map (fun m => m.home)).getD 64)
      else
        let d := (Dev.countBytes false (s.target * 65536) 65536 (d.copySub s.loc s.target)).freeSub s.loc
        ((d.updSub o (fun s => { s with st := .local, loc := s.target })).snapLate p o).updMemp p (fun m => { m with countMig := wrapAdd 64 m.countMig 1 })

def execMigrationComplete (p : Nat) (s : State) := onDev (fun d => (d.migDone p).resume) s

/-! Page-out (08 R283). -/

/-- PAGE_OUT_START: below LOW_PCT, and then until HIGH_PCT, a cold sub-page starts its page-out; one that holds an uncorrectable
error stays and loses its context (08 R295). -/
def Dev.outStart (d : Dev) (p : Nat) : Dev :=
  match d.parts.get? p with
  | none => d
  | some u =>
    let quota := (d.sztE p 15).toNat / 65536
    let free := 100 * d.localFree p
    let on := decide (free < bits u.memp.pag 8 8 * quota) || (u.memp.outing && decide (free < bits u.memp.pag 16 8 * quota))
    let d := d.updMemp p (fun m => { m with outing := on })
    if !on || !u.memp.pag.getLsbD 31 then d else
    match freeFarSlot u.memp, d.coldSubs p with
    | some _, (o, s) :: _ =>
      if d.badIn (s.loc * 65536) 65536 then
        (Dev.loadAt (s.loc * 65536) 65536 (d.updMemp p (fun m => { m with clock := clockKey o + 1 }))).loseUncorr (((d.obj.mobjs.get? o.1).map (fun m => m.home)).getD 64)
      else (d.pageOut p).getD d
    | _, _ => d

def execPageOutStart (p : Nat) (s : State) := onDev (fun d => d.outStart p) s

/-- LENDER_LOST: the far entry fails; its FAR and INBOUND sub-pages become LOST, OUTBOUND ones stay LOCAL (08 R289, R291). -/
def Dev.lenderLoss (d : Dev) (p j : Nat) : Dev :=
  let d := (d.subsOf p).foldl (fun (d : Dev) s =>
    let u := s.2
    if u.lender != j then d
    else if u.st == .far then d.updSub s.1 (fun x => { x with st := .lost })
    else if u.st == .inbound then (d.freeSub u.target).updSub s.1 (fun x => { x with st := .lost })
    else if u.st == .outbound then d.updSub s.1 (fun x => { x with st := .local })
    else d) d
  let d := d.updMemp p (fun m => { m with far := m.far.upd j (fun f => { f with st := 3, used := [], armed := false, asked := false }) })
  Dev.resume { d with fab := { d.fab with reqs := d.fab.reqs.filter (fun r => !(r.2.part = p && r.2.entry = j)) } }

/-- MEM_REQ_RETRY: an unanswered request goes out once more over the current route (11 R363). A handshake that has no answer then either has found no
armed entry that matches: the far entry becomes FAILED (08 R287; log 41). -/
def execMemReqRetry (tag : Nat) (s : State) := onDev (fun d =>
  match d.fab.reqs.get? tag with
  | none => d
  | some r =>
    if r.resent then (match r.why with
      | .lend p j => if (((d.parts.get? p).bind (fun u => u.memp.far.get? j)).getD Far.reset).asked then d.lenderLoss p j else d
      | _ => d) else
    let d : Dev := { d with fab := { d.fab with reqs := d.fab.reqs.set tag { r with resent := true } } }
    d.send r.pkt.ty r.dest 0 r.part r.pkt.tag r.pkt.args r.pkt.data) s

/-! Far memory (08 R287, R288). -/

/-- An ignored register write, by cause (09 Table 9-10). -/
def Dev.ignReg (d : Dev) (cause off : Nat) : Dev := d.ignore cause 0x10 off

/-- CSR offset of a register of the MEMP block of a partition's lead tile. -/
def Dev.mempOff (d : Dev) (p o : Nat) : Nat := 0x10000000 + d.leadOf p * 0x1000000 + 0x70000 + o

/-- Sub-pages of ACTIVE and arming far entries but one. -/
def farSum (m : Memp) (j : Nat) : Nat :=
  ((m.far.filter (fun kv => kv.1 != j && (kv.2.st = 1 || kv.2.st = 2 || kv.2.armed || kv.2.asked))).map (fun kv => kv.2.subpages)).foldl (· + ·) 0

/-- FAR_ARM: word 1 of a far entry with ARM set (08 R287, Table 8-24). -/
def Dev.farArm (d : Dev) (p j : Nat) (v : W64) : Dev :=
  match d.parts.get? p with
  | none => d
  | some u =>
    let f := u.memp.far.getD j Far.reset
    let n := bits v 0 32
    let off := d.mempOff p (0x108 + 16 * j)
    if 16 ≤ j then d
    else if !v.getLsbD 40 then d
    else if (f.st != 0 && f.st != 3) || f.armed || f.asked then d.ignReg 0x09 off
    else
      let d := d.updMemp p (fun m => { m with far := m.far.set j { f with subpages := n } })
      if (d.sztE p 16).toNat < 65536 * (farSum u.memp j + n) then d.ignReg 0x09 off
      else d.updMemp p (fun m => { m with far := m.far.upd j (fun f => { f with armed := true, used := [] }) })

def execFarArm (p j : Nat) (v : W64) (s : State) := onDev (fun d => d.farArm p j v) s

/-- FAR_DRAIN: word 1 of a far entry with DRAIN set (08 R288). -/
def Dev.farDrain (d : Dev) (p j : Nat) (v : W64) : Dev :=
  match d.parts.get? p with
  | none => d
  | some u =>
    if !v.getLsbD 41 || (u.memp.far.getD j Far.reset).st != 1 then d else
    (d.updMemp p (fun m => { m with far := m.far.upd j (fun f => { f with st := 2 }) })).drainFar p

def execFarDrain (p j : Nat) (v : W64) (s : State) := onDev (fun d => d.farDrain p j v) s

/-- LEND_ARM: word 1 of a lend entry with ARM set; the entries together hold at most the pool (08 R287, Table 8-25). -/
def Dev.lendArm (d : Dev) (p j : Nat) (v : W64) : Dev :=
  match d.parts.get? p with
  | none => d
  | some u =>
    let l := u.memp.lend.getD j Lend.reset
    let off := d.mempOff p (0x208 + 16 * j)
    let others := ((u.memp.lend.filter (fun kv => kv.1 != j && (kv.2.active || kv.2.armed))).map (fun kv => kv.2.subpages)).foldl (· + ·) 0
    if 16 ≤ j || !v.getLsbD 40 then d
    else if l.active || u.ent.lendPool < 65536 * (others + bits v 0 32) then d.ignReg 0x09 off
    else d.updMemp p (fun m => { m with lend := m.lend.set j { l with subpages := bits v 0 32, part := bits v 32 3, armed := true } })

def execLendArm (p j : Nat) (v : W64) (s : State) := onDev (fun d => d.lendArm p j v) s

/-- LEND_RELEASE: held until the borrower has drained its entry; an entry that no borrower has taken is released at once (log 41). -/
def Dev.lendRelease (d : Dev) (p j : Nat) (v : W64) : Dev :=
  if !v.getLsbD 41 then d else
  d.updMemp p (fun m => { m with lend := m.lend.upd j (fun l =>
    if l.active && l.taken then { l with release := true } else { l with active := false, armed := false, release := false }) })

def execLendRelease (p j : Nat) (v : W64) (s : State) := onDev (fun d => d.lendRelease p j v) s

/-! The probe (08 Tables 8-3, 8-4, 8-23). -/

/-- Sub-page entry as 08 Table 8-4 lays it out. -/
def Sub.entry (s : Sub) : W64 :=
  fld 61 3 s.st.code ||| fld 45 16 s.pins ||| fld 41 4 (if s.st == .far || s.st == .outbound then s.lender else 0)
    ||| fld 0 36 (if s.st == .absent || s.st == .lost then 0 else s.loc)

/-- Bits 63:0 of a page entry as 08 Table 8-3 lays it out. -/
def Page.lo (g : Page) : W64 := fld 63 1 1 ||| fld 62 1 (if g.r then 1 else 0) ||| fld 61 1 (if g.w then 1 else 0) ||| fld 60 1 (if g.x then 1 else 0) ||| fld 32 20 g.obj

/-- MEMP_PROBE: PROBE_CTRL written with GO. Where hardware keeps the sub-page table is open: a free value (log 15). -/
def Dev.probe (d : Dev) (p : Nat) (v : W64) : Dev :=
  match d.parts.get? p with
  | none => d
  | some u =>
    let c := bits v 0 6
    if !v.getLsbD 31 then d else
    let va := u.memp.probeVa
    let d := d.updMemp p (fun m => { m with probeCtx := c, probeDone := true, probeHit := false, pe0 := 0, pe1 := 0, spe := 0 })
    match d.obj.ctxs.get? c with
    | none => d
    | some x =>
      if x.part != p || 2 ^ 56 ≤ va.toNat then d else
      match x.pages.get? (subNo va / 32) with
      | none => d
      | some g =>
        (d.updMemp p (fun m => { m with probeHit := true, pe0 := g.lo, pe1 := d.draw &&& 0x00000FFFFFFFFFFF#64, spe := (d.sub x (subNo va)).entry })).drew

def execMempProbe (p : Nat) (v : W64) (s : State) := onDev (fun d => d.probe p v) s

end Sys2Proof.Machine
end

