-- ==== Sys2Proof/Machine/Waling.lean ====
section
/-! DEFINITION. Waling groups (12): arming and release, the loss of a member, snapshots, parity, the log at its holders, rebuild and
replay. -/

namespace Sys2Proof.Machine

/-! Parity arithmetic (12 R408). -/

/-- Multiplication by g = 0x02 in GF(2^8) modulo 0x11D. -/
def gfDouble (a : Nat) : Nat := let b := 2 * a; if 256 ≤ b then b ^^^ 0x11D else b
/-- Product in GF(2^8), with the bits of b taken from the highest. -/
def gfMulN (a b : Nat) : Nat → Nat
  | 0 => 0
  | n + 1 => gfDouble (gfMulN a (b / 2) n) ^^^ (if b % 2 = 1 then a else 0)
def gfMul (a b : Nat) : Nat := gfMulN (a % 256) (b % 256) 8
/-- g^n. -/
def gfPow : Nat → Nat
  | 0 => 1
  | n + 1 => gfDouble (gfPow n)
/-- g^(-n): the order of g is 255. -/
def gfInvPow (n : Nat) : Nat := gfPow ((255 - n % 255) % 255)
/-- The inverse of a non-zero element, as its 254th power. -/
def gfInv (a : Nat) : Nat := (List.range 253).foldl (fun p _ => gfMul p a) a

def xorBytes (a b : List W8) : List W8 := (a.zip b).map (fun x => x.1 ^^^ x.2)
def scaleBytes (k : Nat) (a : List W8) : List W8 := a.map (fun x => BitVec.ofNat 8 (gfMul k x.toNat))
def zeros64k : List W8 := List.replicate 65536 0

/-! Pieces of 64 KiB: a piece of a shard unit is one sub-page. -/

/-- Object sub-page of piece k of unit u of the shard. -/
def Dev.pieceSub (d : Dev) (w : Wg) (u k : Nat) : Option (Nat × Nat) :=
  match unitVa w.regs u, d.obj.ctxs.get? w.context with
  | some va, some x => x.where_ (va / 65536 + k)
  | _, _ => none

/-- Bytes of a piece in one of the copies; a missing unit and an absent sub-page are zeros (12 R395; log 46). -/
def Dev.pieceIn (d : Dev) (w : Wg) (copies : List ((Nat × Nat) × Nat)) (u k : Nat) : List W8 :=
  match d.pieceSub w u k with
  | some o => match copies.find? (fun e => e.1 = o) with
    | some e => d.dramRead (e.2 * 65536) 65536
    | none => zeros64k
  | none => zeros64k

/-- Does a read of a piece in one of the copies meet an uncorrectable error (08 R515)? -/
def Dev.pieceBad (d : Dev) (w : Wg) (copies : List ((Nat × Nat) × Nat)) (u k : Nat) : Bool :=
  match d.pieceSub w u k with
  | some o => copies.any (fun e => e.1 = o && d.badIn (e.2 * 65536) 65536)
  | none => false

/-! Arming (12 R394 to R396, R406). -/

/-- Digest of WHELLO: WALING_ID, SIZE, P, SHARD_UNITS, the table without LOST and REBUILDING. -/
def Dev.wgDigest (d : Dev) (w : Wg) : W32 :=
  crc32 (leBytes 2 w.walingId ++ leBytes 1 w.size ++ leBytes 1 w.np ++ leBytes 4 w.shardUnits
    ++ (List.range w.size).flatMap (fun r => leBytes 4 (let v := d.member w r; v % 2 ^ 15 + v / 2 ^ 17 * 2 ^ 17)))

def Dev.sendWhello (d : Dev) (p : Nat) (w : Wg) (r : Nat) : Dev := d.sendRank p w r 0x30 [(4, (d.wgDigest w).toNat), (1, w.rank)] []

/-- Sub-pages of a range of a context, in order; none where a page is not mapped with W. -/
def Dev.rangeSubs (d : Dev) (c va n : Nat) : Option (List (Nat × Nat)) :=
  match d.obj.ctxs.get? c with
  | none => none
  | some x => (List.range (ceilDiv n 65536)).foldl (fun (r : Option (List (Nat × Nat))) k =>
    match r, x.pages.get? ((va / 65536 + k) / 32) with
    | some l, some g => if g.w then (x.where_ (va / 65536 + k)).map (fun o => l ++ [o]) else none
    | _, _ => none) (some [])

/-- Sub-pages of several ranges, given as (address, bytes). -/
def Dev.rangesSubs (d : Dev) (c : Nat) (l : List (Nat × Nat)) : Option (List (Nat × Nat)) :=
  l.foldl (fun (r : Option (List (Nat × Nat))) a =>
    match r, d.rangeSubs c a.1 a.2 with
    | some x, some y => some (x ++ y)
    | _, _ => none) (some [])

/-- Fields of RSE_WGp_CTRL (12 Table 12-6). -/
def Wg.withCtrl (w : Wg) (v : W64) : Wg :=
  { w with walingId := bits v 48 16, size := bits v 43 5, parity := v.getLsbD 42, rank := bits v 38 4, context := bits v 32 6, joining := v.getLsbD 5 }

def Dev.wgOff (p o : Nat) : Nat := 0x03000000 + 0x1000 + 0x400 * p + o

/-- WALING_ARM: RSE_WGp_CTRL written with ARM (12 R395, R396, R400, R406). Sub-pages that are far are paged in while the slot is armed already; one
without room for its pair pool, and one whose fields are out of range or whose context is not an ACTIVE one of the partition, does not arm
(log 108). A write that is ignored changes no field. -/
def Dev.walingArm (d : Dev) (p : Nat) (v : W64) : Dev :=
  if !v.getLsbD 4 then d else
  let off := Dev.wgOff p 0
  let w0 := d.wg p
  if w0.st != 0 || (d.parts.get? p).isNone || bits v 43 5 < 4 || 16 < bits v 43 5 then d.ignReg 0x09 off else
  let w := w0.withCtrl v
  if d.badIn (w.table * 2 ^ 20) (4 * w.size) then (d.carveEvent (w.table * 2 ^ 20)).setWg p { w with st := 4 } else
  let areas : List (Nat × Nat) := [(Wg.ringVa w.log, Wg.ringBytes w.log), (Wg.ringVa w.hold, Wg.ringBytes w.hold), (Wg.ringVa w.parityVa, 2 * w.np * w.width * 2 ^ 20)]
  let ok := ((d.obj.ctxs.get? w.context).map (fun x => x.part == p && x.st == .active)).getD false && w.rank < w.size && w.shardUnits != 0
  match d.rangesSubs w.context (w.regs.map (fun r => (r.1, r.2 * 2 ^ 20))), d.rangesSubs w.context areas with
  | some prot, some ar =>
    let all := (prot ++ ar).eraseDups
    let pool := 2 * prot.length
    let away := all.filter (fun o => (d.osub o).st == .far)
    if !ok || w.shardUnits < w.units || d.localFree p < pool then d.ignReg 0x09 off
    else
      let d := all.foldl (fun d o => d.cancelOut p o) d
      let refs := (all.map (fun o => o.1)).eraseDups
      let d := refs.foldl (fun (d : Dev) m => d.updMobj m (fun o => { o with cmd := o.cmd + 1 })) d
      let mask (b : Nat) : BitVec 16 := (List.range w.size).foldl (fun m r => if d.member w r / 2 ^ b % 2 = 1 then m ||| (1#16 <<< r) else m) 0
      let own : BitVec 16 := if w.joining then 1#16 <<< w.rank else 0
      let w : Wg := { w with st := 1, epoch := if w.joining then w.epoch else 0, prot := prot, areas := ar, refs := refs, poolLeft := pool, lostMask := mask 15 &&& ~~~own, rebuildMask := mask 16 ||| own }
      let d := (d.pageIns w.context p (d.leadOf p) away).1.setWg p w
      let d := if w.joining then d.setMember w w.rank (memMod (d.member w w.rank) + 4096 * memPart (d.member w w.rank) + 2 ^ 16) else d
      if w.joining then d else w.others.foldl (fun (d : Dev) r => d.sendWhello p w r) d
  | _, _ => d.ignReg 0x09 off

def execWalingArm (p : Nat) (v : W64) (s : State) := onDev (fun d => d.walingArm p v) s

/-- Is an operation of a slot in progress: a snapshot, or a rebuild of its own? -/
def Wg.busy (w : Wg) : Bool := w.snap.isSome || w.rstate = 1 || w.rstate = 2

/-- Carries out a release that waited (12 Table 12-6). -/
def Dev.tryRelease (d : Dev) (p : Nat) : Dev := if (d.wg p).release && !(d.wg p).busy then d.releaseWg p else d

/-- Is a SIZE that a write reaches in its range (12 Table 12-6)? -/
def Wg.ctrlOk (h v : W64) : Bool := !h.getLsbD 43 || (decide (4 ≤ bits v 43 5) && decide (bits v 43 5 ≤ 16))

/-- RSE_WGp_CTRL: RELEASE of a slot that is not FREE; ARM; else the RW fields of a FREE slot (12 Table 12-6, R427). `h` holds the bits that the
write reaches. -/
def Dev.wgCtrl (d : Dev) (p : Nat) (h v : W64) : Dev :=
  let w := d.wg p
  if 8 ≤ p then d
  else if v.getLsbD 3 && w.st != 0 then (d.updWg p (fun w => { w with release := true })).tryRelease p
  else if v.getLsbD 4 then d.walingArm p v
  else if w.st != 0 || !Wg.ctrlOk h v then d.ignReg 0x09 (Dev.wgOff p 0)
  else d.setWg p (w.withCtrl v)

/-- WALING_RELEASE: RSE_WGp_CTRL with RELEASE. -/
def execWalingRelease (p : Nat) (v : W64) (s : State) := onDev (fun d => if v.getLsbD 3 then d.wgCtrl p ones64 v else d) s

/-! Chains of a rebuild (12 R417, R420). -/

/-- Ranks that cannot contribute: LOST or REBUILDING. -/
def Wg.missing (w : Wg) : List Nat := (List.range w.size).filter (fun r => w.lostMask.getLsbD r || w.rebuildMask.getLsbD r)

/-- Chains that a stripe needs for the rank l: 0 for P, 1 for Q. -/
def Wg.chainsOf (w : Wg) (s l : Nat) : List Nat :=
  let gone := (w.missing.filter (fun r => r != l)).filter (fun r => w.qRank s != some r || w.qRank s = some l)
  let pGone := gone.contains (w.pRank s)
  let dGone := gone.any (fun r => (w.dataRanks s).contains r)
  if w.qRank s = some l then (if dGone then [0, 1] else [1])
  else if w.pRank s = l then (if dGone then [0, 1] else [0])
  else if pGone then [1] else if dGone then [0, 1] else [0]

/-- Ranks that contribute to a chain of a stripe, in ascending order: its data members and its own parity, where they are there. -/
def Wg.chainRanks (w : Wg) (s l chain : Nat) : List Nat :=
  let here := (List.range w.size).filter (fun r => !w.missing.contains r && r != l)
  here.filter (fun r => (w.dataRanks s).contains r || (chain = 0 && w.pRank s = r) || (chain = 1 && w.qRank s = some r))

/-- This member's contribution to a chain of a stripe: its BASE data unit or its BASE parity unit. -/
def Dev.contribution (d : Dev) (w : Wg) (s chain k : Nat) : List W8 :=
  match w.holds s with
  | some q => if q == (chain == 1) then d.vreadNew w.context (w.parityAt w.side s q + 65536 * k) 65536 else zeros64k
  | none =>
    let u := w.unitOf s w.rank
    let b := if u < w.shardUnits then d.pieceIn w w.base u k else zeros64k
    if chain = 1 then scaleBytes (gfPow (w.dataIdx s w.rank)) b else b

/-- Does the read of a contribution meet an uncorrectable error? -/
def Dev.contribBad (d : Dev) (w : Wg) (s chain k : Nat) : Bool :=
  match w.holds s with
  | some q => q == (chain == 1) && d.vbad w.context (w.parityAt w.side s q + 65536 * k) 65536
  | none => decide (w.unitOf s w.rank < w.shardUnits) && d.pieceBad w w.base (w.unitOf s w.rank) k

/-- Adds this member's contribution to a running combination and passes it to the next rank, the last one to the spare; TAG names
the rank being rebuilt (log 47). -/
def Dev.passOn (d : Dev) (p l s k chain : Nat) (acc : List W8) : Dev :=
  let w := d.wg p
  if d.contribBad w s chain k then d.loseUncorr w.context else
  let x := xorBytes acc (d.contribution w s chain k)
  let next := ((w.chainRanks s l chain).find? (fun r => decide (w.rank < r))).getD l
  let m := d.member w next
  d.send 0x3B (memMod m) (memPart m) p l (w.args [(4, s), (1, k), (1, chain)]) x

/-- A survivor starts every combination of which it is the first contributor, stripe by stripe. -/
def Dev.startChains (d : Dev) (p l : Nat) : Dev :=
  let w := d.wg p
  (List.range w.stripes).foldl (fun (d : Dev) s => (w.chainsOf s l).foldl (fun (d : Dev) c =>
    if (w.chainRanks s l c).head? = some w.rank then (List.range 16).foldl (fun (d : Dev) k => d.passOn p l s k c zeros64k) d else d) d) d

/-! The loss of a member (12 R414, R415, R420). -/

def popcount16 (x : BitVec 16) : Nat := ((List.range 16).filter (fun k => x.getLsbD k)).length

/-- T of a lost rank as its holder knows it: the last round whose ROUND entry it holds (12 R415). -/
def Wg.heldT (w : Wg) (r : Nat) : Nat := ((w.holdEnts.filter (fun e => e.1 = r && e.2.ty = 1)).map (fun e => e.2.round)).foldl max 0

/-- Ranks whose rebuild this member's journal has as IN_PROGRESS (12 R417, R420). -/
def Dev.rebuilding (d : Dev) (w : Wg) : List Nat :=
  (List.range w.size).filter (fun l => l != w.rank && w.rebuildMask.getLsbD l && d.rse.journals.any (fun j => j.walingId = w.walingId && j.rank = l && !j.complete))

/-- A rank of the slot of partition p is lost. Rebuilds that can go on with one more rank missing start again for what is not yet solved (12 R420). -/
def Dev.walingLoss (d : Dev) (p r : Nat) : Dev :=
  let w := d.wg p
  if !w.armed || w.size ≤ r || r = w.rank || w.lostMask.getLsbD r then d else
  let d := d.setMember w r (memMod (d.member w r) + 4096 * memPart (d.member w r) + 2 ^ 15)
  let d := d.snapDiscard p
  let d := d.updWg p (fun w => { w with lostMask := w.lostMask ||| (1#16 <<< r), rebuildMask := w.rebuildMask &&& ~~~(1#16 <<< r), epoch := w.epoch + 1,
                                        t := if w.holders.isEmpty then w.t else if (w.heldT r) = 0 then w.t else w.heldT r })
  let d := d.event 0x02 p r w.walingId
  let w := d.wg p
  let d := if w.np < popcount16 (w.lostMask ||| w.rebuildMask) then
      d.updWg p (fun w => { w with st := 4, rstate := if w.rstate = 1 || w.rstate = 2 then 3 else w.rstate, rebuild := none })
    else (d.rebuilding w).foldl (fun (d : Dev) l => d.startChains p l)
      (d.updWg p (fun w => { w with rebuild := w.rebuild.map (fun rb => { rb with parts := [], asked := rb.asked.filter (fun x => x != r), fetch := rb.fetch.del r }) }))
  d.tryRelease p

/-! Snapshots (12 R401 to R405). -/

/-- Units this member has to receive and combine: (stripe, source rank). -/
def Wg.expects (w : Wg) : List (Nat × Nat) :=
  (List.range w.stripes).flatMap (fun s => if (w.holds s).isNone then [] else ((w.dataRanks s).filter (fun r => decide (w.unitOf s r < w.shardUnits))).map (fun r => (s, r)))

/-- Has a source's unit of a stripe been combined whole? -/
def Snap.whole (sn : Snap) (s r : Nat) : Bool := (List.range 16).all (fun k => sn.pieces.contains (s, r, k))

/-- Commits the snapshot of round r at this member (12 R404). -/
def Dev.snapCommit (d : Dev) (p r : Nat) : Dev :=
  let w := d.wg p
  match w.snap with
  | none => d
  | some sn =>
    if sn.round != r || !sn.frozen then d else
    let keep (e : LogEnt) : Bool := decide (r < e.round)
    let d := d.updWg p (fun w => { w with
      base := w.snapAt, snapAt := [], side := 1 - w.side, baseRound := BitVec.ofNat 64 r, st := if w.st = 2 then 1 else w.st, snap := none,
      logEnts := w.logEnts.filter keep, holdEnts := w.holdEnts.filter (fun e => keep e.2) })
    let d := w.base.foldl (fun (d : Dev) e => d.dropCopy p e.1 e.2) d
    ({ d with rse := { d.rse with committed := wrapAdd 24 d.rse.committed 1 } } : Dev).tryRelease p

/-- The leader commits once every member is done. -/
def Dev.leaderCommit (d : Dev) (p : Nat) : Dev :=
  let w := d.wg p
  match w.snap with
  | none => d
  | some sn =>
    if w.leader != w.rank || !(List.range w.size).all (fun r => sn.dones.contains r) then d else
    (d.sendRanks p w w.others 0x36 [(1, 1), (8, sn.round)]).snapCommit p sn.round

/-- SNAP_DONE once every unit is shipped and every received one combined and acknowledged (12 R403). -/
def Dev.snapCheck (d : Dev) (p : Nat) : Dev :=
  let w := d.wg p
  match w.snap with
  | none => d
  | some sn =>
    if sn.sentDone || !sn.drained || !sn.unacked.isEmpty || !w.expects.all (fun e => sn.whole e.1 e.2) then d else
    let d := d.updWg p (fun w => { w with snap := some { sn with sentDone := true, dones := if w.leader = w.rank then w.rank :: sn.dones else sn.dones } })
    if w.leader = w.rank then d.leaderCommit p else d.sendRank p w w.leader 0x36 [(1, 0), (8, sn.round)] []

/-- SNAP_DRAIN_START: once every update command of round R or earlier has retired, every unit of the shard is shipped in its SNAP
form to the parity holders of its stripe (12 R402, R403). Sub-pages on their way to local memory are awaited. -/
def Dev.shipStart (d : Dev) (p : Nat) : Dev :=
  let w := d.wg p
  match w.snap with
  | none => d
  | some sn =>
    let open_ := d.cmdsIn p (fun c => c.opc = 2 && c.inflight && decide (c.round ≤ sn.round))
    if d.ctxLost w.context || !sn.frozen || sn.drained || !open_.isEmpty || w.prot.any (fun o => (d.osub o).st == .far || (d.osub o).st == .inbound || (d.osub o).st == .migrating) then d else
    let jobs := (List.range w.stripes).flatMap (fun s =>
      if (w.dataRanks s).contains w.rank && w.unitOf s w.rank < w.shardUnits then (w.pRank s :: (w.qRank s).toList).map (fun h => (s, h)) else [])
    let d := jobs.foldl (fun (d : Dev) j => (List.range 16).foldl (fun (d : Dev) k =>
      if d.pieceBad w w.snapAt (w.unitOf j.1 w.rank) k then d.loseUncorr w.context
      else d.sendRank p w j.2 0x34 [(4, j.1), (1, k)] (d.pieceIn w w.snapAt (w.unitOf j.1 w.rank) k)) d) d
    (d.updWg p (fun w => { w with snap := some { sn with drained := true, unacked := jobs } })).snapCheck p

def execSnapDrainStart (p : Nat) (s : State) := onDev (fun d => d.shipStart p) s

/-- A shipped piece is combined into the SNAP side; a unit combined whole is acknowledged (12 R403, R408). -/
def Dev.shipIn (d : Dev) (p r s k : Nat) (data : List W8) : Dev :=
  let w := d.wg p
  match w.snap, w.holds s with
  | some sn, some q =>
    if w.stripes ≤ s || 16 ≤ k || !(w.dataRanks s).contains r || sn.pieces.contains (s, r, k) then d else
    let va := w.parityAt (1 - w.side) s q + 65536 * k
    if d.vbad w.context va 65536 then d.loseUncorr w.context else
    let term := if q then scaleBytes (gfPow (w.dataIdx s r)) data else data
    let d := d.engWrite w.context (d.leadOf p) va (xorBytes (d.vreadNew w.context va 65536) term)
    let sn : Snap := { sn with pieces := (s, r, k) :: sn.pieces }
    let d := d.updWg p (fun w => { w with snap := some sn })
    let d := if sn.whole s r then d.sendRank p w r 0x35 [(4, s)] [] else d
    d.snapCheck p
  | _, _ => d

/-! The log at its holders (12 R412). -/

/-- Holds a whole entry of an owner in the holding ring and acknowledges it. -/
def Dev.holdEntry (d : Dev) (p owner seq : Nat) (e : List W8) : Dev :=
  let w := d.wg p
  let d := if w.holdEnts.any (fun x => x.1 = owner && x.2.seq = seq) then d else
    (d.ringWrite w.context (d.leadOf p) (Wg.ringVa w.hold) (Wg.ringBytes w.hold) w.holdPos e).updWg p (fun w => { w with
      holdPos := w.holdPos + e.length,
      holdEnts := w.holdEnts ++ [(owner, ⟨seq, leNat ((e.drop 8).take 8), (e.getD 0 0).toNat, w.holdPos, e.length, []⟩)] })
  d.sendRank p w owner 0x39 [(1, owner), (8, seq)] []

/-- LENGTH of an entry whose first bytes are there. -/
def entryLen (e : List W8) : Nat := leNat ((e.drop 4).take 4)

/-- The spare takes a fetched entry into its own log ring (12 R417). -/
def Dev.fetchedEntry (d : Dev) (p seq : Nat) (e : List W8) : Dev :=
  let w := d.wg p
  if w.logEnts.any (fun x => x.seq = seq) then d else
  let round := leNat ((e.drop 8).take 8)
  let d := (d.ringWrite w.context (d.leadOf p) (Wg.ringVa w.log) (Wg.ringBytes w.log) w.logPos e).updWg p (fun w => { w with
    logPos := w.logPos + e.length, logSeq := max w.logSeq (seq + 1),
    logEnts := w.logEnts ++ [⟨seq, round, (e.getD 0 0).toNat, w.logPos, e.length, w.holders⟩] })
  d.updWg p (fun w => { w with t := if (e.getD 0 0).toNat = 1 then max w.t round else w.t })

/-- A LOG_DATA packet of rank h: the entry of an owner, or a part of it (12 R410, R412, R417). Sixteen bytes of data end a holder's answer to
LOG_FETCH: its BASE_ROUND and T (log 47). -/
def Dev.logDataIn (d : Dev) (p h owner seq : Nat) (x : List W8) : Dev :=
  let w := d.wg p
  if owner = w.rank then
    match w.rebuild with
    | none => d
    | some rb =>
      if x.length = 16 then d.updWg p (fun w => { w with
        rebuild := some { rb with asked := rb.asked.filter (fun r => r != h) }
        baseRound := BitVec.ofNat 64 (leNat (x.take 8))
        t := max w.t (leNat (x.drop 8)) }) else
      let sofar := match rb.fetch.get? h with
        | some f => if f.1 = seq then f.2 else []
        | none => []
      let e := sofar ++ x
      if e.length < entryLen e then d.updWg p (fun w => { w with rebuild := some { rb with fetch := rb.fetch.set h (seq, e) } })
      else (d.updWg p (fun w => { w with rebuild := some { rb with fetch := rb.fetch.del h } })).fetchedEntry p seq (e.take (entryLen e))
  else
    let sofar := ((w.holdPart.find? (fun h => h.1 = owner && h.2.1 = seq)).map (fun h => h.2.2)).getD []
    let rest := w.holdPart.filter (fun h => !(h.1 = owner && h.2.1 = seq))
    let e := sofar ++ x
    if e.length < entryLen e then d.updWg p (fun w => { w with holdPart := rest ++ [(owner, seq, e)] })
    else (d.updWg p (fun w => { w with holdPart := rest })).holdEntry p owner seq (e.take (entryLen e))

/-- A holder sends the entries it holds of an owner, in the rounds asked for and up to T, to a spare, and then what ends its answer (12 R415,
R417; log 47). -/
def Dev.logFetchIn (d : Dev) (p owner first last m mp : Nat) : Dev :=
  let w := d.wg p
  let top := min last (w.heldT owner)
  let d := (w.holdEnts.filter (fun e => e.1 = owner && decide (first ≤ e.2.round) && decide (e.2.round ≤ top))).foldl (fun (d : Dev) e =>
    if d.ringBad w.context (Wg.ringVa w.hold) (Wg.ringBytes w.hold) e.2.off e.2.len then d.loseUncorr w.context else
    let b := d.ringRead w.context (Wg.ringVa w.hold) (Wg.ringBytes w.hold) e.2.off e.2.len
    (cutData (b.length / 65536 + 2) b).foldl (fun (d : Dev) x => d.send 0x38 m mp p 0 (w.args [(1, owner), (8, e.2.seq)]) x) d) d
  let next := ((w.holdEnts.filter (fun e => e.1 = owner)).map (fun e => e.2.seq + 1)).foldl max 0
  d.send 0x38 m mp p 0 (w.args [(1, owner), (8, next)]) (leBytes 8 w.baseRound.toNat ++ leBytes 8 (max w.baseRound.toNat (w.heldT owner)))

/-! The spare (12 R416 to R420). -/

/-- What the lost rank's own unit is, from the combinations of its stripe (12 R408, R417, R420). -/
def Wg.solve (w : Wg) (s : Nat) (pc qc : List W8) : List W8 :=
  let l := w.rank
  let other := (w.missing.filter (fun r => r != l)).find? (fun r => (w.dataRanks s).contains r)
  let chains := w.chainsOf s l
  if w.qRank s = some l then
    match other with
    | some b => xorBytes qc (scaleBytes (gfPow (w.dataIdx s b)) pc)
    | none => qc
  else if w.pRank s = l then
    match other with
    | some b => xorBytes pc (scaleBytes (gfInvPow (w.dataIdx s b)) qc)
    | none => pc
  else if chains == [1] then scaleBytes (gfInvPow (w.dataIdx s l)) qc
  else match other with
    | none => pc
    | some o =>
      let a := min (w.dataIdx s l) (w.dataIdx s o)
      let b := max (w.dataIdx s l) (w.dataIdx s o)
      let den := gfInv ((gfPow (b - a)) ^^^ 1)
      let da := scaleBytes den (xorBytes (scaleBytes (gfPow (b - a)) pc) (scaleBytes (gfInvPow a) qc))
      if w.dataIdx s l = a then da else xorBytes pc da

/-- Writes a solved piece: BASE and LIVE of the shard, or the BASE side of the parity area. -/
def Dev.writePiece (d : Dev) (p s k : Nat) (x : List W8) : Dev :=
  let w := d.wg p
  let t := d.leadOf p
  match w.holds s with
  | some q => d.engWrite w.context t (w.parityAt w.side s q + 65536 * k) x
  | none =>
    let u := w.unitOf s w.rank
    match unitVa w.regs u, d.pieceSub w u k with
    | some va, some o =>
      let d := d.engWrite w.context t (va + 65536 * k) x
      if (d.osub o).st == .local then d.updWg p (fun w => { w with base := w.base ++ [(o, (d.osub o).loc)] }) else d
    | _, _ => d

/-- Every stripe is written: COMPLETE to the survivors, then replay (12 R417, step 5). -/
def Dev.stripesEnd (d : Dev) (p : Nat) : Dev :=
  let w := d.wg p
  if w.stripesDone < w.stripes then d else
  let d := d.sendRanks p w w.others 0x3C [(1, w.rank), (2, d.hid.moduleId), (1, 1)]
  let d : Dev := { d with rse := { d.rse with rebuilds := satAdd 0xFF d.rse.rebuilds 1 } }
  d.updWg p (fun w => { w with rstate := 2 })

/-- A REBUILD_PART packet for the rank l: passed on, or at the spare solved and written once its chains are all there. -/
def Dev.partIn (d : Dev) (p l s k c : Nat) (x : List W8) : Dev :=
  let w := d.wg p
  if l != w.rank then (if (w.chainRanks s l c).contains w.rank then d.passOn p l s k c x else d) else
  match w.rebuild with
  | none => d
  | some rb =>
    if w.rstate != 1 || w.stripes ≤ s || 16 ≤ k || rb.solved.contains (s, k) then d else
    let parts := (s, k, c, x) :: rb.parts.filter (fun y => !(y.1 = s && y.2.1 = k && y.2.2.1 = c))
    let got (c : Nat) : Option (List W8) := (parts.find? (fun y => y.1 = s && y.2.1 = k && y.2.2.1 = c)).map (fun y => y.2.2.2)
    if !(w.chainsOf s l).all (fun c => (got c).isSome) then d.updWg p (fun w => { w with rebuild := some { rb with parts := parts } }) else
    let d := d.writePiece p s k (w.solve s ((got 0).getD zeros64k) ((got 1).getD zeros64k))
    let rb : Rebuild := { rb with parts := parts.filter (fun y => !(y.1 = s && y.2.1 = k)), solved := (s, k) :: rb.solved }
    let whole := (List.range 16).all (fun k => rb.solved.contains (s, k))
    (d.updWg p (fun w => { w with rebuild := some rb, stripesDone := if whole then w.stripesDone + 1 else w.stripesDone })).stripesEnd p

/-- LOG_FETCH of every entry of a rank, to one of its holders: the spare does not know BASE_ROUND and T, the holder answers from BASE_ROUND + 1 to
T (12 R417; log 47). -/
def Dev.sendFetch (p : Nat) (d : Dev) (h : Nat) : Dev :=
  let w := d.wg p
  let m := d.member w h
  let k : Pkt := { ty := 0x3A, flags := 0, dest := BitVec.ofNat 16 (memMod m + 4096 * memPart m), src := BitVec.ofNat 16 (d.hid.moduleId + 4096 * p),
                   hops := 0, tag := 0, args := w.args [(1, w.rank), (8, 0)], inl := leBytes 8 (2 ^ 64 - 1), data := [] }
  if !d.fab.routeEn then d
  else if memMod m = d.hid.moduleId then { d with fab := { d.fab with inbox := d.fab.inbox ++ [(15, k)] } }
  else d.route false none k

/-- REBUILD_GO: RSE_WGp_REBUILD written with GO on the spare; a second one starts from stripe 0, BASE copies that are not LIVE go back to the
pool (12 R400, R417, R422). -/
def Dev.rebuildGo (d : Dev) (p : Nat) (v : W64) : Dev :=
  let w := d.wg p
  if !v.getLsbD 2 || !w.armed || !w.rebuildMask.getLsbD w.rank then d else
  let hs := w.holders.filter (fun r => !w.missing.contains r)
  let d := d.updWg p (fun w => { w with st := 3, rstate := 1, stripesDone := 0, base := [], logPos := 0, logEnts := [], logSeq := 0, t := 0,
                                        rebuild := some ⟨[], [], [], hs⟩ })
  let d := w.base.foldl (fun (d : Dev) e => d.dropCopy p e.1 e.2) d
  let d := d.sendRanks p w (w.others.filter (fun r => !w.missing.contains r)) 0x3C [(1, w.rank), (2, d.hid.moduleId), (1, 0)]
  hs.foldl (Dev.sendFetch p) d

def execRebuildGo (p : Nat) (v : W64) (s : State) := onDev (fun d => d.rebuildGo p v) s

/-- An UPDATE entry as the descriptor that replays it, with its operands in the log ring at an address (12 R418). -/
def replayDesc (e : List W8) (va : Nat) : List W8 :=
  let x := (e.drop 64).take 0x90
  let ctl := ud x 0 8
  let ctl := ctl - (if ctl / 2 ^ 34 % 2 = 1 then 2 ^ 34 else 0) - (if ctl / 2 ^ 35 % 2 = 1 then 2 ^ 35 else 0)
  let ctl := ctl + (if ctl / 4 % 2 = 1 then 0 else 4) + (if ctl / 8 % 2 = 1 then 0 else 8)
  let idx := va + 64 + 0xA0
  let signs := idx + (if uEmb x then 4 * uCount x else 0)
  let round := leNat ((e.drop 8).take 8)
  let step := leNat ((e.drop 24).take 8)
  leBytes 8 ctl ++ (x.drop 8).take 16 ++ leBytes 8 signs ++ (x.drop 0x20).take 16 ++ leBytes 8 (if uEmb x then idx else uIdx x) ++ (x.drop 0x38).take 32
    ++ leBytes 8 step ++ (x.drop 0x60).take 0x28 ++ leBytes 8 round

/-- Applies one logged update (12 R418). -/
def Dev.replayEntry (d : Dev) (p : Nat) (w : Wg) (le : LogEnt) : Dev :=
  if d.ringBad w.context (Wg.ringVa w.log) (Wg.ringBytes w.log) le.off le.len then d.loseUncorr w.context else
  let e := d.ringRead w.context (Wg.ringVa w.log) (Wg.ringBytes w.log) le.off le.len
  let x := replayDesc e (Wg.ringVa w.log + le.off % Wg.ringBytes w.log)
  let f (lo : Nat) : W32 := BitVec.ofNat 32 (leNat ((e.drop lo).take 4))
  let u : UpdCtx := { x := x, eta := f 0x20, beta := f 0x24, lam := f 0x28, t := leNat ((e.drop 24).take 8), round := BitVec.ofNat 64 le.round,
                       ring := (Wg.ringVa w.log, Wg.ringBytes w.log) }
  let ents := if uEmb x then d.updEnts w.context x u.ring u.t else []
  if (updBlocks x ents).any (fun b => (d.blkBad w.context x b).isSome) then d.loseUncorr w.context else
  let r := d.applyBlocks w.context u false (d.leadOf p) (fun _ => none) (updBlocks x ents)
  r.1.rowCounts w.context u false (d.leadOf p) ents r.2.2

/-- Insertion of an entry by round, then SEQ. -/
def insEnt (e : LogEnt) : List LogEnt → List LogEnt
  | [] => [e]
  | x :: t => if e.round < x.round || (e.round = x.round && e.seq < x.seq) then e :: x :: t else x :: insEnt e t

/-- May a replay run: the stripes written, the log fetched whole, the partition running, no write of the context waiting and no retraining window
open on its stacks (12 R417, R418, R422; 08 R299)? -/
def Dev.replayReady (d : Dev) (p : Nat) (w : Wg) : Bool :=
  w.rstate = 2 && (w.rebuild.map (fun rb => rb.asked.isEmpty)).getD false && !d.rstc.coreStep && !d.mem.waiting.any (fun x => x.ctx = w.context)
  && ((d.parts.get? p).map (fun u => !u.tiles.any (fun t => (d.tile t).retraining))).getD false

/-- REBUILD_REPLAY: the fetched entries up to round T are applied in round order, then SEQ order. -/
def Dev.rebuildReplay (d : Dev) (p : Nat) : Dev :=
  let w := d.wg p
  if !d.replayReady p w then d else
  let l := (w.logEnts.filter (fun e => e.ty = 2 && decide (e.round ≤ w.t))).foldl (fun l e => insEnt e l) []
  let d := l.foldl (fun (d : Dev) e => d.replayEntry p w e) d
  (d.updWg p (fun w => { w with rstate := 0, rebuild := none })).tryRelease p

/-- CORERST during a replay: LIVE copies are discarded, LIVE is BASE again (12 R422, Table 12-2). -/
def Dev.replayDiscard (d : Dev) (p : Nat) : Dev :=
  let w := d.wg p
  if w.rstate != 2 then d else
  w.base.foldl (fun (d : Dev) e =>
    let s := d.osub e.1
    if !(s.st == .local) || s.loc = e.2 then d else
    ((d.freeSub s.loc).updSub e.1 (fun s => { s with loc := e.2 })).updWg p (fun w => { w with poolLeft := w.poolLeft + 1 })) d

def execRebuildReplay (p : Nat) (s : State) := onDev (fun d => d.rebuildReplay p) s

/-- JOINED: the rebuilt member tells every member (12 R419, step 4). -/
def Dev.joined (d : Dev) (p : Nat) (v : W64) : Dev :=
  let w := d.wg p
  if !v.getLsbD 3 || w.st != 3 || w.rstate != 0 then d else
  let d := d.setMember w w.rank (memMod (d.member w w.rank) + 4096 * memPart (d.member w w.rank))
  let d := d.updWg p (fun w => { w with st := 1, joining := false, rebuildMask := w.rebuildMask &&& ~~~(1#16 <<< w.rank) })
  let w := d.wg p
  w.others.foldl (fun (d : Dev) r => d.sendWhello p w r) d

def execJoined (p : Nat) (v : W64) (s : State) := onDev (fun d => d.joined p v) s

/-- SUBST: on a survivor a lost rank's entry is replaced by the spare's (12 R416); the spare learns the EPOCH from a WHELLO (log 48). -/
def Dev.subst (d : Dev) (p : Nat) (v : W64) : Dev :=
  let w := d.wg p
  let r := bits v 16 4
  if !v.getLsbD 31 then d else
  if !w.armed || !w.lostMask.getLsbD r then d.ignReg 0x09 (Dev.wgOff p 0x58) else
  let d := d.setMember w r (bits v 0 15 + 2 ^ 16)
  let d := d.updWg p (fun w => { w with subst := v.truncate 32 &&& 0x000F7FFF#32, epoch := w.epoch + 1, lostMask := w.lostMask &&& ~~~(1#16 <<< r),
                                        rebuildMask := w.rebuildMask ||| (1#16 <<< r), digested := w.digested.filter (fun k => k != r) })
  d.sendWhello p (d.wg p) r

def execSubst (p : Nat) (v : W64) (s : State) := onDev (fun d => d.subst p v) s

/-! Packets. -/

/-- WHELLO: digests are compared; the first from a rank is answered; from a rank that is REBUILDING it ends that (12 R406, R419). -/
def Dev.whelloIn (d : Dev) (p m digest r : Nat) : Dev :=
  let w := d.wg p
  if digest != (d.wgDigest w).toNat then d.updWg p (fun w => { w with st := 4 }) else
  let d := d.updWg p (fun w => { w with heard := (m :: w.heard).eraseDups })
  let d := if r != w.rank && w.rebuildMask.getLsbD r then
      (d.setMember w r (memMod (d.member w r) + 4096 * memPart (d.member w r))).updWg p (fun w => { w with rebuildMask := w.rebuildMask &&& ~~~(1#16 <<< r) })
    else d
  if w.rebuildMask.getLsbD w.rank then d else
  if w.digested.contains r then d else (d.updWg p (fun w => { w with digested := r :: w.digested })).sendWhello p (d.wg p) r

/-- JOURNAL: a rebuild is recorded; one that begins makes its rank REBUILDING and the survivors contribute (12 R417; log 44). -/
def Dev.journalIn (d : Dev) (p r dest state : Nat) : Dev :=
  let w := d.wg p
  let l := d.rse.journals.filter (fun j => !(j.walingId = w.walingId && j.rank = r))
  let d : Dev := { d with rse := { d.rse with journals := l ++ [⟨w.walingId, r, dest, state = 1⟩] } }
  if state = 1 then d else
  let again := w.rebuildMask.getLsbD r
  let d := if again then d else
    (d.setMember w r (memMod (d.member w r) + 4096 * memPart (d.member w r) + 2 ^ 16)).updWg p (fun w => { w with rebuildMask := w.rebuildMask ||| (1#16 <<< r) })
  if again then d.startChains p r else d.snapDiscard p

end Sys2Proof.Machine
end

