-- ==== Sys2Proof/Machine/Tx.lean ====
section
/-! DEFINITION. Frames sent by a hoop port (11 R358 to R362, R373): flits of packets, the choice of each slot, credits, replay. -/

namespace Sys2Proof.Machine

/-- Buffer class of a packet by its flags: 0 A, 1 B, 2 D. -/
def Pkt.cls (k : Pkt) : Nat := if k.flags.getLsbD 1 then 2 else if k.flags.getLsbD 2 then 1 else 0

def padTo (n : Nat) (l : List W8) : List W8 := l.take n ++ List.replicate (n - l.length) 0

/-- The header flit (11 Table 11-2). -/
def Pkt.headFlit (k : Pkt) : List W8 :=
  leBytes 1 k.ty ++ [k.flags] ++ leBytes 2 k.dest.toNat ++ leBytes 2 k.src.toNat ++ leBytes 1 k.hops ++ leBytes 1 0
    ++ leBytes 2 (ceilDiv k.data.length 256) ++ leBytes 2 k.inl.length ++ leBytes 4 k.tag.toNat ++ leBytes 16 k.args.toNat ++ padTo 224 k.inl

/-- Flits of a packet: the header and its data flits (11 R360). -/
def Pkt.flits (k : Pkt) : Nat := 1 + ceilDiv k.data.length 256
def Pkt.flit (k : Pkt) (j : Nat) : List W8 := if j = 0 then Pkt.headFlit k else padTo 256 ((k.data.drop (256 * (j - 1))).take 256)

/-- The time record that this module sends: its copy, and the source it follows; none is offered without a source (11 R359, R376). -/
def Dev.ownTimeRec (d : Dev) : List W8 :=
  let f := d.fab
  let prio := if f.sourceId = 0xFFF then 0 else if f.sourceId = d.hid.moduleId then f.priority
    else (((f.port f.upstream).timeRec).map (fun r => r.prio)).getD 0
  leBytes 8 d.clk.now ++ leBytes 2 f.hops ++ leBytes 1 prio ++ leBytes 1 f.st ++ leBytes 4 f.sourceId

/-! The choice of a flit (11 R373). `shares` keeps the slots that forwarded and own flits had while both waited, and the slots each share below
has had since the set of waiting shares of its level last changed. -/

/-- Shares of one level, numbered from lo: where another set waits now, all start again. -/
def levelShares (sh : Tbl Nat) (lo n : Nat) (keys : List Nat) : Tbl Nat :=
  let had := (sh.filter (fun kv => decide (lo ≤ kv.1) && decide (kv.1 < lo + n))).map (fun kv => kv.1)
  if had = keys then sh else keys.foldl (fun (t : Tbl Nat) k => t.set k 0) (sh.filter (fun kv => !(decide (lo ≤ kv.1) && decide (kv.1 < lo + n))))

/-- The waiting share that has had least for its weight, the first of equals. -/
def leastShare (sh : Tbl Nat) (w : Nat → Nat) : List Nat → Option Nat
  | [] => none
  | k :: t => match leastShare sh w t with
    | none => some k
    | some j => if sh.getD k 0 * w j ≤ sh.getD j 0 * w k then some k else some j

/-- Forwarded against own, keys 1 and 0: while both wait, own flits take a slot only where forwarded ones keep FWD_SHARE/256 of all such slots. -/
def HPort.side (h : HPort) (own fwd : Bool) : HPort × Nat :=
  if !(own && fwd) then (h, if fwd then 1 else 0) else
  let o := h.shares.getD 0 0
  let f := h.shares.getD 1 0
  let k := if bits h.arb 24 8 * (o + f + 1) ≤ 256 * f then 0 else 1
  ({ h with shares := h.shares.set k (h.shares.getD k 0 + 1) }, k)

/-- Weights of the shares below: forwarded channel 10 + VC; own channel 20 + VC; partition 30 + 8 * VC + p. -/
def HPort.weight (h : HPort) (vcw : Nat → Nat → Nat) (k : Nat) : Nat :=
  if k < 20 then bits h.arb (8 * (k - 10)) 8 else if k < 30 then 1 else vcw ((k - 30) % 8) ((k - 30) / 8)

/-- One level of the choice: the share taken, with what it has had counted. -/
def HPort.level (h : HPort) (vcw : Nat → Nat → Nat) (lo n : Nat) (keys : List Nat) : HPort × Nat :=
  let sh := levelShares h.shares lo n keys
  let k := (leastShare sh (h.weight vcw) keys).getD lo
  ({ h with shares := sh.set k (sh.getD k 0 + 1) }, k)

/-- May a waiting packet send its next flit: credit is there, no other packet of its VC is under way, none of its own share waits before it? -/
def HPort.ready (h : HPort) (i : Nat) (t : TxPkt) : Bool :=
  decide (0 < h.credits.getD (3 * t.vc + t.cls) (poolSize (3 * t.vc + t.cls))) && (h.carries || t.vc = 3)
    && (0 < t.sent || (!h.txq.any (fun u => u.vc = t.vc && decide (0 < u.sent))
      && !(h.txq.take i).any (fun u => u.vc = t.vc && u.cls = t.cls && u.fwd = t.fwd && u.pkt.srcPart = t.pkt.srcPart)))

/-- The position in the transmit queue of the packet whose flit takes slot i. CTRL goes first, in one slot of eight while others wait. -/
def HPort.choose (h : HPort) (vcw : Nat → Nat → Nat) (i : Nat) : HPort × Option Nat :=
  let c := (h.txq.zipIdx.filter (fun x => h.ready x.2 x.1))
  let ctrl := c.filter (fun x => x.1.vc = 3)
  let rest := c.filter (fun x => x.1.vc != 3)
  if !ctrl.isEmpty && (i % 8 = 0 || rest.isEmpty) then (h, ctrl.head?.map (fun x => x.2))
  else if rest.isEmpty then (h, none) else
  let (h, side) := h.side (rest.any (fun x => !x.1.fwd)) (rest.any (fun x => x.1.fwd))
  let l := rest.filter (fun x => x.1.fwd = (side = 1))
  let base := if side = 1 then 10 else 20
  let (h, vk) := h.level vcw base 3 (([0, 1, 2].filter (fun v => l.any (fun x => x.1.vc = v))).map (fun v => base + v))
  let l := l.filter (fun x => x.1.vc = vk - base)
  if side = 1 then (h, l.head?.map (fun x => x.2)) else
  let lo := 30 + 8 * (vk - base)
  let (h, pk) := h.level vcw lo 8 (((List.range 8).filter (fun q => l.any (fun x => x.1.pkt.srcPart = q))).map (fun q => lo + q))
  (h, (l.find? (fun x => x.1.pkt.srcPart = pk - lo)).map (fun x => x.2))

/-- Takes the next flit of the packet at position j: its channel, its bytes. A packet whose last flit goes leaves the queue. -/
def HPort.takeFlit (h : HPort) (j : Nat) : HPort × Option (Nat × List W8) :=
  match h.txq[j]? with
  | none => (h, none)
  | some t =>
    let pool := 3 * t.vc + t.cls
    let q := if Pkt.flits t.pkt ≤ t.sent + 1 then h.txq.eraseIdx j else h.txq.set j { t with sent := t.sent + 1 }
    ({ h with txq := q, credits := h.credits.set pool (h.credits.getD pool (poolSize pool) - 1),
              tx := h.tx.set t.vc (wrapAdd 64 (h.tx.getD t.vc 0) 1), fwdFlits := h.fwdFlits + (if t.fwd then 1 else 0) },
     some (t.vc, Pkt.flit t.pkt t.sent))

/-- Fills slots from i on. -/
def HPort.fill (vcw : Nat → Nat → Nat) (idle15 : Bool) : Nat → Nat → HPort → HPort × List (Option (Nat × List W8))
  | 0, _, h => (h, [])
  | n + 1, i, h =>
    let (h, x) := if idle15 && i = 15 then (h, none) else
      (let (h, j) := h.choose vcw i
       match j with
       | some j => h.takeFlit j
       | none => (h, none))
    let (h, l) := HPort.fill vcw idle15 n (i + 1) h
    (h, x :: l)

/-- A control word under its CRC (11 Table 11-1). -/
def sealFrame (slots : List W8) (w : Nat) : List W8 :=
  let b := slots ++ leBytes 12 w
  b ++ leBytes 4 (crc32 b).toNat

/-- A frame sent again, with the acknowledgement of now. -/
def HPort.again (h : HPort) (fr : List W8) : List W8 :=
  let w := leNat ((fr.drop 4096).take 12)
  let w := w - (w / 2 ^ 64 % 2 ^ 16) * 2 ^ 64 + h.rxGood * 2 ^ 64
  sealFrame (fr.take 4096) (w - (w / 8 % 2) * 8 + (if h.nak then 8 else 0))

/-- The pool whose owed credit the next control word returns: the one most is owed to. -/
def HPort.owedPool (h : HPort) : Option (Nat × Nat) :=
  h.owed.foldl (fun (b : Option (Nat × Nat)) kv => if kv.2 = 0 then b else match b with
    | some x => if x.2 < kv.2 then some kv else b
    | none => some kv) none

/-- A new frame of port p: none while 256 frames wait to be acknowledged (11 R362). -/
def Dev.newFrame (d : Dev) (p : Nat) : Dev :=
  let h := d.fab.port p
  if !d.blockUp p || !(h.on || h.st == .hello) || 256 ≤ h.replay.length then d else
  let vcw (q vc : Nat) : Nat := ((d.parts.get? q).map (fun u => u.ent.vcWeights / 256 ^ vc % 256)).getD 1
  let (h, l) := HPort.fill vcw (63 ≤ h.sinceIdle) 16 0 h
  let rec_ := padTo 256 d.ownTimeRec
  let slots := l.flatMap (fun x => (x.map (fun y => y.2)).getD rec_)
  let valid := l.zipIdx.foldl (fun a x => match x.1 with
    | some y => a + (4 + y.1) * 2 ^ (16 + 3 * x.2)
    | none => a) 0
  let ret := h.owedPool
  let evt : Bool := match h.laneEvt with
    | some e => decide (e.2.2 = h.txSeq)
    | none => false
  let word := h.txSeq * 2 ^ 80 + h.rxGood * 2 ^ 64 + valid + (match ret with
    | some r => r.1 * 4096 + min 255 r.2 * 16
    | none => 15 * 4096) + (if h.nak then 8 else 0) + (if evt then 4 else 0)
  let fr := sealFrame slots word
  let h : HPort := { h with
    txSeq := (h.txSeq + 1) % 65536, replay := h.replay ++ [fr], sinceIdle := if l.any (fun x => x.isNone) then 0 else h.sinceIdle + 1,
    owed := (match ret with
      | some r => h.owed.set r.1 (r.2 - min 255 r.2)
      | none => h.owed),
    laneEvt := if evt then none else h.laneEvt }
  let d := d.updPort p (fun _ => h)
  { d with out := d.out.set (0x10 + p) (d.out.getD (0x10 + p) [] ++ fr) }

end Sys2Proof.Machine
end

