-- ==== Sys2Proof/Machine/Ports.lean ====
section
/-! DEFINITION. Hoop ports (11 R353, R356, R364 to R368): states, lanes, HELLO, LINK_STATE; fabric time (11 R375, R376). -/

namespace Sys2Proof.Machine

/-- Ports of this module that do not carry all virtual channels, as LINK_STATE reports them. -/
def Fab.downMap (f : Fab) : Nat := ((List.range 6).filter (fun p => !(f.port p).carries)).foldl (fun m p => m + 2 ^ p) 0

/-- HELLO out of a port (11 Table 11-4, R367). -/
def Dev.sendHello (d : Dev) (p : Nat) : Dev :=
  d.sendDirected p 0x01 1 0 (mkArgs [(1, p), (1, d.fab.dx), (1, d.fab.dy), (1, d.fab.dz), (1, if d.fab.routeEn then 1 else 0), (1, d.fab.priority)]) []

/-- HELLO out of every port that is up. -/
def Dev.helloAll (d : Dev) : Dev := ((List.range 6).filter (fun p => (d.fab.port p).on)).foldl (fun (d : Dev) p => d.sendHello p) d

/-- LINK_STATE with a fresh sequence number out of every port that is up (11 R370; log 50). -/
def Dev.flood (d : Dev) : Dev :=
  let n := d.fab.linkSeq + 1
  let d : Dev := { d with fab := { d.fab with linkSeq := n } }
  ((List.range 6).filter (fun p => (d.fab.port p).on)).foldl (fun (d : Dev) p =>
    d.sendDirected p 0x02 1 0 (mkArgs [(2, d.hid.moduleId), (1, d.fab.downMap), (4, n)]) []) d

/-- The state of a link changed: routes are to be recomputed, LINK_STATE is flooded. -/
def Dev.linkChanged (d : Dev) : Dev := Dev.flood { d with fab := { d.fab with recompute := true } }

/-! Fabric time (11 R375, R376). -/

/-- Time records by which this module can follow a source, with the port: those of ports that are up, of a candidate that can be reached and lies
no further than any does, not its own (11 R375). -/
def Dev.timeRecs (d : Dev) : List (Nat × TimeRec) :=
  (List.range 6).filterMap (fun p =>
    let h := d.fab.port p
    if h.on then h.timeRec.bind (fun r =>
      if r.prio = 0 || r.source = d.hid.moduleId || decide (26 < r.hops) || (d.fab.routeEn && !d.fab.reachable d.hid.moduleId r.source) then none else some (p, r)) else none)

/-- Lowest priority first, then lowest identifier. -/
def TimeRec.key (r : TimeRec) : Nat := r.prio * 65536 + r.source

/-- FABRIC_TIME_STEP: the copy is set once to the source's value; every partition's round ends at the first grid tick at or after
250 µs later, with the index of that tick (11 R376). -/
def Dev.timeStep (d : Dev) (t : Nat) : Dev :=
  let d : Dev := { d with clk := { d.clk with now := t }, fab := { d.fab with stepped := true } }
  { d with parts := d.parts.mapV (fun _ u =>
      let tick := multipleFrom u.rnd.period (t + 250000)
      { u with rnd := { u.rnd with opened := t, len := tick - t, stretch := 0, monitored := false, applied := false, fixed := true,
                                   indexHeld := u.rnd.indexHeld <|> some (BitVec.ofNat 64 (tick / u.rnd.period)) } }) }

/-- The copy runs on to the source's time, between 0.9999 and 1.0001 times as fast as the source since the last record, given as the copy and the
source's time at it; it never runs backward (11 R376; log 110). -/
def Dev.slew (d : Dev) (base : Option (Nat × Nat)) (t : Nat) : Dev :=
  match base with
  | none => d
  | some (mine, theirs) =>
    let n := t - theirs
    d.at (max (mine + ceilDiv (9999 * n) 10000) (min (mine + 10001 * n / 10000) t))

/-- The source and the upstream port that this module now follows, and its state. -/
def Dev.timeUpdate (d : Dev) : Dev :=
  let f := d.fab
  let recs := d.timeRecs
  let best := recs.foldl (fun (b : Option Nat) r => match b with
    | some k => some (min k r.2.key)
    | none => some r.2.key) none
  let mine := f.priority * 65536 + d.hid.moduleId
  let self := f.priority != 0 && (match best with | some k => decide (mine ≤ k) | none => true)
  if self then { d with fab := { f with sourceId := d.hid.moduleId, hops := 0, upstream := 0xF, st := 2 } }
  else match best with
    | none => { d with fab := { f with sourceId := 0xFFF, upstream := 0xF, hops := 0, st := if f.st = 0 then 0 else 3 } }
    | some k =>
      let cs := recs.filter (fun r => r.2.key = k)
      let h := cs.foldl (fun m r => min m r.2.hops) 0xFFFF
      match cs.find? (fun r => r.2.hops = h) with
      | none => d
      | some (p, r) =>
        let far := decide (d.clk.now + 1000 < r.time) || decide (r.time + 1000 < d.clk.now)
        let same := f.sourceId = r.source
        let st := if f.st = 2 && (same || !far) then 2 else 1
        let base := if same && f.upstream = p then f.sync else none
        let d : Dev := { d with fab := { f with sourceId := r.source, hops := min 255 (r.hops + 1), upstream := p, st := st } }
        let d := if f.st = 0 && far then d.timeStep r.time else d.slew base r.time
        { d with fab := { d.fab with sync := some (d.clk.now, r.time) } }

/-- FABRIC_TIME_LOCK: after 10 ms of correction an ACQUIRING module locks. -/
def execFabricTimeLock (s : State) := onDev (fun d => if d.fab.st = 1 && d.fab.upstream != 0xF then { d with fab := { d.fab with st := 2 } } else d) s

/-! Port states (11 Table 11-5). -/

/-- Link training starts. -/
def HPort.train (h : HPort) : HPort := { h with st := .training, good := 0, width := 0 }

/-- A port leaves service for a state: its link layer is emptied; packets not yet begun are routed again. -/
def Dev.portLeaves (d : Dev) (p : Nat) (st : HpSt) : Dev :=
  let again := (d.fab.port p).txq.filter (fun t => t.sent = 0 && !t.pkt.flags.getLsbD 0)
  let d := d.updPort p (fun h => { h with st := st, width := 0, good := if st == .down then h.good else 0, replay := [], txq := [], parts := [],
                                          laneEvt := none, laneRx := none, timeRec := none, nak := false, refusals := 0 })
  let d := d.linkChanged.timeUpdate
  again.foldl (fun (d : Dev) t => d.route t.fwd none t.pkt) d

/-- A port in UP or DEGRADED goes DOWN with LINK_LOST (11 R365). -/
def Dev.portDown (d : Dev) (p : Nat) : Dev :=
  let h := d.fab.port p
  if !h.on then d else
  ((d.updPort p (fun h => { h with downs := satAdd 0xFFFF h.downs 1 })).event 0x05 0xFF p h.peerId).portLeaves p .down

def execControlWordTimeout (p : Nat) (s : State) := onDev (fun d => d.portDown p) s
def execPortDownRetry (p : Nat) (s : State) := onDev (fun d => if (d.fab.port p).st == .down && d.blockUp p then d.updPort p HPort.train else d) s
/-- PORT_TRAIN_TIMEOUT: the port tries again and stays in TRAINING. -/
def execPortTrainTimeout (p : Nat) (s : State) := onDev (fun d => if (d.fab.port p).st == .training then d.updPort p HPort.train else d) s

/-- The write of HPn_CTRL, its range checked (11 Table 11-9). -/
def HPort.withCtrl (h : HPort) (v : W64) : HPort :=
  { h with en := v.getLsbD 31, channel := v.getLsbD 30, spareAuto := v.getLsbD 29, lane := bits v 24 4, laneThresh := bits v 0 16 }

def hpCtrlOk (v : W64) : Bool := decide (bits v 24 4 ≤ 8) && bits v 0 16 != 0
def hpOff (p o : Nat) : Nat := 0x01000000 + 0x100000 * p + o

/-- PORT_ENABLE: EN starts training once electrical idle is released, or puts the port in electrical idle. -/
def Dev.portEnable (d : Dev) (p : Nat) (v : W64) : Dev :=
  if 6 ≤ p then d else
  if !hpCtrlOk v then d.ignReg 0x09 (hpOff p 0) else
  let d := d.updPort p (fun h => h.withCtrl v)
  let h := d.fab.port p
  if !h.en then (if h.on then d.portLeaves p .idleHold else d.updPort p (fun h => { h with st := .idleHold, width := 0, good := 0 }))
  else if h.st == .idleHold && !h.idle then d.updPort p HPort.train else d

def execPortEnable (p : Nat) (v : W64) (s : State) := onDev (fun d => d.portEnable p v) s

def lanesOf (m : BitVec 9) : List Nat := (List.range 9).filter (fun k => m.getLsbD k)

/-- Positions and the spare of a port with good lanes m: lanes carry their own position, L8 that of the one other lane that is not
good; a ninth good lane is the spare. -/
def HPort.assign (h : HPort) (m : BitVec 9) : HPort :=
  let miss := ((List.range 8).filter (fun k => !m.getLsbD k))
  let n := (lanesOf m).length
  { h with good := m, width := if 8 ≤ n then 8 else 4,
           spare := if n = 9 then 8 else 9, pos := if n = 8 then (match miss with | k :: _ => [(k, 8), (8, k)] | [] => []) else [] }

/-- Values of the fields of HPn_EQ_Lk, each in its range (11 Table 11-22). -/
def eqFields (x : Nat) : Nat :=
  let neg (n : Nat) : Nat := (256 - n) % 256
  x % 32 * 2 ^ 32 + neg (x / 32 % 17) * 2 ^ 24 + (32 + x / 1024 % 33) * 2 ^ 16 + neg (x / 65536 % 17) * 2 ^ 8 + x / 2097152 % 9

/-- What link training chooses for the lanes of a copper channel is open: free values in the fields of HPn_EQ_Lk (log 51). -/
def Dev.trainEq (d : Dev) (p : Nat) (ls : List Nat) : Dev :=
  if (d.fab.port p).channel then d else
  ls.foldl (fun (d : Dev) k => (d.updPort p (fun h => { h with eqTrained := h.eqTrained.set k (eqFields d.draw.toNat) })).drew) d

/-- PORT_TRAINED: four or more lanes trained and frames aligned; the link layer starts anew and HELLO is sent. -/
def Dev.portTrained (d : Dev) (p : Nat) (m : BitVec 9) : Dev :=
  let n := (lanesOf m).length
  if (d.fab.port p).st != .training || n < 4 || !d.blockUp p then d else
  let d := d.updPort p (fun h => { (h.assign m) with
    st := .hello, toDegraded := decide (n < 8), txSeq := 0, rxGood := 0xFFFF, nak := false, refusals := 0,
    replay := [], credits := [], owed := [], parts := [], laneEvt := none, laneRx := none, sinceIdle := 0 })
  ((d.trainEq p (lanesOf m)).sendHello p).newFrame p

def execPortTrained (p : Nat) (m : BitVec 9) (s : State) := onDev (fun d => d.portTrained p m) s

/-! HELLO and LINK_STATE. -/

/-- The entry of a neighbour in the link map after its HELLO: the port that it faces us with is up. -/
def LinkEnt.hello (e : Option LinkEnt) (pp : Nat) (up fwd : Bool) : LinkEnt :=
  let o := e.getD ⟨0x3F#6, fwd, 0⟩
  { o with fwdOnly := fwd, down := if up then o.down &&& ~~~(1#6 <<< pp) else o.down ||| (1#6 <<< pp) }

/-- A HELLO received on a port (11 R366, R367, R370). A module without an identifier is known by the place it stands at (log 109). -/
def Dev.helloIn (d : Dev) (p : Nat) (k : Pkt) : Dev :=
  let h := d.fab.port p
  if !(h.on || h.st == .hello) then d else
  let pp := k.arg 0 1
  let ren := k.arg 4 1 = 1
  let dims := k.arg 1 1 = d.fab.dx && k.arg 2 1 = d.fab.dy && k.arg 3 1 = d.fab.dz
  let mis := pp != p ^^^ 1
  let cmp := d.fab.routeEn && ren
  let dm := if cmp then !dims else if dims then false else h.dimMismatch
  let fresh := h.st == .hello
  let h' : HPort := { h with
    peerId := k.srcMod, peerPort := pp % 16, peerFwd := !ren, miswired := if fresh then mis else h.miswired, dimMismatch := dm,
    st := if fresh then (if h.toDegraded then .degraded else .up) else h.st }
  let d := d.updPort p (fun _ => h')
  let up := h'.carries
  let blank := k.srcMod = 0xFFF
  let m := if blank then d.fab.nb d.hid.moduleId (p / 2) (p % 2 = 1) else k.srcMod
  let old := d.fab.map.get? m
  let ent : LinkEnt := if blank then ⟨0x3F#6, true, 0⟩ else LinkEnt.hello old (pp % 6) up (!ren)
  let fwdNew := match old with
    | some e => e.fwdOnly != ent.fwdOnly
    | none => true
  let d : Dev := if blank && (!d.fab.routeEn || d.hid.moduleId = 0xFFF) then d else { d with fab := { d.fab with
    map := d.fab.map.set m ent, recompute := d.fab.recompute || fwdNew } }
  if fresh || h.dimMismatch != dm then d.linkChanged else d

/-- A LINK_STATE (11 R370): newer than what is known, it enters the map and goes on out of every other port. -/
def Dev.linkStateIn (d : Dev) (p : Nat) (k : Pkt) : Dev :=
  let m := k.arg 0 2
  let seq := k.arg 3 4
  let e := d.fab.map.get? m
  let newer := match e with
    | some x => decide (x.seq < seq)
    | none => true
  if m = d.hid.moduleId || m = 0xFFF || !newer then d else
  let ent : LinkEnt := ⟨BitVec.ofNat 6 (k.arg 2 1), (e.map (fun x => x.fwdOnly)).getD false, seq⟩
  let d : Dev := { d with fab := { d.fab with map := d.fab.map.set m ent, recompute := true } }
  ((List.range 6).filter (fun q => q != p && (d.fab.port q).on)).foldl (fun (d : Dev) q => d.sendDirected q 0x02 1 0 k.args []) d

def execHelloTimer (p : Nat) (s : State) := onDev (fun d => if (d.fab.port p).on then (d.sendHello p).newFrame p else d) s
def execLinkStateTimer (s : State) := onDev Dev.flood s

/-- FABRIC_CTRL_WRITE: HP0_FABRIC_CTRL (11 Table 11-15). -/
def Dev.fabricCtrl (d : Dev) (v : W64) : Dev :=
  let dx := bits v 0 5
  let dy := bits v 5 5
  let dz := bits v 10 5
  let off := hpOff 0 0x80000
  if dx = 0 || dy = 0 || dz = 0 || 16 < dx || 16 < dy || 16 < dz then d.ignReg 0x09 off else
  let m := d.hid.moduleId
  let outside := decide (dx ≤ coord m 0) || decide (dy ≤ coord m 1) || decide (dz ≤ coord m 2)
  let en := v.getLsbD 31 && !outside
  let changed := en != d.fab.routeEn || dx != d.fab.dx || dy != d.fab.dy || dz != d.fab.dz
  let d := if v.getLsbD 31 && outside then d.ignReg 0x09 off else d
  let d : Dev := { d with fab := { d.fab with routeEn := en, dx := dx, dy := dy, dz := dz } }
  if changed then Dev.helloAll { d with fab := { d.fab with recompute := true } } else d

def execFabricCtrlWrite (v : W64) (s : State) := onDev (fun d => d.fabricCtrl v) s

/-! Lanes (11 R364, R365). -/

/-- A lane's position passes to the spare; the lane is released and retrained in the background. -/
def HPort.moveLane (h : HPort) (lane target : Nat) : HPort :=
  { h with pos := (h.pos.set target (h.pos.getD lane lane)).set lane 8, spare := 9, laneMoves := wrapAdd 16 h.laneMoves 1,
           good := h.good &&& ~~~(1#9 <<< lane) }

/-- This end moves a lane to the spare: LANE_CHANGE names the frame that the move follows. -/
def Dev.laneMove (d : Dev) (p lane : Nat) : Dev :=
  let h := d.fab.port p
  let s := (h.txSeq + 1 + ((h.txq.filter (fun t => t.vc = 3)).map (fun t => Pkt.flits t.pkt)).sum) % 65536
  let d := d.updPort p (fun h => { h.moveLane lane h.spare with laneEvt := some (lane, h.spare, s) })
  (d.trainEq p [h.spare]).sendDirected p 0x06 1 0 (mkArgs [(1, lane), (1, h.spare), (2, s)]) []

/-- Is there a spare that lane k could move to? -/
def HPort.canMove (h : HPort) (k : Nat) : Bool := h.on && decide (h.spare < 9) && k != h.spare && decide (k < 9) && h.good.getLsbD k && h.width = 8

/-- LANE_LOCK_LOSS: the lane moves to the spare, or the port narrows to four lanes or goes DOWN. -/
def Dev.lockLoss (d : Dev) (p k : Nat) : Dev :=
  let h := d.fab.port p
  if 9 ≤ k || !h.good.getLsbD k then d else
  if h.spareAuto && h.canMove k then d.laneMove p k else
  let d := d.updPort p (fun h => { h with good := h.good &&& ~~~(1#9 <<< k), spare := if h.spare = k then 9 else h.spare })
  if !h.on || h.spare = k then d else
  let n := (lanesOf (d.fab.port p).good).length
  if n < 4 then d.portDown p else d.updPort p (fun h => { h with st := .degraded, width := 4, spare := 9 })

def execLaneLockLoss (p k : Nat) (s : State) := onDev (fun d => d.lockLoss p k) s

/-- LANE_THRESH_CHECK: the lowest lane in use over LANE_THRESH moves to the spare. -/
def execLaneThreshCheck (p : Nat) (counts : List Nat) (s : State) := onDev (fun d =>
  let h := d.fab.port p
  match (List.range 9).find? (fun k => decide (h.laneThresh < counts.getD k 0) && h.canMove k) with
  | some k => if h.spareAuto then d.laneMove p k else d
  | none => d) s

/-- RETRAIN: HPn_CTRL written with RETRAIN. -/
def Dev.retrainWrite (d : Dev) (p : Nat) (v : W64) : Dev :=
  if 6 ≤ p then d else
  if !hpCtrlOk v then d.ignReg 0x09 (hpOff p 0) else
  let d := d.portEnable p v
  if v.getLsbD 28 && (d.fab.port p).canMove (bits v 24 4) then d.laneMove p (bits v 24 4) else d

def execRetrain (p : Nat) (v : W64) (s : State) := onDev (fun d => d.retrainWrite p v) s

/-- LANE_RETRAIN_DONE: the lane becomes the spare, or makes eight good lanes of a DEGRADED port. -/
def Dev.laneDone (d : Dev) (p k : Nat) : Dev :=
  let h := d.fab.port p
  if 9 ≤ k || h.good.getLsbD k || !h.on then d else
  let m := h.good ||| (1#9 <<< k)
  let d := (d.trainEq p [k]).phyLoaded p k
  if h.width = 8 then d.updPort p (fun h => { h with good := m, spare := k, pos := h.pos.set k 8 })
  else if 8 ≤ (lanesOf m).length then d.updPort p (fun h => { h.assign m with st := .up })
  else d.updPort p (fun h => { h with good := m })

def execLaneRetrainDone (p k : Nat) (s : State) := onDev (fun d => d.laneDone p k) s

end Sys2Proof.Machine
end

