-- ==== Sys2Proof/Machine/Peers.lean ====
section
/-! DEFINITION. Peers (11 R377): probes, loss of a lender (08 R289), loss of a module, recomputed routes; arming and rejoining
collective groups (11 R378; 12 Table 12-13). -/

namespace Sys2Proof.Machine

/-- PEER_LOST: a peer that has been heard from is lost for every group, waling group and far entry that has heard from it. -/
def Dev.peerLost (d : Dev) (m : Nat) : Dev :=
  let gs := d.cole.groups.filter (fun kv => kv.2.st = 1 && kv.2.heard.contains m)
  let ws := d.rse.wgs.filter (fun kv => kv.2.armed && kv.2.heard.contains m)
  let fs := d.parts.flatMap (fun kv => (kv.2.memp.far.filter (fun f => f.2.module = m && ((f.2.heard && (f.2.st = 1 || f.2.st = 2)) || f.2.asked))).map (fun f => (kv.1, f.1)))
  if gs.isEmpty && ws.isEmpty && fs.isEmpty then d else
  let d : Dev := { d with fab := { d.fab with lostCount := satAdd 0xFFFF d.fab.lostCount 1, lost := (m :: d.fab.lost).eraseDups, silent := d.fab.silent.del m } }
  let d := gs.foldl (fun (d : Dev) kv =>
    let g := d.group kv.1
    let ranks := (List.range g.size).filter (fun r => r != g.rank && memMod (d.groupMember g r) = m)
    ranks.foldl (fun (d : Dev) r => d.memberLoss kv.1 r) (d.updGroup kv.1 (fun g => { g with heard := g.heard.filter (fun x => x != m) }))) d
  let d := ws.foldl (fun (d : Dev) kv =>
    let w := d.wg kv.1
    let ranks := (List.range w.size).filter (fun r => r != w.rank && memMod (d.member w r) = m)
    ranks.foldl (fun (d : Dev) r => d.walingLoss kv.1 r) (d.updWg kv.1 (fun w => { w with heard := w.heard.filter (fun x => x != m) }))) d
  fs.foldl (fun (d : Dev) e => d.lenderLoss e.1 e.2) d

/-- Modules that the active groups, the waling groups and the far entries name. -/
def Dev.peers (d : Dev) : List Nat :=
  let g := (d.cole.groups.filter (fun kv => kv.2.st = 1)).flatMap (fun kv =>
    ((List.range kv.2.size).filter (fun r => d.groupMember kv.2 r / 2 ^ 15 % 2 = 0)).map (fun r => memMod (d.groupMember kv.2 r)))
  let w := (d.rse.wgs.filter (fun kv => kv.2.armed)).flatMap (fun kv => kv.2.others.map (fun r => memMod (d.member kv.2 r)))
  let f := d.parts.flatMap (fun kv => (kv.2.memp.far.filter (fun f => f.2.st = 1 || f.2.st = 2)).map (fun f => f.2.module))
  ((g ++ w ++ f).eraseDups).filter (fun m => m != d.hid.moduleId)

/-- ROUTE_RECOMPUTE: reachability is found again, peers that cannot be reached are lost, chunks without acknowledgement go out again. -/
def Dev.recompute (d : Dev) : Dev :=
  if !d.fab.recompute then d else
  let self := d.hid.moduleId
  let gone := d.fab.positions.filter (fun m => m != self && m != 0xFFF && !d.fab.reachable self m)
  let d : Dev := { d with fab := { d.fab with recompute := false, routeGen := wrapAdd 32 d.fab.routeGen 1, unreachable := min 0xFFFF gone.length } }
  let d := if d.fab.routeEn then (d.peers.filter (fun m => !d.fab.reachable self m)).foldl (fun (d : Dev) m => d.peerLost m) d else d
  let asked := d.parts.flatMap (fun kv => (kv.2.memp.far.filter (fun f => f.2.asked && d.fab.routeEn && !d.fab.reachable self f.2.module)).map (fun f => (kv.1, f.1)))
  let d := asked.foldl (fun (d : Dev) e => d.lenderLoss e.1 e.2) d
  d.unstick.resendChunks

def execRouteRecompute (s : State) := onDev Dev.recompute s

/-- PROBE_TIMER: a probe to every peer; one that left four probes in a row, 200 µs, unanswered is lost (11 R377). -/
def Dev.probeAll (d : Dev) : Dev :=
  let n := d.fab.probeNo + 1
  let d : Dev := { d with fab := { d.fab with probeNo := n } }
  d.peers.foldl (fun (d : Dev) m =>
    let k := d.fab.silent.getD m 0
    let d := if 4 ≤ k then d.peerLost m else d
    ({ d with fab := { d.fab with silent := d.fab.silent.set m (k + 1) } } : Dev).send 0x04 m 0 0 0 (mkArgs [(4, n)]) []) d

def execProbeTimer (s : State) := onDev Dev.probeAll s
def execProbeTimeout (m : Nat) (s : State) := onDev (fun d => d.peerLost m) s

/-- A PROBE_ACK: the peer is heard from, by every slot that names it. -/
def Dev.heardFrom (d : Dev) (m : Nat) : Dev :=
  let add (l : List Nat) : List Nat := (m :: l).eraseDups
  { d with
    fab := { d.fab with silent := d.fab.silent.del m, lost := d.fab.lost.filter (fun x => x != m) },
    cole := { d.cole with groups := d.cole.groups.mapV (fun _ g =>
      if g.st = 1 && (List.range g.size).any (fun r => d.groupMember g r % 2 ^ 12 = m && d.groupMember g r / 2 ^ 15 % 2 = 0) then { g with heard := add g.heard } else g) },
    rse := { d.rse with wgs := d.rse.wgs.mapV (fun _ w =>
      if w.armed && w.others.any (fun r => memMod (d.member w r) = m) then { w with heard := add w.heard } else w) },
    parts := d.parts.mapV (fun _ u => { u with memp := { u.memp with far := u.memp.far.mapV (fun _ f => if f.module = m && f.st != 0 then { f with heard := true } else f) } }) }

/-! Collective groups (11 Table 11-18). -/

def groupOff (g w : Nat) : Nat := 0x02000000 + 0x1000 + 0x20 * g + 8 * w

/-- GROUP_ARM: word 0 of COLE_GROUPg with ARM. -/
def Dev.groupArm (d : Dev) (k : Nat) (v : W64) : Dev :=
  let g := d.group k
  if 64 ≤ k || !v.getLsbD 4 then d
  else if g.st != 1 && !carveOk (bits v 5 47 * 32) (4 * g.size) then d.ignReg 0x09 (groupOff k 0)
  else if g.st != 1 && d.badIn (bits v 5 47 * 32) (4 * g.size) then
    (d.carveEvent (bits v 5 47 * 32)).updGroup k (fun g => { g with rank := bits v 52 12, table := bits v 5 47, st := 2 })
  else if g.st = 1 || g.size = 0 || 4096 < g.size || g.size ≤ bits v 52 12 then d.ignReg 0x09 (groupOff k 0) else
  { d with cole := { d.cole with groups := d.cole.groups.set k { g with
      rank := bits v 52 12, table := bits v 5 47, st := 1, release := false, seq := 0, epoch := 0, digested := [], heard := [], runs := [], early := [] } } }

def execGroupArm (g : Nat) (v : W64) (s : State) := onDev (fun d => d.groupArm g v) s

/-- Word 0 of COLE_GROUPg: RANK and TABLE_PA, in the carve-out, unless the slot is ACTIVE; ARM; RELEASE, which frees the slot once no
collective is in flight (11 Table 11-18). `h` holds the bits that the write reaches. -/
def Dev.groupWord0 (d : Dev) (k : Nat) (h v : W64) : Dev :=
  let g := d.group k
  if 64 ≤ k then d
  else if g.st = 1 && v.getLsbD 1 then d.updGroup k (fun g => ({ g with release := true } : Group).settle)
  else if v.getLsbD 4 && !v.getLsbD 1 then d.groupArm k v
  else if g.st = 1 || (bits h 5 47 != 0 && !carveOk (bits v 5 47 * 32) 4) then
    (if g.st != 1 && v.getLsbD 1 then d.updGroup k Group.freed else d).ignReg 0x09 (groupOff k 0)
  else
    let g : Group := { g with rank := bits v 52 12, table := bits v 5 47 }
    { d with cole := { d.cole with groups := d.cole.groups.set k (if v.getLsbD 1 then g.freed else g) } }

/-- GROUP_RELEASE: word 0 of COLE_GROUPg with RELEASE. -/
def execGroupRelease (g : Nat) (v : W64) (s : State) := onDev (fun d => if v.getLsbD 1 then d.groupWord0 g ones64 v else d) s

/-- REJOIN: COLE_REJOIN word 0 with GO (12 Table 12-13). -/
def Dev.rejoin (d : Dev) (v : W64) : Dev :=
  let d : Dev := { d with cole := { d.cole with rejoin := v &&& 0x00007FFF0FFF003F#64 } }
  if !v.getLsbD 63 then d else
  let k := bits v 0 6
  let r := bits v 16 12
  let g := d.group k
  let off := 0x02000000 + 0x800
  if g.st != 1 || g.size ≤ r then d.ignReg 0x09 off
  else if r = g.rank then d.updGroup k (fun g => { g with epoch := d.cole.rejoinHi.extractLsb' 32 32, seq := d.cole.rejoinHi.extractLsb' 0 32 })
  else if d.groupMember g r / 2 ^ 15 % 2 = 0 then d.ignReg 0x09 off
  else
    let d := d.dramWrite (g.table * 32 + 4 * r) (leBytes 4 (bits v 32 15))
    (d.updGroup k (fun g => { g with epoch := g.epoch + 1 })).replayEarly k

def execRejoin (v : W64) (s : State) := onDev (fun d => d.rejoin v) s

/-! The risk estimate and retired clusters (12 R398, R424). -/

/-- The counts of the module now. -/
def Dev.riskSample (d : Dev) : RiskSample :=
  let scs := d.tiles.flatMap (fun kv => [kv.2.sc0, kv.2.sc1])
  { e := (scs.map (fun c => c.corrected)).foldl (· + ·) 0 + d.rse.corr,
    l := (d.fab.ports.map (fun kv => kv.2.laneMoves + kv.2.uncorr)).foldl (· + ·) 0,
    d := d.ptc.droops, temps := scs.map (fun c => c.tempC) }

/-- Corrected errors of a cluster; one with more than CORR_THRESH within the hour is to be retired (12 R424). -/
def Dev.clusterErrs (d : Dev) (ck n : Nat) : Dev :=
  let t := ckTile ck
  let c := ck % 40
  let s := (d.tile t).spare
  let k := s.corr.getD c 0 + n
  let due := decide (s.corrThresh < k) && decide (s.corr.getD c 0 ≤ s.corrThresh) && s.map.contains c
  d.updTile t (fun x => { x with spare := { x.spare with corr := x.spare.corr.set c k }, maint := if due then x.maint ++ [.swap c] else x.maint })

/-- An error strikes stored bits: of local memory, of a register, of a bank or buffer of an array, of a staging buffer, of DRAM (02 R90, 04 R139,
06 R237, 08 R294; log 98). -/
def Dev.strike (d : Dev) : Upset → Dev
  | .clm t c w => if t < 8 && c < 40 && w < 393216 then d.updCluster (ckey t c) (fun k => { k with badClm := (w :: k.badClm).eraseDups }) else d
  | .reg p r k => if k < 32 then d.updPlait (pkey p) (fun x => if r < x.alloc then { x with bad := ((32 * r + k) :: x.bad).eraseDups } else x) else d
  | .weight a b w => if a.tile < 8 && a.cluster < 40 && a.arr < 4 && b < 2 && w < 4096 then
      d.updArray (akey a.tile a.cluster a.arr) (fun x => { x with badW := ((b * 4096 + w) :: x.badW).eraseDups }) else d
  | .acc a b w => if a.tile < 8 && a.cluster < 40 && a.arr < 4 && b < 2 && w < 4096 then
      d.updArray (akey a.tile a.cluster a.arr) (fun x => { x with badA := ((b * 4096 + w) :: x.badA).eraseDups }) else d
  | .staging u w => if u.tile < 8 && u.cluster < 40 && u.slice < 4 && w < 4096 then
      d.updSlice (akey u.tile u.cluster u.slice) (fun x => { x with badS := (w :: x.badS).eraseDups }) else d
  | .dram t k e => if t < 8 && k < 2 then d.strikeStack t k e else d

/-- RISK_ESTIMATE: from the counts over the last second, a hundred estimates; an hour is 360,000 of them. -/
def Dev.riskEstimate (d : Dev) (counts : List (Nat × Nat)) (struck : List Upset) : Dev :=
  let d := struck.foldl Dev.strike d
  let d := counts.foldl (fun (d : Dev) c => d.clusterErrs c.1 c.2) d
  let n := (counts.map (fun c => c.2)).foldl (· + ·) 0
  let d : Dev := { d with rse := { d.rse with corr := d.rse.corr + n, ests := d.rse.ests + 1 } }
  let d : Dev := if d.rse.ests % 360000 = 0 then { d with tiles := d.tiles.mapV (fun _ t => { t with spare := { t.spare with corr := [] } }) } else d
  let now := d.riskSample
  let old := (d.rse.hist.getLast?).getD now
  let cl (n : Nat) : Nat := min 255 n
  let rise := (now.temps.zip old.temps).foldl (fun (m : Int) x => max m (x.1 - x.2)) 0
  let w := d.rse.riskCtrl
  let r := bits w 0 8 * cl (now.e - old.e) + bits w 8 8 * cl (now.l - old.l) + bits w 16 8 * cl (now.d - old.d) + bits w 24 8 * cl rise.toNat
  { d with rse := { d.rse with risk := min 65535 r, hist := (now :: d.rse.hist).take 100 } }

def execRiskEstimate (c : RiskCounts) (s : State) := onDev (fun d => d.riskEstimate c.corrected c.struck) s

/-- SWAP: TILEn_SPARE written with SWAP (12 Table 12-14). -/
def Dev.swapWrite (d : Dev) (t : Nat) (v : W64) : Dev :=
  let c := bits v 9 6
  if 8 ≤ t then d
  else if 40 ≤ c || bits v 16 8 = 0 then d.ignReg 0x09 (0x10000000 + t * 0x1000000 + 0x90000)
  else d.updTile t (fun x => { x with spare := { x.spare with corrThresh := bits v 16 8, cluster := c }, maint := if v.getLsbD 15 then x.maint ++ [.swap c] else x.maint })

def execSwap (t : Nat) (v : W64) (s : State) := onDev (fun d => d.swapWrite t v) s

end Sys2Proof.Machine
end

