-- ==== Sys2Proof/Machine/Packets.lean ====
section
/-! DEFINITION. Packets: forwarding and delivery (11 R368 to R372), MEM requests at lender and borrower (11 R363; 08 R284 to R289), and
the meaning of every packet type. -/

namespace Sys2Proof.Machine

/-- A packet discarded and counted (11 R363, R372; 12 R426). -/
def Dev.misdeliver (d : Dev) (p : Nat) : Dev :=
  if 6 ≤ p then d else d.updPort p (fun h => { h with misdelivered := wrapAdd 32 h.misdelivered 1 })

/-- What happens to a packet that arrived by a port. -/
inductive Fate where
  | here
  | through
  | routed
  deriving DecidableEq, Repr

/-- A directed packet is delivered where HOPS reaches zero; a module that forwards straight through delivers nothing else (01 R30; 11 R368, R369). -/
def Dev.fate (d : Dev) (k : Pkt) : Fate :=
  if k.flags.getLsbD 0 then (if k.hops ≤ 1 then .here else .through)
  else if !d.fab.routeEn || d.hid.moduleId = 0xFFF then .through
  else if k.dest.toNat % 4096 = d.hid.moduleId && k.dest.toNat % 4096 != 0xFFF then .here else .routed

/-- Sends a packet on that is not delivered here. -/
def Dev.forward (d : Dev) (p : Nat) (k : Pkt) (f : Fate) : Dev :=
  match f with
  | .here => d
  | .through => d.queueOn (p ^^^ 1) (Pkt.cls k) true { k with hops := if k.flags.getLsbD 0 then k.hops - 1 else k.hops + 1 }
  | .routed => d.route true (some p) k

/-- May a packet come in by a port in its present state? Port 15 stands for this module itself. -/
def Dev.mayArrive (d : Dev) (p : Nat) (ty : Nat) : Bool :=
  p = 15 || (decide (p < 6) && (let h := d.fab.port p
    if ty < 0x10 then h.on || (ty = 0x01 && h.st == .hello) else h.carries))

/-- Is a packet of a type addressed to a partition (11 R372; log 52)? -/
def toPartition (ty : Nat) : Bool := ty = 0x03 || 0x20 ≤ ty

/-- A packet of a type that arrives by a port: sent on, discarded, or given its effect. The packet leaves the inbox if it waited there. -/
def Dev.onPkt (d : Dev) (ty p : Nat) (k : Pkt) (f : Dev → Dev) : Dev :=
  if k.ty != ty || !d.mayArrive p ty then d else
  let d : Dev := { d with fab := { d.fab with inbox := d.fab.inbox.filter (fun x => !(x.1 = p && x.2 = k)) } }
  match d.fate k with
  | .here => if toPartition ty && (d.parts.get? k.destPart).isNone then d.misdeliver p else f d
  | x => d.forward p k x

/-! CTRL. -/

def execHello (p : Nat) (k : Pkt) (s : State) := onDev (fun d => d.onPkt 0x01 p k (fun d => d.helloIn p k)) s
def execLinkState (p : Nat) (k : Pkt) (s : State) := onDev (fun d => d.onPkt 0x02 p k (fun d => d.linkStateIn p k)) s
def execStretch (p : Nat) (k : Pkt) (s : State) := onDev (fun d => d.onPkt 0x03 p k (fun d => d.stretchIn k.destPart (k.arg 0 2) (k.arg 2 8) (k.arg 10 4))) s
def execProbe (p : Nat) (k : Pkt) (s : State) := onDev (fun d => d.onPkt 0x04 p k (fun d => d.send 0x05 k.srcMod k.srcPart 0 k.tag k.args [])) s
def execProbeAck (p : Nat) (k : Pkt) (s : State) := onDev (fun d => d.onPkt 0x05 p k (fun d => d.heardFrom k.srcMod)) s

/-- LANE_CHANGE: the move is kept until the frame with LANE_EVT. -/
def execLaneChange (p : Nat) (k : Pkt) (s : State) := onDev (fun d => d.onPkt 0x06 p k (fun d =>
  if 9 ≤ k.arg 0 1 || 9 ≤ k.arg 1 1 then d else d.updPort p (fun h => { h with laneRx := some (k.arg 0 1, k.arg 1 1, k.arg 2 2) }))) s

/-- MGMT: the message is delivered to the Narby OS (15 R490). -/
def execMgmt (p : Nat) (k : Pkt) (s : State) := onDev (fun d => d.onPkt 0x07 p k (fun d =>
  { d with fab := { d.fab with mgmtRx := d.fab.mgmtRx ++ [(k.srcMod, k.body)] } })) s

/-! MEM at the lender (08 R288; 11 R363). -/

/-- The lend entry, as partition and index, that serves a range of n bytes for a module and partition. -/
def Dev.lendFor (d : Dev) (m mp a n : Nat) : Option (Nat × Nat) :=
  d.parts.findSome? (fun kv => (kv.2.memp.lend.find? (fun l => l.2.active && l.2.borrower = m && l.2.part = mp
    && decide (l.2.base * 65536 ≤ a) && decide (a + n ≤ (l.2.base + l.2.subpages) * 65536))).map (fun l => (kv.1, l.1)))

/-- A refused request is counted at the partition that owns the address, else at the lowest one (log 49). -/
def Dev.refuse (d : Dev) (a : Nat) : Dev :=
  match ownerOf d.parts (a / 65536 / stackPages / 2) <|> d.parts.head?.map (fun kv => kv.1) with
  | some p => d.updMemp p (fun m => { m with refused := wrapAdd 64 m.refused 1 })
  | none => d

/-- Length of a MEM request: 32 to 65,536 bytes in multiples of 32. -/
def memLenOk (n : Nat) : Bool := n % 32 = 0 && decide (32 ≤ n) && decide (n ≤ 65536)

/-- READ_REQ at the lender. DESIGN CHOICE (log 49): a status byte of 1 stands for REFUSED, of 0 for OK. -/
def Dev.readReqIn (d : Dev) (k : Pkt) : Dev :=
  let a := k.arg 0 8 % 2 ^ 52
  let n := k.arg 8 4
  let ans (d : Dev) (st : Nat) (x : List W8) : Dev := d.send 0x11 k.srcMod 0 0 k.tag (mkArgs [(8, k.arg 0 8), (4, n), (1, st)]) x
  match d.lendFor k.srcMod k.srcPart a n with
  | some _ =>
    if !memLenOk n then ans (d.refuse a) 1 [] else
    let d := Dev.loadAt a n d
    if d.badIn a n then ans (d.refuse a) 1 [] else ans d 0 (d.dramRead a n)
  | none => ans (d.refuse a) 1 []

def Dev.writeReqIn (d : Dev) (k : Pkt) : Dev :=
  let a := k.arg 0 8 % 2 ^ 52
  let n := k.arg 8 4
  let ans (d : Dev) (st : Nat) : Dev := d.send 0x13 k.srcMod 0 0 k.tag (mkArgs [(1, st)]) []
  match d.lendFor k.srcMod k.srcPart a n with
  | some _ => if memLenOk n && k.data.length = n && !d.badPartial a n then ans (d.dramWrite a k.data) 0 else ans (d.refuse a) 1
  | none => ans (d.refuse a) 1

/-- LEND_REQ: an ACTIVE entry for the borrower with this BASE and count is taken; a count of zero says that it is drained (08 R287; log 41). -/
def Dev.lendReqIn (d : Dev) (k : Pkt) : Dev :=
  let base := k.arg 1 8 / 65536 % 2 ^ 36
  let n := k.arg 9 4
  let ans (d : Dev) (st : Nat) : Dev := d.send 0x15 k.srcMod 0 0 k.tag (mkArgs [(1, st)]) []
  let hit (l : Lend) : Bool := l.active && l.borrower = k.srcMod && l.part = k.srcPart && l.base = base && (n = 0 || l.subpages = n)
  match d.parts.findSome? (fun kv => (kv.2.memp.lend.find? (fun l => hit l.2)).map (fun l => (kv.1, l.1))) with
  | none => ans (d.refuse (base * 65536)) 1
  | some (p, j) =>
    ans (d.updMemp p (fun m => { m with lend := m.lend.upd j (fun l =>
      if n != 0 then { l with taken := true }
      else if l.release then { l with active := false, taken := false, release := false } else { l with taken := false }) })) 0

def execReadReq (p : Nat) (k : Pkt) (s : State) := onDev (fun d => d.onPkt 0x10 p k (fun d => d.readReqIn k)) s
def execWriteReq (p : Nat) (k : Pkt) (s : State) := onDev (fun d => d.onPkt 0x12 p k (fun d => d.writeReqIn k)) s
def execLendReq (p : Nat) (k : Pkt) (s : State) := onDev (fun d => d.onPkt 0x14 p k (fun d => d.lendReqIn k)) s

/-! MEM at the borrower. -/

/-- A request answered is dropped. -/
def Dev.dropReq (d : Dev) (t : Nat) : Dev := { d with fab := { d.fab with reqs := d.fab.reqs.del t } }

/-- Prefetch after a page-in caused by an access or a pin (08 R285). -/
def Dev.prefetch (d : Dev) (c p : Nat) (o : Nat × Nat) : Dev :=
  match d.obj.ctxs.get? c, d.obj.mobjs.get? o.1, d.parts.get? p with
  | some x, some m, some u =>
    let last := x.lastIn.get? o.1
    let d := d.updCtx c (fun x => { x with lastIn := x.lastIn.set o.1 o.2 })
    if last != some (o.2 - 1) || o.2 = 0 then d else
    let n := bits u.memp.pag 0 8
    (((List.range n).map (fun k => o.2 + 1 + k)).filter (fun k => decide (k * 65536 < m.size))).foldl (fun (d : Dev) k =>
      if (d.osub (o.1, k)).st == .far then (d.pageIn c p (o.1, k) (d.leadOf p) false).getD d else d) d
  | _, _, _ => d

/-- PAGE_IN_COMPLETE: the fetched data makes the sub-page LOCAL, its slot is freed (08 R284). A refused fetch leaves it FAR (log 49). -/
def Dev.pageInDone (d : Dev) (c p : Nat) (o : Nat × Nat) (ok : Bool) (x : List W8) : Dev :=
  let s := d.osub o
  if !(s.st == .inbound) then d else
  if !ok then ((d.freeSub s.target).updSub o (fun s => { s with st := .far })).resume else
  let d := (d.dramWrite (s.target * 65536) (d.fromFar p s.lender s.loc 0 x)).updSub o (fun s => { s with st := .local, loc := s.target })
  let d := ((d.snapLate p o).freeSlot p s.lender s.loc).updMemp p (fun m => { m with countIn := wrapAdd 64 m.countIn 1 })
  ((if s.demand then d.prefetch c p o else d).drainFar p).resume

def Dev.readRespIn (d : Dev) (k : Pkt) : Dev :=
  let t := k.tag.toNat
  match d.fab.reqs.get? t with
  | none => d
  | some r =>
    let d := d.dropReq t
    let ok := k.arg 12 1 = 0
    match r.why with
    | .pageIn c o s => d.pageInDone c r.part (o, s) ok k.data
    | .direct m s b =>
      let u := d.osub (m, s)
      if ok && u.st == .far then
        Dev.resume { d with mem := { d.mem with direct := d.mem.direct ++ [((m, s, b), d.fromFar r.part u.lender u.loc b k.data)] } }
      else d
    | _ => d

/-- PAGE_OUT_COMPLETE: on the lender's acknowledgement the sub-page is FAR and its local copy free (08 R283); a refusal leaves it LOCAL. -/
def Dev.pageOutDone (d : Dev) (p : Nat) (o : Nat × Nat) (a : Nat) (ok : Bool) : Dev :=
  let s := d.osub o
  let f := ((d.parts.get? p).bind (fun u => u.memp.far.get? s.lender)).getD Far.reset
  if !(s.st == .outbound) || farAddr f s.target 0 != a then d
  else if !ok then ((d.updSub o (fun s => { s with st := .local })).freeSlot p s.lender s.target).resume
  else
    let d := (d.freeSub s.loc).updSub o (fun s => { s with st := .far, loc := s.target })
    ((d.updMemp p (fun m => { m with countOut := wrapAdd 64 m.countOut 1 })).drainFar p).resume

def Dev.writeAckIn (d : Dev) (k : Pkt) : Dev :=
  let t := k.tag.toNat
  match d.fab.reqs.get? t with
  | none => d
  | some r =>
    let d := d.dropReq t
    match r.why with
    | .pageOut o s => d.pageOutDone r.part (o, s) (r.pkt.arg 0 8) (k.arg 0 1 = 0)
    | .directW _ _ _ _ => d.resume
    | _ => d

/-- LEND_ACK: the borrower's entry becomes ACTIVE or FAILED (08 R287). -/
def Dev.lendAckIn (d : Dev) (k : Pkt) : Dev :=
  let t := k.tag.toNat
  match d.fab.reqs.get? t with
  | none => d
  | some r =>
    let d := d.dropReq t
    match r.why with
    | .lend p j => d.updMemp p (fun m => { m with far := m.far.upd j (fun f =>
        if f.asked then { f with asked := false, st := if k.arg 0 1 = 0 then 1 else 3, heard := k.arg 0 1 = 0 || f.heard } else f) })
    | _ => d

def execReadResp (p : Nat) (k : Pkt) (s : State) := onDev (fun d => d.onPkt 0x11 p k (fun d => d.readRespIn k)) s
def execWriteAck (p : Nat) (k : Pkt) (s : State) := onDev (fun d => d.onPkt 0x13 p k (fun d => d.writeAckIn k)) s
def execLendAck (p : Nat) (k : Pkt) (s : State) := onDev (fun d => d.onPkt 0x15 p k (fun d => d.lendAckIn k)) s

/-! COLL (11 R372, R378 to R390). -/

/-- A COLL packet for a member of an ACTIVE group of the partition. -/
def Dev.collIn (d : Dev) (p : Nat) (k : Pkt) : Dev :=
  match d.groupOf k.destPart (k.arg 0 2) with
  | none => d.misdeliver p
  | some g => match d.groupRank (d.group g) k.srcMod k.srcPart with
    | none => d.misdeliver p
    | some r => (d.collPkt g r k).replayEarly g

def execJoin (p : Nat) (k : Pkt) (s : State) := onDev (fun d => d.onPkt 0x20 p k (fun d => d.collIn p k)) s
def execChunk (p : Nat) (k : Pkt) (s : State) := onDev (fun d => d.onPkt 0x21 p k (fun d => d.collIn p k)) s
def execChunkAck (p : Nat) (k : Pkt) (s : State) := onDev (fun d => d.onPkt 0x22 p k (fun d => d.collIn p k)) s
def execDone (p : Nat) (k : Pkt) (s : State) := onDev (fun d => d.onPkt 0x23 p k (fun d => d.collIn p k)) s

/-- WITHDRAW: the member is lost for that collective; one whose ARGS hold a 1 after SEQ names a waling group whose slot is gone (12 R414; log 45). -/
def Dev.withdrawIn (d : Dev) (p : Nat) (k : Pkt) : Dev :=
  if k.arg 10 1 = 1 then if !(d.wg k.destPart).armed || (d.wg k.destPart).walingId != k.arg 0 2 then d.misdeliver p else match d.rankOf (d.wg k.destPart) k.srcMod k.srcPart with
    | some r => d.walingLoss k.destPart r
    | none => d.misdeliver p
  else d.collIn p k

def execWithdraw (p : Nat) (k : Pkt) (s : State) := onDev (fun d => d.onPkt 0x24 p k (fun d => d.withdrawIn p k)) s

/-! STATE (12 R426). -/

/-- A STATE packet of a member of the partition's waling group; one of another group or of an earlier EPOCH is discarded. A joining
member takes a later EPOCH from it (log 48). -/
def Dev.onState (d : Dev) (p : Nat) (k : Pkt) (f : Dev → Nat → Nat → Dev) : Dev :=
  let wp := k.destPart
  let w := d.wg wp
  let epoch := k.arg 2 4
  if !w.armed || w.walingId != k.arg 0 2 || epoch < w.epoch.toNat then d.misdeliver p else
  let d := if w.joining && w.epoch.toNat < epoch then d.updWg wp (fun w => { w with epoch := BitVec.ofNat 32 epoch }) else d
  match d.rankOf w k.srcMod k.srcPart with
  | some r => f d wp r
  | none => d.misdeliver p

def execWhello (p : Nat) (k : Pkt) (s : State) := onDev (fun d => d.onPkt 0x30 p k (fun d => d.onState p k (fun d w _ => d.whelloIn w k.srcMod (k.arg 6 4) (k.arg 10 1)))) s
def execSnapReq (p : Nat) (k : Pkt) (s : State) := onDev (fun d => d.onPkt 0x31 p k (fun d => d.onState p k (fun d w _ => d.leaderRequest w (k.arg 6 8)))) s

/-- SNAP_AT: the freeze at the close of round R is kept, or SNAP_LATE answers when that tick has passed (12 R401, R405). -/
def Dev.snapAtIn (d : Dev) (p r round : Nat) : Dev :=
  let idx := ((d.parts.get? p).map (fun u => u.rnd.index.toNat)).getD 0
  let w := d.wg p
  if round < idx then d.sendRank p w r 0x33 [(8, round)] []
  else if w.snap.isSome then d else d.snapBegin p round

def execSnapAt (p : Nat) (k : Pkt) (s : State) := onDev (fun d => d.onPkt 0x32 p k (fun d => d.onState p k (fun d w r => d.snapAtIn w r (k.arg 6 8)))) s

/-- SNAP_LATE: the leader aborts the snapshot of that round at every member (12 R405). -/
def Dev.snapLateIn (d : Dev) (p round : Nat) : Dev :=
  let w := d.wg p
  match w.snap with
  | some sn => if sn.round = round && w.leader = w.rank then ((d.sendRanks p w w.others 0x36 [(1, 2), (8, round)]).snapDiscard p).tryRelease p else d
  | none => d

def execSnapLate (p : Nat) (k : Pkt) (s : State) := onDev (fun d => d.onPkt 0x33 p k (fun d => d.onState p k (fun d w _ => d.snapLateIn w (k.arg 6 8)))) s
def execShip (p : Nat) (k : Pkt) (s : State) := onDev (fun d => d.onPkt 0x34 p k (fun d => d.onState p k (fun d w r => d.shipIn w r (k.arg 6 4) (k.arg 10 1) k.data))) s

/-- SHIP_ACK: a shipped unit is combined at that holder. -/
def Dev.shipAckIn (d : Dev) (p r s : Nat) : Dev :=
  (d.updWg p (fun w => { w with snap := w.snap.map (fun sn => { sn with unacked := sn.unacked.filter (fun u => u != (s, r)) }) })).snapCheck p

def execShipAck (p : Nat) (k : Pkt) (s : State) := onDev (fun d => d.onPkt 0x35 p k (fun d => d.onState p k (fun d w r => d.shipAckIn w r (k.arg 6 4)))) s

/-- SNAP_DONE at the leader. -/
def Dev.snapDoneIn (d : Dev) (p r round : Nat) : Dev :=
  match (d.wg p).snap with
  | some sn => if sn.round != round then d else (d.updWg p (fun w => { w with snap := some { sn with dones := (r :: sn.dones).eraseDups } })).leaderCommit p
  | none => d

/-- SNAP_ABORT at a member. -/
def Dev.snapAbortIn (d : Dev) (p round : Nat) : Dev :=
  match (d.wg p).snap with
  | some sn => if sn.round = round then (d.snapDiscard p).tryRelease p else d
  | none => d

/-- SNAP_DONE, SNAP_COMMIT and SNAP_ABORT share a type; the kind is in ARGS byte 6. -/
def Dev.kindIs (k : Pkt) (n : Nat) (f : Dev → Dev) (d : Dev) : Dev := if k.arg 6 1 = n then f d else d

def execSnapDone (p : Nat) (k : Pkt) (s : State) := onDev (Dev.kindIs k 0 (fun d => d.onPkt 0x36 p k (fun d => d.onState p k (fun d w r => d.snapDoneIn w r (k.arg 7 8))))) s
def execSnapCommit (p : Nat) (k : Pkt) (s : State) := onDev (Dev.kindIs k 1 (fun d => d.onPkt 0x36 p k (fun d => d.onState p k (fun d w _ => d.snapCommit w (k.arg 7 8))))) s
def execSnapAbort (p : Nat) (k : Pkt) (s : State) := onDev (Dev.kindIs k 2 (fun d => d.onPkt 0x36 p k (fun d => d.onState p k (fun d w _ => d.snapAbortIn w (k.arg 7 8))))) s
def execLogData (p : Nat) (k : Pkt) (s : State) := onDev (fun d => d.onPkt 0x38 p k (fun d => d.onState p k (fun d w r => d.logDataIn w r (k.arg 6 1) (k.arg 7 8) k.data))) s

/-- LOG_ACK: an entry is acknowledged by a holder (12 R412). -/
def Dev.logAckIn (d : Dev) (p r owner seq : Nat) : Dev :=
  d.updWg p (fun w => { w with logEnts := w.logEnts.map (fun e => if owner = w.rank && e.seq = seq && !e.acked.contains r then { e with acked := r :: e.acked } else e) })

def execLogAck (p : Nat) (k : Pkt) (s : State) := onDev (fun d => d.onPkt 0x39 p k (fun d => d.onState p k (fun d w r => d.logAckIn w r (k.arg 6 1) (k.arg 7 8)))) s
def execLogFetch (p : Nat) (k : Pkt) (s : State) := onDev (fun d => d.onPkt 0x3A p k (fun d => d.onState p k (fun d w _ =>
  d.logFetchIn w (k.arg 6 1) (k.arg 7 8) (leNat (k.inl.take 8)) k.srcMod k.srcPart))) s
def execRebuildPart (p : Nat) (k : Pkt) (s : State) := onDev (fun d => d.onPkt 0x3B p k (fun d => d.onState p k (fun d w _ =>
  d.partIn w k.tag.toNat (k.arg 6 4) (k.arg 10 1) (k.arg 11 1) k.data))) s
def execJournal (p : Nat) (k : Pkt) (s : State) := onDev (fun d => d.onPkt 0x3C p k (fun d => d.onState p k (fun d w _ =>
  d.journalIn w (k.arg 6 1) (k.arg 7 2) (k.arg 9 1)))) s

end Sys2Proof.Machine
end

