-- ==== Sys2Proof/Machine/Frames.lean ====
section
/-! DEFINITION. FRAME_RX (11 R358 to R365): CRC, sequence, acknowledgement and replay, credits, flits of packets, time records. -/

namespace Sys2Proof.Machine

/-- A packet from its header flit and the bytes of its data flits; MEM data is as long as ARGS says (11 Tables 11-2, 11-4). -/
def pktOf (head data : List W8) : Pkt :=
  let g (o n : Nat) : Nat := leNat ((head.drop o).take n)
  let args := BitVec.ofNat 128 (g 16 16)
  let ty := g 0 1
  { ty := ty, flags := BitVec.ofNat 8 (g 1 1), dest := BitVec.ofNat 16 (g 2 2), src := BitVec.ofNat 16 (g 4 2), hops := g 6 1,
    tag := BitVec.ofNat 32 (g 12 4), args := args, inl := (head.drop 32).take (min 224 (g 10 2)),
    data := if ty = 0x11 || ty = 0x12 then data.take (bits args 64 32) else data }

/-- The types of 11 Table 11-4 and of 12 R426; every other is reserved. -/
def knownType (ty : Nat) : Bool :=
  (decide (1 ≤ ty) && decide (ty ≤ 7)) || (decide (0x10 ≤ ty) && decide (ty ≤ 0x15)) || (decide (0x20 ≤ ty) && decide (ty ≤ 0x24))
    || (decide (0x30 ≤ ty) && decide (ty ≤ 0x3C) && ty != 0x37)

/-- A whole packet has arrived: it goes on at once, is discarded, or waits in the inbox for its own command (log 26). -/
def Dev.arrived (d : Dev) (p : Nat) (k : Pkt) : Dev :=
  match d.fate k with
  | .here => if knownType k.ty then { d with fab := { d.fab with inbox := d.fab.inbox ++ [(p, k)] } } else d.misdeliver p
  | f => d.forward p k f

/-- A flit arrives on a virtual channel: its credit is owed once it is taken up (11 R360, R361). -/
def Dev.flitIn (d : Dev) (p vc : Nat) (x : List W8) : Dev :=
  let h := d.fab.port p
  let cur := h.parts.get? vc
  let head := match cur with
    | some r => r.head
    | none => x
  let pool := 3 * vc + Pkt.cls (pktOf head [])
  let h : HPort := { h with rx := h.rx.set vc (wrapAdd 64 (h.rx.getD vc 0) 1), owed := h.owed.set pool (h.owed.getD pool 0 + 1) }
  let next : RxPart := match cur with
    | some r => ⟨r.head, r.data ++ x, r.left - 1⟩
    | none => ⟨x, [], leNat ((x.drop 8).take 2)⟩
  if next.left = 0 then (d.updPort p (fun _ => { h with parts := h.parts.del vc })).arrived p (pktOf next.head next.data)
  else d.updPort p (fun _ => { h with parts := h.parts.set vc next })

/-- An idle slot's time record (11 R359). -/
def timeRecOf (x : List W8) : TimeRec :=
  let g (o n : Nat) : Nat := leNat ((x.drop o).take n)
  ⟨g 0 8, g 8 2, g 10 1, g 11 1, g 12 4⟩

/-- The slots of a good frame, in order. -/
def Dev.slotsIn (d : Dev) (p : Nat) (fr : List W8) (w : BitVec 128) : Dev :=
  (List.range 16).foldl (fun (d : Dev) i =>
    let x := (fr.drop (256 * i)).take 256
    if w.getLsbD (18 + 3 * i) then d.flitIn p (bits w (16 + 3 * i) 2) x
    else d.updPort p (fun h => { h with timeRec := some (timeRecOf x) })) d

/-- Drops the frames that ACK_SEQ acknowledges from the replay buffer. -/
def HPort.acked (h : HPort) (ack : Nat) : HPort :=
  let n := (ack + 1 + 65536 - (h.txSeq + 65536 - h.replay.length) % 65536) % 65536
  if n ≤ h.replay.length then { h with replay := h.replay.drop n } else h

/-- A frame in order with a correct CRC. -/
def Dev.goodFrame (d : Dev) (p : Nat) (fr : List W8) (w : BitVec 128) : Dev :=
  let d := d.updPort p (fun h =>
    let h : HPort := { (h.acked (bits w 64 16)) with rxGood := bits w 80 16, nak := false, refusals := 0 }
    let pool := bits w 12 4
    let h : HPort := if pool < 12 then { h with credits := h.credits.set pool (h.credits.getD pool (poolSize pool) + bits w 4 8) } else h
    match h.laneRx with
    | some e => if w.getLsbD 2 then { (h.moveLane e.1 e.2.1) with laneRx := none } else h
    | none => h)
  (d.slotsIn p fr w).timeUpdate

/-- What the port sends in return: the frames from ACK_SEQ + 1 on after a NAK, else one new frame. -/
def Dev.answerFrame (d : Dev) (p : Nat) (nak : Bool) : Dev :=
  let h := d.fab.port p
  if nak && !h.replay.isEmpty then
    let l := h.replay.map (fun fr => h.again fr)
    let d := d.updPort p (fun h => { h with replays := satAdd 0xFFFF h.replays 1, replay := l })
    { d with out := d.out.set (0x10 + p) (d.out.getD (0x10 + p) [] ++ l.flatten) }
  else d.newFrame p

/-- FRAME_RX. A frame that is refused waits to be sent again; the port goes DOWN when one is refused eight times running. -/
def Dev.frameIn (d : Dev) (p : Nat) (fr : List W8) (uncorr : Bool) : Dev :=
  let h := d.fab.port p
  if 6 ≤ p || !d.blockUp p || !(h.on || h.st == .hello) || fr.length != 4112 then d else
  let w := BitVec.ofNat 128 (leNat (fr.drop 4096))
  if uncorr || (crc32 (fr.take 4108)).toNat != bits w 96 32 then
    let d := d.updPort p (fun h => { h with
      uncorr := if uncorr then satAdd 0xFFFF h.uncorr 1 else h.uncorr, nak := true, refusals := h.refusals + 1 })
    if 8 ≤ h.refusals + 1 && h.on then d.portDown p else d.newFrame p
  else if bits w 80 16 != (h.rxGood + 1) % 65536 then d.newFrame p
  else (d.goodFrame p fr w).answerFrame p (w.getLsbD 3)

def execFrameRx (p : Nat) (fr : List W8) (uncorr : Bool) (s : State) := onDev (fun d => d.frameIn p fr uncorr) s

end Sys2Proof.Machine
end

