-- ==== Sys2Proof/Machine/Resets.lean ====
section
/-! DEFINITION. Reset levels, sources and the cause register, release of blocks, clocks (14 R453 to R460). -/

namespace Sys2Proof.Machine

def RstLevel.rank : RstLevel → Nat
  | .core => 1 | .sys => 2 | .por => 3

/-! POR and SYSRST (14 R453, Table 14-1). -/

/-- The device after a POR from a source: all but flash and OTP is cleared, then the cause is written. -/
def Dev.por (d : Dev) (src : Nat) (h : Held) : Dev :=
  { Dev.reset with
    clk := { Dev.reset.clk with free := d.clk.free }, flash := d.flash, out := d.out,
    rstc := { Rstc.reset with source := src, history := BitVec.ofNat 15 (2 ^ src), held := h } }

/-- What a tile keeps through SYSRST: runtime row repairs and retired clusters. -/
def Tile.sysReset (t : Tile) : Tile :=
  let f (c : Sc) : Sc := { Sc.reset with remap := c.remap, sparesUsed := c.sparesUsed, remapFull := c.remapFull }
  { Tile.reset with sc0 := f t.sc0, sc1 := f t.sc1, spare := { t.spare with corrThresh := 64, cluster := 0, corr := [] } }

/-- The device after a SYSRST: the always-on domain, debug, repairs and what counts since POR are kept. -/
def Dev.sysReset (d : Dev) (src : Nat) (h : Held) : Dev :=
  { Dev.reset with
    clk := { Dev.reset.clk with free := d.clk.free }, flash := d.flash, out := d.out, dbg := d.dbg,
    rstc := { Rstc.reset with sysCount := satAdd 0xFFFF d.rstc.sysCount 1, coreCount := d.rstc.coreCount, level := 2, source := src,
                              history := d.rstc.history, held := h, busyLevel := some .sys },
    tiles := d.tiles.mapV (fun _ t => t.sysReset),
    obj := { Obj.reset with ignoredCount := d.obj.ignoredCount },
    evt := { d.evt with en := true, core := 0 },
    ptc := { Ptc.reset with hubUj := d.ptc.hubUj },
    fab := { Fab.reset with stepped := d.fab.stepped },
    secm := { Secm.reset with keyGen := d.secm.keyGen } }

/-! CORERST (14 R455). -/

/-- A running command stops: a LAUNCH and a COPY as ABORT stops them, an UPDATE at a block boundary, a COLL is withdrawn. -/
def Dev.coreStopCmd (d : Dev) (q i : Nat) : Dev :=
  match d.cmd? q i with
  | none => d
  | some c =>
    let code := c.stop.getD cAborted
    match c.opc with
    | 1 => (d.discard (fun _ a b => a == q && b == i) (fun _ => true)).retire q i code
    | 2 => (d.updCmd q i (fun k => { k with stop := some code })).updComplete q i
    | 3 => (d.updCmd q i (fun k => { k with stop := some code })).copyComplete q i
    | 4 => (d.withdraw q i).retire q i code
    | _ => d.retire q i code

/-- Tile compute logic, command units and update engines are reset; stack controllers, sparing and a trip stay. -/
def Tile.coreReset (t : Tile) : Tile :=
  let f (c : Sc) : Sc := if c.st == .active then { c with st := .selfRefresh } else c
  { Tile.reset with sc0 := f t.sc0, sc1 := f t.sc1, spare := t.spare, trip := t.trip, avail := t.avail, maint := t.maint }

/-- Steps 1 and 2: no work is admitted, every command completes, every fence fails. -/
def Dev.coreCmds (d : Dev) : Dev :=
  let d : Dev := { d with obj := { d.obj with held := true } }
  let cs := d.obj.ctxs.map (fun kv => kv.1)
  let d := cs.foldl (fun (d : Dev) c => (d.cmdsOf c (fun k => !k.started)).foldl (fun (d : Dev) t => d.retire t.1 t.2 cContextLost) d) d
  let d := cs.foldl (fun (d : Dev) c => (d.cmdsOf c (fun _ => true)).foldl (fun (d : Dev) t => d.coreStopCmd t.1 t.2) d) d
  cs.foldl Dev.failFences d

/-- Steps 3 and 4: contexts are torn down and freed, but for those whose objects a waling slot holds; tiles and cores are held. -/
def Dev.coreTear (d : Dev) : Dev :=
  let cs := d.obj.ctxs.map (fun kv => kv.1)
  let d := cs.foldl (fun (d : Dev) c => (d.updCtx c (fun x => { x with st := .teardown })).endTeardown c) d
  { d with
    cole := { d.cole with groups := d.cole.groups.mapV (fun _ g => if g.st = 0 then g else g.freed) },
    clusters := [], plaits := [], groups := [], cpys := [], stops := [], rcache := [], arrays := [], slices := [], saved := [],
    tiles := d.tiles.mapV (fun _ t => t.coreReset) }

/-- CORERST up to the release: a replay's LIVE copies are discarded (12 R422); the module RESTARTS under the ROM responder, a pending power state waits for no tick. -/
def Dev.coreReset (d : Dev) (src : Nat) : Dev :=
  let d := (d.rse.wgs.map (fun kv => kv.1)).foldl Dev.replayDiscard d.coreCmds
  let d := d.coreTear
  { d with
    rstc := { d.rstc with coreCount := satAdd 0xFFFF d.rstc.coreCount 1, level := 1, source := src, busyLevel := some .core, coreStep := true, wdtOff := false },
    boot := { d.boot with stage := if d.boot.stage = 1 then 1 else 2, narby := false, restarting := true, handover := false },
    mgmt := { d.mgmt with osOwner := false },
    ptc := { d.ptc with ticked := if d.ptc.psPending then d.parts.map (fun kv => kv.1) else [] } }

/-- A partition after CORERST: a formation round, every control register at its overlay value; lend and far entries stay (Table 14-1). -/
def Part.restart (u : Part) (t w : Nat) : Part :=
  let v := Part.form u.ent (u.szt.set 25 (BitVec.ofNat 64 u.ent.period)) t w u.key
  { v with tiles := u.tiles, drain := u.drain,
           memp := { v.memp with far := u.memp.far, lend := u.memp.lend, refused := u.memp.refused, migRun := u.memp.migRun, outing := u.memp.outing,
                                 clock := u.memp.clock } }

/-- Step 5: the blocks are released and every partition opens a formation round. -/
def Dev.coreGo (d : Dev) : Dev :=
  if !d.rstc.coreStep then d else
  let d : Dev := { d with rstc := { d.rstc with coreStep := false, busyLevel := none }, parts := d.parts.mapV (fun _ u => u.restart d.clk.now (d.windowReserve u.tiles)) }
  if d.ptc.psState = 2 then d else
  (d.parts.flatMap (fun kv => kv.2.tiles)).foldl (fun (d : Dev) t => d.stacks t true) d

/-! Requests (14 R456, R457). -/

/-- A source's bit in HISTORY. -/
def Dev.seen (d : Dev) (src : Nat) : Dev := { d with rstc := { d.rstc with history := d.rstc.history ||| BitVec.ofNat 15 (2 ^ src) } }

/-- A POR request, held as given: without power it sets its bit only; IN_PG deasserted counts as its cycle. -/
def Dev.raisePor (d : Dev) (src : Nat) (h : Held) : Dev :=
  match d.rstc.held with
  | .needPower => d.seen src
  | .needInPg => let d := d.seen src
    if src = 6 then { d with rstc := { d.rstc with held := .needPower } } else d
  | _ => d.por src h

/-- A request of SYSRST or CORERST: a narrower reset in progress ends, an equal or wider one goes on; nothing answers in PS3. -/
def Dev.raise (d : Dev) (l : RstLevel) (src : Nat) (h : Held) : Dev :=
  let run (d : Dev) : Dev := if l = .sys then d.sysReset src h else d.coreReset src
  if d.ptc.psState = 3 then d else
  match d.rstc.busyLevel with
  | some b => if l.rank ≤ b.rank then d.seen src else run (d.seen src)
  | none => run (d.seen src)

/-- INPUT_UNDERVOLTAGE and INPUT_OVERVOLTAGE (13 R429). -/
def execInputUndervoltage (mv us : Nat) (s : State) := onDev (fun d => if mv < 40000 && 100 < us then d.raisePor 1 .needPower else d) s
def execInputOvervoltage (mv us : Nat) (s : State) := onDev (fun d => if 60000 < mv && 10 < us then d.raisePor 2 .needPower else d) s

/-- The critical shutdown: every rail but always-on goes, THERM_TRIP_N is asserted until the next POR (13 R444). -/
def Dev.shutdown (d : Dev) (src : Nat) : Dev :=
  let d := d.raisePor src .needInPg
  if d.rstc.held = .needInPg then { d with ptc := { d.ptc with thermTrip := true } } else d

/-- CRITICAL_SHUTDOWN: a die, the hub by number 8, at 125 °C. -/
def execCriticalShutdown (t : Nat) (c : Int) (s : State) := onDev (fun d => if 125 ≤ c && t ≤ 8 then d.shutdown 3 else d) s

/-- IBC_FAIL: with one converter lost the limit falls, with two the module shuts down (13 R430), also while SYS_RST_N is low; without input power,
after a shutdown and in PS3 no converter runs. -/
def Dev.ibcLost (d : Dev) (k : Nat) : Dev :=
  if 4 ≤ k || !d.ptc.ibcOk.getLsbD k || d.rstc.held = .needPower || d.rstc.held = .needInPg || d.ptc.psState = 3 then d else
  let ok := d.ptc.ibcOk &&& ~~~(1#4 <<< k)
  let d : Dev := { d with ptc := { d.ptc with ibcOk := ok, ibcFaults := satAdd 0xFF d.ptc.ibcFaults 1 } }
  if 2 ≤ ((List.range 4).filter (fun j => !ok.getLsbD j)).length then d.shutdown 4 else d

def execIbcFail (k : Nat) (s : State) := onDev (fun d => d.ibcLost k) s

/-- POWER_UP: 50 V good ends the hold of a POR, and start-up begins (16 R508). -/
def execPowerUp (s : State) := onDev (fun d =>
  if d.rstc.held = .needPower then { d with rstc := { d.rstc with held := .no }, ptc := { d.ptc with thermTrip := false } } else d) s
/-- IN_PG_DEASSERT: POR, held while it is deasserted. -/
def execInPgDeassert (s : State) := onDev (fun d => d.raisePor 6 .needPower) s
/-- SYS_RST_N_LOW: a pulse of 1 µs or more. -/
def execSysRstNLow (ns : Nat) (s : State) := onDev (fun d => if 1000 ≤ ns then d.raise .sys 7 .sysRstN else d) s
def execSysRstNRelease (s : State) := onDev (fun d => if d.rstc.held = .sysRstN then { d with rstc := { d.rstc with held := .no } } else d) s

/-- A write of RSTC_CTRL (14 Table 14-11). -/
def Dev.rstcCtrl (d : Dev) (v : W64) : Dev :=
  if !v.getLsbD 0 && !v.getLsbD 1 then d else
  if bits v 24 8 != 0xA5 then d.ignReg 0x09 0x00100008 else
  let d := if v.getLsbD 1 then d.raise .sys 8 .no else d
  if v.getLsbD 0 then d.raise .core 0xB .no else d

def execRstcCtrlSysrst (v : W64) (s : State) := onDev (fun d => d.rstcCtrl (v ||| 2)) s
def execRstcCtrlCorerst (v : W64) (s : State) := onDev (fun d => d.rstcCtrl (v ||| 1)) s

/-- The watchdog of the security processor, which runs once its boot ROM has started. -/
def execSecWatchdogExpire (s : State) := onDev (fun d => if d.boot.romStarted && d.otpc.opt.wdtSec != 0 then d.raise .sys 9 .no else d) s

/-- The Narby watchdog: off at 0, suspended by a handover and while a core is halted (14 R479; 15 R501). -/
def Dev.narbyWdtOn (d : Dev) : Bool := d.rstc.narbyMs != 0 && !d.rstc.wdtOff && d.dbg.halted.isEmpty && d.boot.dramTrained
def execNarbyWatchdogExpire (s : State) := onDev (fun d => if d.narbyWdtOn then d.raise .core 0xC .no else d) s

/-- A write of RSTC_WDT (14 Table 14-13). Restarting the count is timing (log 4). -/
def Dev.wdtWrite (d : Dev) (v : W64) : Dev :=
  let n := bits v 0 16
  if n = 0 || (100 ≤ n && n ≤ 60000) then { d with rstc := { d.rstc with narbyMs := n } } else d.ignReg 0x09 0x00100018

def execKick (v : W64) (s : State) := onDev (fun d => d.wdtWrite v) s

/-- HANDOVER_TIMEOUT: a new OS that has not released the ports within 5 s (14 R479). -/
def execHandoverTimeout (s : State) := onDev (fun d => if d.boot.handover then d.raise .core 0xC .no else d) s

/-- DEBUG_RESET_REQUEST at the full level (15 R501). -/
def execDebugResetRequest (core : Bool) (s : State) := onDev (fun d => if d.dbg.level = 2 then d.raise (if core then .core else .sys) 0xA .no else d) s

/-! Blocks and clocks (14 R459, R460). -/

/-- PLL_LOCK_LOST of a clock domain (log 63). -/
def Dev.pllLost (d : Dev) (k : Nat) : Dev :=
  if k = 17 || k = 18 then d.raise .sys 0xD .no
  else if k < 19 then { d with rstc := { d.rstc with unlocked := if d.rstc.unlocked.contains k then d.rstc.unlocked else k :: d.rstc.unlocked, pllFault := true } }
  else if k < 25 then
    let d : Dev := { d with rstc := { d.rstc with stable := d.rstc.stable &&& ~~~(1#9 <<< (k - 19)), pllFault := true } }
    d.portDown (k - 19)
  else d

def execPllLockLost (k : Nat) (s : State) := onDev (fun d => d.pllLost k) s

/-- A port whose clocks are good leaves electrical idle once the hold has ended, and trains when enabled (11 Table 11-5). -/
def Dev.portGo (d : Dev) (p : Nat) : Dev :=
  if !d.boot.idleReleased || !d.blockUp p then d else
  d.updPort p (fun h =>
    let h : HPort := { h with idle := false }
    if h.st == .idleHold && h.en then h.train else h)

/-- A write of RSTC_BLOCKS: holds take effect; a release before the clocks are good is ignored with the whole write; PLL_FAULT is W1C. -/
def Dev.blocksWrite (d : Dev) (v : W64) : Dev :=
  let h : BitVec 9 := v.extractLsb' 0 9
  let early := d.rstc.hold &&& ~~~h &&& ~~~d.rstc.stable
  if early != 0 then d.ignReg 0x0B 0x00100010 else
  let go := d.rstc.hold &&& ~~~h
  let d : Dev := { d with rstc := { d.rstc with hold := h, pllFault := d.rstc.pllFault && !v.getLsbD 24 } }
  ((List.range 6).filter (fun p => go.getLsbD p)).foldl (fun (d : Dev) p => d.portGo p) d

def execBlockHoldWrite (v : W64) (s : State) := onDev (fun d => d.blocksWrite v) s

/-- BLOCK_RELEASE: 0 to 8 are the blocks of RSTC_BLOCKS, 9 the tiles and cores held by a CORERST, 16 + k the blocks of clock domain k (log 63). -/
def Dev.blockGo (d : Dev) (b : Nat) : Dev :=
  if d.rstc.held != .no then d
  else if b < 9 then
    if !d.boot.romStarted then d else
    let d : Dev := { d with rstc := { d.rstc with stable := d.rstc.stable ||| (1#9 <<< b) } }
    if b < 6 then d.portGo b else d
  else if b = 9 then d.coreGo
  else if 16 ≤ b then { d with rstc := { d.rstc with unlocked := d.rstc.unlocked.filter (fun k => k != b - 16) } }
  else d

def execBlockRelease (b : Nat) (s : State) := onDev (fun d => d.blockGo b) s

end Sys2Proof.Machine
end

