-- ==== Sys2Proof/Machine/Power.lean ====
section
/-! DEFINITION. Power and thermal control (13): the interval of the controller, droop, caps, power states. -/

namespace Sys2Proof.Machine

/-- Signed byte of a temperature. -/
def tempByte (t : Int) : Nat := (BitVec.ofInt 8 t).toNat

/-- One step of a factor against a limit: down 2 above it, up 1 below it less the hysteresis (13 R434). -/
def factorStep (k used limit hyst : Nat) : Nat :=
  if limit < used then max 16 (k - 2) else if used * 100 < limit * (100 - hyst) then min 64 (k + 1) else k

/-- The limit L (13 R434, R430). -/
def Ptc.limitOf (c : Ptc) (vinMv : Nat) : Nat :=
  min c.capW (min (82 * vinMv / 1000) (if c.ibcOk == 0xF#4 then 3600 else 2700))

/-- What an interval measures of a tile; an absent measurement repeats the last one. DRAM_C is the temperature of the hotter stack (13 R439). -/
def Trip.measured (t : Trip) (m : PtcMeas) (k : Nat) (dram : Int) : Trip :=
  { t with logicC := m.logicC.getD k t.logicC, dramC := dram, logicW := m.logicW.getD k t.logicW, stackW := m.stackW.getD k t.stackW }

/-- The factor k_therm follows the logic temperature (13 R440). -/
def Trip.therm (t : Trip) (throttle : Nat) : Trip :=
  { t with kTherm := if (throttle : Int) < t.logicC then max 16 (t.kTherm - 2) else if t.logicC < (throttle : Int) - 3 then min 64 (t.kTherm + 1) else t.kTherm }

/-- A tile trips, or restarts (13 R441). -/
def Dev.tripTile (d : Dev) (k : Nat) : Dev :=
  let t := (d.tile k).trip
  if !t.trip && (115 ≤ t.logicC || 105 < t.dramC) then
    let d := d.updTile k (fun x => { x with trip := { x.trip with trip := true }, sc0 := { x.sc0 with limit := 500 }, sc1 := { x.sc1 with limit := 500 } })
    Dev.event 0x03 ((ownerOf d.parts k).getD 0xFF) k (tempByte t.logicC * 256 + tempByte t.dramC)
      { d with ptc := { d.ptc with trips := satAdd 0xFFFF d.ptc.trips 1 } }
  else if t.trip && t.logicC ≤ 95 && t.dramC ≤ 95 then
    d.updTile k (fun x => { x with trip := { x.trip with trip := false }, sc0 := { x.sc0 with limit := 1000 }, sc1 := { x.sc1 with limit := 1000 } })
  else d

/-- Rail power of a partition's tiles, logic and stacks (13 R437). -/
def Dev.partWatts (d : Dev) (u : Part) : Nat := (u.tiles.map (fun t => (d.tile t).trip.logicW + (d.tile t).trip.stackW)).foldl (· + ·) 0

/-- The factors of partitions, each against its own cap; 64 without one. -/
def Dev.partFactors (d : Dev) : Tbl Nat :=
  (List.range 8).foldl (fun t p =>
    let cap := d.ptc.partCap.getD p 0
    match d.parts.get? p with
    | some u => t.set p (if cap = 0 then 64 else factorStep (t.getD p 64) (d.partWatts u) cap d.ptc.hyst)
    | none => t.set p 64) d.ptc.kPart

/-- PTC_INTERVAL: every 10 µs, from measurements (13 R434 to R443; log 19). The factor has stood at its floor for 1 ms at the hundredth interval
after the one that brought it there (R435). -/
def Dev.ptcStep (d : Dev) (m : PtcMeas) : Dev :=
  if d.rstc.held != .no || d.ptc.psState = 3 then d else
  let c := d.ptc
  let limit := c.limitOf m.vinMv
  let holdF := decide (0 < c.fwHold)
  let clamp := decide (115 ≤ m.hubC) || (c.clamp && decide (105 ≤ m.hubC))
  let k := if holdF then c.kCap else if clamp then 16 else factorStep c.kCap m.pinW limit c.hyst
  let floorIv := if k = 16 then c.floorIv + 1 else 0
  let un := if limit < m.pinW then c.capUnreached || decide (101 ≤ floorIv) else false
  let d := (List.range 8).foldl (fun (d : Dev) t =>
    (d.updTile t (fun x =>
      let y := x.trip.measured m t (max x.sc0.tempC x.sc1.tempC)
      { x with trip := if holdF then y else y.therm c.throttleC })).tripTile t) d
  let d : Dev := { d with ptc := { d.ptc with
    vin := m.vinMv / 10, iin := m.iinMa / 10, pinW := m.pinW, psilW := m.psilW, outletC := m.outletC, inletC := m.inletC, hubC := m.hubC,
    limitW := limit, kCap := k, floorIv := floorIv, capUnreached := un, clamp := clamp, fwHold := c.fwHold - 1,
    kPart := if holdF then c.kPart else d.partFactors, hubUj := wrapAdd 64 c.hubUj m.hubUj,
    alert := decide (k < 64) || un || decide (58000 < m.vinMv) || decide (40 < m.inletC) || clamp || d.tiles.any (fun t => t.2.trip.trip) } }
  if un && !c.capUnreached then d.event 0x08 0xFF 0 m.pinW else d

def execPtcInterval (m : PtcMeas) (s : State) := onDev (fun d => d.ptcStep m) s

/-! Droop (13 R438), in units of 12.5 %. -/

/-- The stretch for a depth below target. -/
def droopUnits (mv thresh : Nat) : Nat :=
  if mv < thresh then 0 else if 2 * mv < 3 * thresh then 1 else if mv < 2 * thresh then 2 else if 2 * mv < 5 * thresh then 3 else 4

/-- DROOP_DETECT: the deepest assertion sets the stretch; one from none is a droop event. -/
def Dev.droop (d : Dev) (tile c mv : Nat) : Dev :=
  let n := droopUnits mv d.ptc.droopMv
  if n = 0 || 8 ≤ tile || 40 ≤ c then d else
  let old := (d.cluster (ckey tile c)).stretch
  let d := d.updCluster (ckey tile c) (fun x => { x with stretch := max x.stretch n })
  if old = 0 then { d with ptc := { d.ptc with droops := wrapAdd 32 d.ptc.droops 1 } } else d

def execDroopDetect (tile c mv : Nat) (s : State) := onDev (fun d => d.droop tile c mv) s
def execDroopRelax (tile c : Nat) (s : State) := onDev (fun d =>
  if (d.cluster (ckey tile c)).stretch = 0 || 40 ≤ c then d else d.updCluster (ckey tile c) (fun x => { x with stretch := x.stretch - 1 })) s

/-! The cap (13 R436). -/

def Dev.capWrite (d : Dev) (v : W64) : Dev :=
  let cap := bits v 0 16
  let hyst := bits v 16 8
  if cap < 1200 || 3600 < cap || hyst = 0 || 10 < hyst then d.ignReg 0x09 0x00200008
  else { d with ptc := { d.ptc with capW := cap, hyst := hyst } }

def execCapWWrite (v : W64) (s : State) := onDev (fun d => d.capWrite v) s

/-! Power states (13 R447 to R451). -/

/-- Is a write of TARGET ignored (13 R448)? -/
def Dev.psRefused (d : Dev) (t : Nat) : Bool :=
  d.otpc.pending || d.ptc.psPending
    || (t = 2 && (d.parts.any (fun u => u.2.memp.lend.any (fun l => l.2.active)) || d.rse.wgs.any (fun w => w.2.st != 0)))
    || (t = 3 && !d.parts.isEmpty)

/-- A write of PTC_PS with a TARGET: 0 asks for the exit, another state for its entry; one in force stays. In PS3 no register can be written and only
a wake leaves it (13 R447, R450). -/
def Dev.psWrite (d : Dev) (v : W64) (t : Nat) : Dev :=
  if d.ptc.psState = 3 then d else
  if d.psRefused t then d.ignReg 0x09 0x00200038 else
  { d with ptc := { d.ptc with wakeAddr := bits v 2 7, psTarget := t, psPending := t != 0 && t != d.ptc.psState,
                               ticked := if t != 0 && t != d.ptc.psState then [] else d.ptc.ticked } }

def execPsTargetPs0 (v : W64) (s : State) := onDev (fun d => d.psWrite v 0) s
def execPsTargetPs1 (v : W64) (s : State) := onDev (fun d => d.psWrite v 1) s
def execPsTargetPs2 (v : W64) (s : State) := onDev (fun d => d.psWrite v 2) s
def execPsTargetPs3 (v : W64) (s : State) := onDev (fun d => d.psWrite v 3) s

/-- What of the reset controller lies in the always-on domain: RSTC_CAUSE (13 Table 13-6). -/
def Rstc.alwaysOn (r : Rstc) (h : Held) : Rstc :=
  { Rstc.reset with sysCount := r.sysCount, coreCount := r.coreCount, level := r.level, source := r.source, history := r.history, held := h }

/-- PS3: all but the always-on domain is off, DRAM contents are lost, links are down; a wake held during entry follows at once (13 R450). -/
def Dev.enterPs3 (d : Dev) : Dev :=
  if d.ptc.wake then d.por 5 .no else
  { Dev.reset with
    clk := { Dev.reset.clk with free := d.clk.free }, flash := d.flash, out := d.out, dbg := d.dbg, rstc := d.rstc.alwaysOn .ps3,
    obj := { Obj.reset with ignoredCount := d.obj.ignoredCount },
    ptc := { Ptc.reset with psState := 3, psTarget := 3, wakeAddr := d.ptc.wakeAddr, hubUj := d.ptc.hubUj } }

/-- PS_ENTRY_COMPLETE: every partition has passed a tick, no command is ADMITTED or RUNNING. -/
def Dev.psEnter (d : Dev) : Dev :=
  let t := d.ptc.psTarget
  if !d.ptc.psPending || !d.parts.all (fun u => d.ptc.ticked.contains u.1) || !(d.parts.all (fun u => (d.cmdsIn u.1 Cmd.inflight).isEmpty)) then d
  else if t = 3 then d.enterPs3 else
  let woke := decide (d.ptc.psState = 2)
  let d : Dev := { d with ptc := { d.ptc with psPending := false, psState := t } }
  if t = 2 then
    let d := (d.clusters.map (fun kv => kv.1)).foldl Dev.clearCluster d
    (List.range 8).foldl (fun (d : Dev) k => d.stacks k false) d
  else if woke then (d.parts.flatMap (fun u => u.2.tiles)).foldl (fun (d : Dev) k => d.stacks k true) d
  else d

def execPsEntryComplete (s : State) := onDev Dev.psEnter s

/-- PS_EXIT_COMPLETE: back in PS0. After PS2 a partition admits from its next tick (13 Table 13-6). -/
def Dev.psExit (d : Dev) : Dev :=
  let st := d.ptc.psState
  if d.ptc.psTarget != 0 || d.ptc.psPending || (st != 1 && st != 2) then d else
  let d : Dev := { d with ptc := { d.ptc with psState := 0, ticked := if st = 2 then d.parts.map (fun u => u.1) else [] } }
  if st = 2 then (d.parts.flatMap (fun u => u.2.tiles)).foldl (fun (d : Dev) k => d.stacks k true) d else d

def execPsExitComplete (s : State) := onDev Dev.psExit s

/-- PS3_WAKE: a START with WAKE_ADDR; one during entry is held (13 R450). -/
def Dev.psWake (d : Dev) (a : Nat) : Dev :=
  if a != d.ptc.wakeAddr then d
  else if d.ptc.psState = 3 && d.rstc.held = .ps3 then d.por 5 .no
  else if d.ptc.psPending && d.ptc.psTarget = 3 then { d with ptc := { d.ptc with wake := true } } else d

def execPs3Wake (a : Nat) (s : State) := onDev (fun d => d.psWake a) s

end Sys2Proof.Machine
end

