-- ==== Sys2Proof/Machine/Auth.lean ====
section
/-! DEFINITION. Keys, nonces, authorisation blocks (14 R465 to R468); the debug port (15 R498 to R501). -/

namespace Sys2Proof.Machine

/-- The security processor reads carve-out memory: a refusal reason, or the bytes. An uncorrectable error raises its event (15 R484). -/
def Dev.secRead (d : Dev) (a n : Nat) : Dev × Nat × List W8 :=
  if !carveOk a n then (d, 9, [])
  else if d.badIn a n then (d.carveEvent a, 1, [])
  else (d, 0, d.dramRead a n)

/-- Is a key slot programmed and not revoked (14 R465)? -/
def Otp.keyUsable (o : Otp) (k : Nat) : Bool :=
  match o.keys.get? k with
  | some s => s.programmed && !s.revoked
  | none => false

/-- Extends measurement register n (14 R470). -/
def Dev.extend (d : Dev) (n : Nat) (x : BitVec 256) : Dev :=
  { d with secm := { d.secm with meas := d.secm.meas.set n (Config.sha256 (leBytes 32 (d.secm.meas.getD n 0).toNat ++ leBytes 32 x.toNat)) } }

/-- Draws a new nonce (14 R468). -/
def Dev.newNonce (d : Dev) : Dev := { d with secm := { d.secm with nonce := Config.free256 d.clk.free } }.drew

/-- Is a 512-byte block, with the given first 16 bytes, valid for a nonce: serial number, slot, zeros, signature (14 R468)? -/
def authOk (o : Otp) (head : List W8) (nonce : BitVec 256) (slotOk : Nat → Bool) (b : List W8) : Bool :=
  let k := leAt b 56 1
  b.length = 512 && b.take 16 == head && leAt b 16 8 = o.serial.toNat && leAt b 24 32 = nonce.toNat && o.keyUsable k && slotOk k
    && ((b.drop 57).take 71).all (fun x => x == 0)
    && Config.authVerify (((o.keys.get? k).map (fun s => s.hash)).getD 0) (b.take 128) (b.drop 128)

/-! The debug port. -/

/-- Does the port offer UNLOCK: DEBUG_POLICY 0, not locked out (15 R498, R500)? -/
def Dev.unlockOn (d : Dev) : Bool := d.otpc.opt.debugPolicy = 0 && !d.dbg.lockedOut

/-- UNLOCK_CAPTURE: a new nonce. -/
def execUnlockCapture (s : State) := onDev (fun d =>
  if d.unlockOn && d.rstc.held = .no then { d with dbg := { d.dbg with nonce := Config.free256 d.clk.free } }.drew else d) s

/-- The security processor verifies a token (15 R499, R500). -/
def Dev.token (otp : Otp) (d : Dev) (t : List W8) : Dev :=
  let level := leAt t 0 1
  if (level = 1 || level = 2) && authOk otp (leBytes 1 level ++ leBytes 15 0) d.dbg.nonce (fun _ => true) t then
    Dev.event 0x0B 0xFF level (leAt t 56 1) (Dev.extend { d with dbg := { d.dbg with level := level } } 14 (Config.sha256 t))
  else
    let n := satAdd 0xFF d.dbg.fails 1
    { d with dbg := { d.dbg with fails := n, lockedOut := d.dbg.lockedOut || decide (8 ≤ n) } }

/-- Tokens that waited for the security processor, in order. -/
def Dev.tokensWaiting (otp : Otp) (d : Dev) : Dev :=
  d.dbg.waiting.foldl (fun (d : Dev) t => if d.unlockOn then d.token otp t else d) { d with dbg := { d.dbg with waiting := [] } }

/-- DEBUG_UNLOCK: a token is shifted in; it waits while the security processor does not run. -/
def Dev.unlock (otp : Otp) (d : Dev) (t : List W8) : Dev :=
  if !d.unlockOn || d.rstc.held = .needPower || d.rstc.held = .needInPg || d.rstc.held = .ps3 then d
  else if d.boot.romStarted then d.token otp t else { d with dbg := { d.dbg with waiting := d.dbg.waiting ++ [t] } }

def execDebugUnlock (t : List W8) (s : State) : Host.Outcome State Fault Refusal := .next { s with dev := s.dev.unlock s.otp t }

/-- DEBUG_CORE_HALT at an unlocked level; halted cores suspend the Narby watchdog. -/
def execDebugCoreHalt (core : Nat) (halt : Bool) (s : State) := onDev (fun d =>
  if d.dbg.level = 0 || 16 ≤ core then d else
  { d with dbg := { d.dbg with halted := if halt then (core :: d.dbg.halted).eraseDups else d.dbg.halted.filter (fun c => c != core) } }) s

end Sys2Proof.Machine
end

