-- ==== Sys2Proof/Machine/Boot.lean ====
section
/-! DEFINITION. Start-up (14 R461, R462, R469 to R473, R479; 16 R511): fuse map, option bytes, the boot chain and recovery, training and
self-test, the hand over to the Narby OS. -/

namespace Sys2Proof.Machine

/-! Fuse map and option bytes. -/

/-- FUSE_MAP_APPLY (14 R461). -/
def Dev.fuseApply (otp : Otp) (d : Dev) : Dev :=
  if d.rstc.held != .no || d.otpc.fuseDone then d else
  { d with otpc := { d.otpc with fuse := (otp.record 0x01).map (fun b => BitVec.ofNat 1024 (leNat b)), fuseDone := true } }

def execFuseMapApply (s : State) : Host.Outcome State Fault Refusal := .next { s with dev := s.dev.fuseApply s.otp }

/-- How an output pin stands, by its position: what no released block drives takes its fuse-map entry (14 R461). -/
inductive PinState where
  | driven
  | highZ
  | low
  | high
  | pullUp
  | pullDown
  deriving DecidableEq, Repr

def Otpc.pin (c : Otpc) (i : Nat) : PinState :=
  match c.fuse with
  | none => .highZ
  | some f => match bits f (4 * i) 4 with
    | 1 => .low | 2 => .high | 3 => .pullUp | 4 => .pullDown | _ => .highZ

/-- Is the hub's power domain on (13 R447, R451; 14 R456)? -/
def Dev.hubOn (d : Dev) : Bool := d.ptc.psState != 3 && d.rstc.held != .needPower && d.rstc.held != .needInPg

/-- Block of RSTC_BLOCKS that owns an output position: hoop lanes, management, PCIe (16 Table 16-1). -/
def pinBlock (i : Nat) : Option Nat := if i < 54 then some (i / 9) else if i = 54 then some 6 else if i < 63 then some 8 else none

/-- How output position i stands: the always-on outputs PWR_ALERT_N, THERM_TRIP_N and the sideband stay driven in every state, an asserted
open-drain output low; those of a domain that is off float; the others follow their block once it is released, before that the fuse map
(13 R451; 14 R461; 16 R505, R506). -/
def Dev.outPin (d : Dev) (i : Nat) : PinState :=
  if i = 64 then (if d.ptc.alert then .low else .driven)
  else if i = 65 then (if d.ptc.thermTrip then .low else .driven)
  else if i = 66 || i = 67 then .driven
  else if !d.hubOn || 69 ≤ i then .highZ
  else if i = 63 then (if d.boot.perst then d.otpc.pin i else .high)
  else if i = 68 then .driven
  else match pinBlock i with
    | some b => if d.blockUp b then .driven else d.otpc.pin i
    | none => d.otpc.pin i

/-- Option bytes of a record body (14 Table 14-3). -/
def optOf (b : List W8) : OptBytes :=
  { bootOverlay := leAt b 0 1, spiDiv := leAt b 1 1, addrMode := leAt b 2 1, pfx := leAt b 3 1, staticIp := BitVec.ofNat 32 (leAt b 4 4),
    gateway := BitVec.ofNat 32 (leAt b 8 4), recoverySrv := BitVec.ofNat 32 (leAt b 12 4), mgmtMac := some (BitVec.ofNat 48 (leAt b 16 6)),
    smbusAddr := leAt b 22 1, debugPolicy := leAt b 23 1, hoopEn := BitVec.ofNat 8 (leAt b 24 1), timePriority := leAt b 25 1,
    wdtNarby := leAt b 26 2, wdtSec := leAt b 28 2 }

/-- Is every field in its range? A static address needs a prefix and a recovery server (log 66). -/
def optOk (b : List W8) : Bool :=
  let o := optOf b
  b.length = 64 && decide (o.bootOverlay ≤ 6) && decide (o.addrMode ≤ 1) && decide (o.pfx ≤ 31) && !(o.addrMode = 1 && (o.pfx = 0 || o.recoverySrv == 0))
    && decide (8 ≤ o.smbusAddr) && decide (o.smbusAddr ≤ 0x77) && decide (o.debugPolicy ≤ 1) && decide (o.hoopEn.toNat < 64)
    && decide (o.timePriority ≤ 15) && (o.wdtNarby = 0 || (decide (100 ≤ o.wdtNarby) && decide (o.wdtNarby ≤ 60000))) && (b.drop 30).all (fun x => x == 0)

/-- OPTION_BYTES_READ: registers take their reset values from them (14 R462). -/
def Dev.optRead (otp : Otp) (d : Dev) : Dev :=
  if d.rstc.held != .no || d.otpc.optDone then d else
  let body := (otp.record 0x02).bind (fun b => if optOk b then some b else none)
  let r := body.map optOf
  let o := r.getD OptBytes.absent
  let d : Dev := { d with
    otpc := { d.otpc with opt := o, optValid := r.isSome, optDone := true, optBody := body.getD [] },
    ptc := { d.ptc with wakeAddr := o.smbusAddr }, sb := { d.sb with addr := o.smbusAddr },
    rstc := { d.rstc with narbyMs := o.wdtNarby }, fab := { d.fab with priority := o.timePriority } }
  (List.range 6).foldl (fun (d : Dev) p => d.updPort p (fun h => { h with en := o.hoopEn.getLsbD p })) d

def execOptionBytesRead (s : State) : Host.Outcome State Fault Refusal := .next { s with dev := s.dev.optRead s.otp }

/-! Components (14 R469). -/

/-- Big-endian exponent 65,537. -/
def exp65537 : List W8 := [0, 1, 0, 1]

def compLoad (b : List W8) : Nat := leAt b 0x10 8
def compBody (b : List W8) : List W8 := (b.drop 1024).take (leAt b 8 8)
def compOf (b : List W8) : Comp := ⟨leAt b 4 1, BitVec.ofNat 256 (leAt b 0x18 32), b.take 1024⟩

/-- The reason for which a component of an expected type is refused, zero when it verifies (14 R469, Table 14-9). -/
def compReason (o : Otp) (expect : Nat → Bool) (b : List W8) : Nat :=
  let k := leAt b 5 1
  let key := (b.drop 0x80).take 388
  if !o.keyUsable k || ((o.keys.get? k).map (fun s => s.hash)) != some (Config.sha256 key) then 2
  else if key.drop 384 != exp65537 || !Config.pssVerify (key.take 384) exp65537 (b.take 0x280) ((b.drop 0x280).take 384) then 1
  else if (compBody b).length != leAt b 8 8 || Config.sha256 (compBody b) != (compOf b).digest then 1
  else if !expect (leAt b 0 2) then 6
  else if leAt b 4 1 < o.counters.getD (leAt b 0 2) 0 then 3 else 0

/-! The boot chain (14 R470, R471). -/

/-- The component of a type that the directory of an image names; an entry of zeros is none (log 64). -/
def dirFind (m : Mem) (ty : Nat) : Option (List W8) :=
  (List.range 63).findSome? (fun k =>
    let e := m.readN (64 + 64 * k) 64
    let x := Config.dirEntry e
    if e.all (fun b => b == 0) || x.1 != ty then none else some (m.readN x.2.1 x.2.2))

/-- Recovery: no later component starts, the reason is shown, the ROM fetches the image (14 R471). -/
def Dev.recover (d : Dev) (ty reason : Nat) : Dev :=
  { d with boot := { d.boot with stage := 1, failType := ty, failReason := reason, block := 0, image := [] } }

/-- Verifies and measures components in order; type t extends register t - 1 (log 67). -/
def Dev.chain (otp : Otp) : List Nat → Dev → Dev
  | [], d => { d with boot := { d.boot with stage := 2 } }
  | t :: rest, d =>
    match dirFind d.flash t with
    | none => d.recover t 1
    | some b =>
      let r := compReason otp (fun x => x = t) b
      if r != 0 then d.recover t r else
      let d := if t = 1 then d.extend 0 Config.romDigest else d
      Dev.chain otp rest ({ d.extend (t - 1) (compOf b).digest with secm := { (d.extend (t - 1) (compOf b).digest).secm with comps := d.secm.comps.set t (compOf b) } })

/-- BOOT_ROM_START: once the option bytes are read and REFCLK_SYS is stable the ROM starts; the boot chain decides between firmware and
recovery; DRAM training follows. -/
def Dev.romStart (otp : Otp) (d : Dev) : Dev :=
  if d.rstc.held != .no || d.boot.romStarted || !d.otpc.optDone then d else
  let d : Dev := { d with boot := { d.boot with romStarted := true }, rstc := { d.rstc with busyLevel := none } }
  let d := Dev.chain otp [1, 2, 3, 4, 5, 6, 7, 8, 9] d.newNonce
  let d := d.tokensWaiting otp
  if d.boot.stage != 2 then d else
  (List.range 8).foldl (fun (d : Dev) t => d.updTile t (fun x => { x with sc0 := { x.sc0 with st := .training }, sc1 := { x.sc1 with st := .training } })) d

/-- On its first boot the security processor derives and wraps the identity key (14 R474). -/
def execBootRomStart (s : State) : Host.Outcome State Fault Refusal :=
  let d := s.dev.romStart s.otp
  .next { s with dev := d, otp := { s.otp with idKey := s.otp.idKey || (d.boot.stage = 2 && d.boot.romStarted) } }

/-- RECOVERY_RETRY: the directory is erased and the fetch starts again. -/
def execRecoveryRetry (s : State) := onDev (fun d =>
  if d.boot.stage != 1 then d else { d with flash := d.flash.clear 0 4096, boot := { d.boot with block := 0, image := [] } }) s

/-- The whole image has come: written to flash with the directory last and SYSRST raised when every component verifies, else erased. -/
def Dev.imageIn (otp : Otp) (d : Dev) : Dev :=
  let m := Mem.ofBytes d.boot.image
  if [1, 2, 3, 4, 5, 6, 7, 8, 9].all (fun t => ((dirFind m t).map (fun b => compReason otp (fun x => x = t) b)).getD 1 = 0) then
    ({ d with flash := m }).raise .sys 0xE .no
  else { d with flash := d.flash.clear 0 4096, boot := { d.boot with block := 0, image := [] } }

/-- A TFTP data block in recovery, in blocks of 1,428 bytes; a shorter one is the last. What lies above the directory is written to flash as
it comes (14 R471; log 68). -/
def Dev.tftpBlock (otp : Otp) (d : Dev) (n : Nat) (x : List W8) : Dev :=
  if d.boot.stage != 1 || n != (d.boot.block + 1) % 65536 then d else
  let at0 := d.boot.image.length
  let y := x.take 1428
  let d : Dev := { d with flash := d.flash.writeN (max at0 4096) (y.drop (4096 - at0)), boot := { d.boot with block := n, image := d.boot.image ++ y } }
  if x.length < 1428 then d.imageIn otp else d

/-! Peripherals. -/

/-- HOOP_PHY_POWER: the ports go to IDLE_HOLD. -/
def execHoopPhyPower (s : State) := onDev (fun d =>
  if d.rstc.held != .no || d.boot.phyPower then d else
  (List.range 6).foldl (fun (d : Dev) p => d.updPort p (fun h => if h.st == .off then { h with st := .idleHold } else h)) { d with boot := { d.boot with phyPower := true } }) s

/-- HOOP_IDLE_RELEASE: enabled ports with good clocks start training. -/
def execHoopIdleRelease (s : State) := onDev (fun d =>
  if !d.boot.phyPower || d.boot.idleReleased then d else
  (List.range 6).foldl (fun (d : Dev) p => d.portGo p) { d with boot := { d.boot with idleReleased := true } }) s

/-- PCIE_PERST_RELEASE, once REFCLK_SYS is stable. -/
def execPciePerstRelease (s : State) := onDev (fun d => if d.boot.romStarted then { d with boot := { d.boot with perst := false } } else d) s

/-! Training, self-test, formation. -/

/-- DRAM_TRAINING_DONE: stacks train or fail; the Narby components are copied into the carve-out. A failed stack makes its tile unavailable (log 69). -/
def Dev.trainingDone (d : Dev) (fails : List Nat) : Dev :=
  if d.boot.stage != 2 || !d.boot.romStarted || d.boot.dramTrained then d else
  let d : Dev := { d with boot := { d.boot with dramTrained := true } }
  let d := (List.range 8).foldl (fun (d : Dev) t => d.updTile t (fun x => { x with
    sc0 := { x.sc0 with st := if fails.contains (2 * t) then .failed else .selfRefresh },
    sc1 := { x.sc1 with st := if fails.contains (2 * t + 1) then .failed else .selfRefresh },
    avail := x.avail && !fails.contains (2 * t) && !fails.contains (2 * t + 1) })) d
  [7, 8, 9].foldl (fun (d : Dev) t => match dirFind d.flash t with
    | some b => if carveOk (compLoad b) (compBody b).length then
        { (d.dramWrite (compLoad b) (compBody b)) with secm := { d.secm with places := d.secm.places.set t (compLoad b, (compBody b).length) } } else d
    | none => d) d

def execDramTrainingDone (fails : List Nat) (s : State) := onDev (fun d => d.trainingDone fails) s

/-- SELF_TEST_DONE: failing clusters are spared, failing tiles are unavailable; partitions form from BOOT_OVERLAY. -/
def Dev.selfTest (otp : Otp) (d : Dev) (f : SelfTest) : Dev :=
  if !d.boot.dramTrained || d.boot.selfTested then d else
  let d : Dev := { d with boot := { d.boot with selfTested := true } }
  let d := f.clusters.foldl (fun (d : Dev) x => d.retireCluster x.1 x.2) d
  let d := f.tiles.foldl (fun (d : Dev) t => d.updTile t (fun x => { x with avail := false })) d
  let n := d.otpc.opt.bootOverlay
  let body := otp.record (0x10 + n)
  let cause := recordCause n body
  if cause != 0 then { d with otpc := { d.otpc with cause := cause } } else
  let ents := (List.range 8).map (recEntry (body.getD []))
  let d : Dev := { d with otpc := { d.otpc with ents := ents, recBody := body.getD [] }, hid := { d.hid with overlay := n } }
  d.formAll n ents

def execSelfTestDone (f : SelfTest) (s : State) : Host.Outcome State Fault Refusal := .next { s with dev := s.dev.selfTest s.otp f }

/-! The Narby OS (14 R455, R473, R479). -/

/-- The reason for which a Narby component does not verify from its copy in the carve-out, zero when it does: the one in force, or for a handover its
loaded successor where there is one (14 R455, R469, R479; log 71). -/
def Dev.narbyReason (otp : Otp) (d : Dev) (staged : Bool) (t : Nat) : Nat :=
  let c := (if staged then d.secm.next.get? t else none) <|> d.secm.comps.get? t
  let pl := (if staged then d.secm.nextPlaces.get? t else none) <|> d.secm.places.get? t
  match c, pl with
  | some c, some (a, n) => if d.badIn a n then 1 else compReason otp (fun x => x = t) (c.head ++ d.dramRead a n)
  | _, _ => 9

/-- The first Narby component that does not verify, with the reason. -/
def Dev.narbyBad (otp : Otp) (d : Dev) (staged : Bool) : Option (Nat × Nat) :=
  [7, 8, 9].findSome? (fun t => if d.narbyReason otp staged t = 0 then none else some (t, d.narbyReason otp staged t))

/-- NARBY_OS_RUNNING: it takes the management port over and the submission ports are released. After a CORERST its components are
verified again first; one that fails leads to recovery (14 R455, R471; log 71). -/
def Dev.narbyRuns (otp : Otp) (d : Dev) : Dev :=
  if !d.boot.dramTrained || d.rstc.coreStep || d.boot.stage = 1 then d else
  match (if d.boot.restarting then d.narbyBad otp false else none) with
  | some (t, r) => d.recover t r
  | none => { d with
      boot := { d.boot with stage := 3, narby := true, restarting := false, handover := false }, mgmt := { d.mgmt with osOwner := true },
      obj := { d.obj with held := false }, rstc := { d.rstc with wdtOff := false } }

def execNarbyOsRunning (s : State) : Host.Outcome State Fault Refusal := .next { s with dev := s.dev.narbyRuns s.otp }

/-- The stage of the status datagram: 0 BOOTING, 1 RECOVERY, 2 RESTARTING. -/
def Boot.probeStage (b : Boot) : Nat := if b.stage = 1 then 1 else if b.restarting || b.handover then 2 else 0

/-- May the ROM responder reply: 1,000 replies in a second, the excess dropped and counted (14 R473). -/
def Dev.romReply (d : Dev) (f : Dev → Dev) : Dev :=
  let sec := d.clk.now / 1000000000
  let n := if d.mgmt.second = sec then d.mgmt.replies else 0
  if n < 1000 then f { d with mgmt := { d.mgmt with second := sec, replies := n + 1 } }
  else { d with mgmt := { d.mgmt with second := sec, replies := n, dropRom := satAdd 0xFFFF d.mgmt.dropRom 1 } }

/-- STATUS_PROBE: stage, reason, milliseconds since 50 V good (measured), serial number; the layout is the model's (log 70). -/
def Dev.statusProbe (serial : W64) (d : Dev) (q : ProbeDatagram) : Dev :=
  if d.mgmt.osOwner || !d.boot.romStarted || q.dstPort != 28400 || q.payload.length != 16 || !d.blockUp 6 then d else
  d.romReply (fun d =>
    { d with out := d.out.set 0x20 (leBytes 1 d.boot.probeStage ++ leBytes 1 d.boot.failReason ++ leBytes 6 0 ++ leBytes 8 (d.draw.toNat % 2 ^ 32)
      ++ leBytes 8 serial.toNat ++ leBytes 8 0) }.drew)

def execStatusProbe (q : ProbeDatagram) (s : State) := onDev (fun d => d.statusProbe s.otp.serial q) s

end Sys2Proof.Machine
end

