-- ==== Sys2Proof/Machine/Security.lean ====
section
/-! DEFINITION. SECM commands (14 R463 to R468, R477 to R479) and the SPDM responder (14 R475, R476). -/

namespace Sys2Proof.Machine

/-! How a command ends (14 R477). -/

def State.secArg (s : State) (k : Nat) : Nat := (s.dev.secm.args.getD k 0).toNat

/-- Accepted, or refused with a reason: then nothing else changed. -/
def State.secmEnd (s : State) (reason : Nat) : State :=
  { s with dev := { s.dev with secm := { s.dev.secm with done := true, refused := reason != 0, reason := reason } } }

/-- A write of SECM_CMD with an opcode. It is served while the security processor's firmware runs; bits 63:8 are zero. -/
def secmRun (v : W64) (f : State → State) (s : State) : Host.Outcome State Fault Refusal :=
  .next (if bits v 8 56 != 0 then { s with dev := s.dev.ignReg 0x09 0x00300020 }
         else if s.dev.boot.stage < 2 then s else f s)

/-- The authorisation block at an address, for the command word and its first argument (log 72), with the reason for which it is refused or
zero: missing at address 0, outside the carve-out, in error (15 R484), or not valid. The nonce it used is replaced. -/
def State.authorised (s : State) (op addr : Nat) (slotOk : Nat → Bool) : State × Nat :=
  if addr = 0 then (s, 5) else
  let r := s.dev.secRead addr 512
  let b := r.2.2
  if r.2.1 != 0 then ({ s with dev := r.1 }, r.2.1) else
  let ok := authOk s.otp (leBytes 8 op ++ leBytes 8 (s.secArg 0)) s.dev.secm.nonce slotOk b
  ({ s with dev := if leAt b 24 32 = s.dev.secm.nonce.toNat then s.dev.newNonce else s.dev }, if ok then 0 else 5)

/-! LOAD_COMPONENT (14 R478, Table 14-6). -/

/-- Activates a verified component of a type, at an address of the carve-out. -/
def Dev.activate (d : Dev) (ty : Nat) (c : Comp) (body n : Nat) : Dev :=
  let queued (d : Dev) : Dev := { d with secm := { d.secm with next := d.secm.next.set ty c } }
  if ty = 1 || ty = 3 then d
  else if ty = 2 then
    { (d.extend 15 c.digest) with secm := { (d.extend 15 c.digest).secm with comps := d.secm.comps.set 2 c }, ptc := { d.ptc with fwHold := d.draw.toNat % 201 } }.drew
  else if ty = 4 then
    let ts := d.parts.flatMap (fun kv => kv.2.tiles)
    let d := queued (d.extend 15 c.digest)
    let d : Dev := { d with secm := { d.secm with ucodeTiles := ts } }
    if ts.isEmpty then d.inForce 4 else ts.foldl (fun (d : Dev) t => d.updTile t (fun x => { x with maint := x.maint ++ [.microcode] })) d
  else if ty = 5 then
    let d := queued (d.extend 15 c.digest)
    { d with secm := { d.secm with phyLanes := (List.range 6).flatMap (fun p => (List.range 9).map (fun k => (p, k))) } }
  else if ty = 6 then
    let d := queued (d.extend 15 c.digest)
    { d with secm := { d.secm with scPend := List.range 16 } }
  else
    let d := queued d
    { d with secm := { d.secm with nextPlaces := d.secm.nextPlaces.set ty (body, n) } }

def State.loadComponent (s : State) : State :=
  let a := s.secArg 0
  let r := s.dev.secRead a (s.secArg 1)
  let s : State := { s with dev := r.1 }
  if r.2.1 != 0 then s.secmEnd r.2.1 else
  let b := r.2.2
  let reason := compReason s.otp (fun t => decide (1 ≤ t) && decide (t ≤ 9)) b
  if reason != 0 then s.secmEnd reason else
  ({ s with dev := s.dev.activate (leAt b 0 2) (compOf b) (a + 1024) (leAt b 8 8) } : State).secmEnd 0

def execLoadComponent (v : W64) (s : State) := secmRun v State.loadComponent s

/-- COMMIT_SVN: the counter rises to the SVN in force (14 R467). -/
def State.commitSvn (s : State) : State :=
  let t := s.secArg 0
  match s.dev.secm.comps.get? t with
  | some c => if t < 1 || 9 < t then s.secmEnd 6 else
      ({ s with otp := { s.otp with counters := s.otp.counters.set t (max (s.otp.counters.getD t 0) (min 64 c.svn)) } } : State).secmEnd 0
  | none => s.secmEnd 6

def execCommitSvn (v : W64) (s : State) := secmRun v State.commitSvn s

/-- Is a body fit to be programmed for a record type: option bytes in range, an overlay that passes R348? -/
def otpBodyOk (ty : Nat) (b : List W8) : Bool :=
  if ty = 0x02 then optOk b else if 0x10 ≤ ty && ty ≤ 0x16 then recordCause (ty - 0x10) (some b) = 0 else true

/-- OTP_WRITE: the lowest unused slot of the record is programmed (14 R463, R464). -/
def State.otpWrite (s : State) : State :=
  let ty := s.secArg 0
  if !(ty = 1 || ty = 2 || (0x10 ≤ ty && ty ≤ 0x16)) then s.secmEnd 6 else
  let r := s.dev.secRead (s.secArg 1) (otpLen ty)
  let s : State := { s with dev := r.1 }
  if r.2.1 != 0 then s.secmEnd r.2.1 else
  let a := if ty ≤ 2 then s.authorised 3 (s.secArg 2) (fun _ => true) else (s, 0)
  let s := a.1
  if a.2 != 0 then s.secmEnd a.2
  else if !otpBodyOk ty r.2.2 then s.secmEnd 7
  else match s.otp.unused ty with
    | none => s.secmEnd 4
    | some g => ({ s with otp := { s.otp with slots := s.otp.slots.set (4 * ty + g) (otpSlot ty g r.2.2) } } : State).secmEnd 0

def execOtpWrite (v : W64) (s : State) := secmRun v State.otpWrite s

/-- KEY_INSTALL: the lowest unprogrammed key slot takes the hash of modulus and exponent (14 R465, R466). -/
def State.keyInstall (s : State) : State :=
  let r := s.dev.secRead (s.secArg 0) 388
  let s : State := { s with dev := r.1 }
  if r.2.1 != 0 then s.secmEnd r.2.1 else
  let a := s.authorised 4 (s.secArg 1) (fun _ => true)
  let s := a.1
  if a.2 != 0 then s.secmEnd a.2
  else match (List.range 4).find? (fun k => !((s.otp.keys.get? k).map (fun x => x.programmed)).getD false) with
    | none => s.secmEnd 4
    | some k => ({ s with otp := { s.otp with keys := s.otp.keys.set k ⟨Config.sha256 r.2.2, true, ((s.otp.keys.get? k).map (fun x => x.revoked)).getD false⟩ } } : State).secmEnd 0

def execKeyInstall (v : W64) (s : State) := secmRun v State.keyInstall s

/-- KEY_REVOKE of slot k, under another usable slot; never the last usable one (14 R466). -/
def State.keyRevoke (s : State) : State :=
  let k := s.secArg 0
  if !((List.range 4).any (fun j => j != k && s.otp.keyUsable j)) then s.secmEnd 8 else
  let a := s.authorised 5 (s.secArg 1) (fun j => j != k)
  let s := a.1
  if a.2 != 0 then s.secmEnd a.2
  else match s.otp.keys.get? k with
    | none => s.secmEnd 2
    | some x => ({ s with otp := { s.otp with keys := s.otp.keys.set k { x with revoked := true } } } : State).secmEnd 0

def execKeyRevoke (v : W64) (s : State) := secmRun v State.keyRevoke s

/-- FLASH_IMAGE: every component of a full image verifies before any byte is written (14 R477). -/
def State.flashImage (s : State) : State :=
  let r := s.dev.secRead (s.secArg 0) (s.secArg 1)
  let s : State := { s with dev := r.1 }
  if r.2.1 != 0 then s.secmEnd r.2.1 else
  let m := Mem.ofBytes r.2.2
  match [1, 2, 3, 4, 5, 6, 7, 8, 9].findSome? (fun t =>
      let x := ((dirFind m t).map (fun b => compReason s.otp (fun y => y = t) b)).getD 1
      if x = 0 then none else some x) with
  | some x => s.secmEnd x
  | none => ({ s with dev := { s.dev with flash := m } } : State).secmEnd 0

def execFlashImage (v : W64) (s : State) := secmRun v State.flashImage s

/-- HANDOVER: types 7 to 9 are verified, the ports are held, the Narby cores alone are reset (14 R479). -/
def State.handover (s : State) : State :=
  if !carveOk (s.secArg 0) 1 then s.secmEnd 9
  else match s.dev.narbyBad s.otp true with
  | some x => s.secmEnd x.2
  | none =>
    let d := [7, 8, 9].foldl (fun (d : Dev) t => match d.secm.next.get? t with
      | some c => (d.extend 15 c.digest).inForce t
      | none => d) s.dev
    ({ s with dev := { d with
        boot := { d.boot with stage := 4, handover := true, handoverRec := s.secArg 0, narby := false }, mgmt := { d.mgmt with osOwner := false },
        obj := { d.obj with held := true }, rstc := { d.rstc with wdtOff := true } } } : State).secmEnd 0

def execHandover (v : W64) (s : State) := secmRun v State.handover s

/-- SECM_NONCE_READ: the read draws a new nonce and returns it. -/
def execSecmNonceRead (s : State) := onDev (fun d =>
  let d := d.newNonce
  { d with out := d.out.set 0x30 (leBytes 8 (bits d.secm.nonce 0 64)) }) s

/-! SPDM (14 R475, R476; 15 R489): one connection state for each path, 0 the management port, 1 the sideband. -/

/-- Measurement blocks as (index, digest), of what is in force; a record that is not there as no bytes (log 65). -/
def State.measBlocks (s : State) : List (Nat × BitVec 256) :=
  let sec := s.dev.secm
  (List.range 9).filterMap (fun k => (sec.comps.get? (k + 1)).map (fun c => (k + 1, c.digest)))
    ++ [(10, Config.romDigest), (11, Config.sha256 s.dev.otpc.optBody),
        (12, Config.sha256 ((s.dev.otpc.fuse.map (fun f => leBytes 128 f.toNat)).getD [])), (13, Config.sha256 s.dev.otpc.recBody)]
    ++ (List.range 16).map (fun k => (16 + k, sec.meas.getD k 0))

/-- Answers a request of a path: one out of sequence gets ERROR (code 0x7F; log 65). The answer joins the connection's transcript. -/
def spdmAnswer (path need next code : Nat) (payload : List W8 → List W8) (req : List W8) (s : State) : Host.Outcome State Fault Refusal :=
  let d := s.dev
  if d.boot.stage < 2 || 2 ≤ path || !d.blockUp (6 + path) then .next s else
  let c := d.secm.spdm.getD path ⟨0, []⟩
  let ok := decide (need ≤ c.st)
  let r := if ok then Config.spdmResponse code req (payload (c.transcript ++ req)) else Config.spdmResponse 0x7F req []
  let c' : Spdm := if ok then ⟨if next = 0 then c.st else next, (if next = 1 then [] else c.transcript) ++ req ++ r⟩ else c
  .next { s with dev := { d with secm := { d.secm with spdm := d.secm.spdm.set path c' }, out := d.out.set (0x31 + path) r } }

/-- Version 1.2 only. -/
def execGetVersion (path : Nat) (req : List W8) (s : State) := spdmAnswer path 0 1 0x04 (fun _ => [0x12]) req s
def execGetCapabilities (path : Nat) (req : List W8) (s : State) := spdmAnswer path 1 2 0x61 (fun _ => []) req s
/-- RSASSA-PSS 3072 and SHA-256. -/
def execNegotiateAlgorithms (path : Nat) (req : List W8) (s : State) := spdmAnswer path 2 3 0x63 (fun _ => []) req s
def execGetDigests (path : Nat) (req : List W8) (s : State) := spdmAnswer path 3 0 0x01 (fun _ => leBytes 32 (Config.sha256 s.otp.chain).toNat) req s
/-- The chain of slot 0. -/
def execGetCertificate (path : Nat) (req : List W8) (s : State) := spdmAnswer path 3 0 0x02 (fun _ => s.otp.chain) req s
def execChallenge (path : Nat) (req : List W8) (s : State) := spdmAnswer path 3 0 0x03 (fun t => Config.identitySign t) req s
def execGetMeasurements (path : Nat) (req : List W8) (s : State) :=
  spdmAnswer path 3 0 0x60 (fun t =>
    let b := s.measBlocks.flatMap (fun x => leBytes 1 x.1 ++ leBytes 32 x.2.toNat)
    b ++ Config.identitySign (t ++ b)) req s

end Sys2Proof.Machine
end

