-- ==== Sys2Proof/Machine/Management.lean ====
section
/-! DEFINITION. The management port, the sideband, the PCIe storage port and the accesses of control software (15 R481 to R495; 01 R24). -/

namespace Sys2Proof.Machine

/-! Management port (15 R486, R487). -/

/-- An n-byte big-endian number of a frame. -/
def beAt (b : List W8) (o n : Nat) : Nat := ((b.drop o).take n).foldl (fun v x => 256 * v + x.toNat) 0

/-- Length of the Ethernet header with at most one 802.1Q tag. -/
def ethLen (b : List W8) : Nat := if beAt b 12 2 = 0x8100 then 18 else 14
def ethType (b : List W8) : Nat := beAt b (ethLen b - 2) 2

/-- IP protocol and offset of its payload; none for another frame. IPv6 extension headers are not followed (log 76). -/
def ipOf (b : List W8) : Option (Nat × Nat) :=
  let o := ethLen b
  if ethType b = 0x0800 then some (beAt b (o + 9) 1, o + 4 * (beAt b o 1 % 16))
  else if ethType b = 0x86DD then some (beAt b (o + 6) 1, o + 40) else none

def udpDst (b : List W8) : Option Nat := (ipOf b).bind (fun x => if x.1 = 17 then some (beAt b (x.2 + 2) 2) else none)
def tcpDst (b : List W8) : Option Nat := (ipOf b).bind (fun x => if x.1 = 6 then some (beAt b (x.2 + 2) 2) else none)
/-- Neighbour discovery: ICMPv6 types 133 to 137. -/
def isNd (b : List W8) : Bool := (ipOf b).any (fun x => x.1 = 58 && decide (133 ≤ beAt b x.2 1) && decide (beAt b x.2 1 ≤ 137))
/-- ICMP echo requests of both IP versions. -/
def isEcho (b : List W8) : Bool := (ipOf b).any (fun x => (x.1 = 1 && beAt b x.2 1 = 8) || (x.1 = 58 && beAt b x.2 1 = 128))
/-- DHCP of both IP versions, either direction. -/
def isDhcp (b : List W8) : Bool := (udpDst b).any (fun q => q = 67 || q = 68 || q = 546 || q = 547)

/-- The classes of received frames. -/
inductive FrameClass where
  | rom
  | svc
  | os
  deriving DecidableEq, Repr

/-- TFTP data to the recovery transfer: a UDP payload with opcode 3 (log 68). -/
def tftpData (b : List W8) : Option (Nat × List W8) :=
  match ipOf b, udpDst b with
  | some x, some _ =>
    let n := beAt b (x.2 + 4) 2
    if beAt b (x.2 + 8) 2 = 3 && 12 ≤ n then some (beAt b (x.2 + 10) 2, (b.drop (x.2 + 12)).take (n - 12)) else none
  | _, _ => none

/-- The class of a frame. -/
def Dev.frameClass (d : Dev) (b : List W8) : FrameClass :=
  let arp : Bool := ethType b = 0x0806
  if !d.mgmt.osOwner && (arp || isNd b || isEcho b || isDhcp b || udpDst b = some 28400 || (d.boot.stage = 1 && (tftpData b).isSome)) then .rom
  else if arp || isNd b || isDhcp b || tcpDst b = some 443 || tcpDst b = some 4194 then .svc
  else .os

/-- Bytes of a list of frames. -/
def frameBytes (l : List (List W8)) : Nat := (l.map List.length).foldl (· + ·) 0

/-- The ROM responder answers a frame (14 R471, R473). -/
def State.romFrame (s : State) (b : List W8) : State :=
  let d := s.dev
  match udpDst b, ipOf b, (if d.boot.stage = 1 then tftpData b else none) with
  | _, _, some (n, x) => { s with dev := d.tftpBlock s.otp n x }
  | some 28400, some x, none => { s with dev := d.statusProbe s.otp.serial ⟨28400, (b.drop (x.2 + 8)).take (beAt b (x.2 + 4) 2 - 8)⟩ }
  | _, _, none =>
    if !d.boot.romStarted then s else
    { s with dev := d.romReply (fun d =>
        { d with out := d.out.set 0x21 (Config.romReply (d.otpc.opt.mgmtMac.getD 0) d.otpc.opt.addrMode d.otpc.opt.staticIp b) }) }

/-- MGMT_FRAME_RX: up to 9,216 bytes and one tag; each class has its own share of the receive buffer (15 R487). -/
def State.mgmtFrame (s : State) (b : List W8) : State :=
  let d := s.dev
  let n := b.length
  if !d.blockUp 6 || !d.mgmt.link || 9216 < n || n < 14 || ethType b = 0x8100 then s else
  match d.frameClass b with
  | .rom => s.romFrame b
  | .svc =>
    if frameBytes d.mgmt.svc + n ≤ 2 ^ 20 then { s with dev := { d with mgmt := { d.mgmt with svc := d.mgmt.svc ++ [b] } } }
    else { s with dev := { d with mgmt := { d.mgmt with dropSvc := satAdd 0xFFFF d.mgmt.dropSvc 1 } } }
  | .os =>
    if frameBytes d.mgmt.os + n ≤ 7 * 2 ^ 20 then { s with dev := { d with mgmt := { d.mgmt with os := d.mgmt.os ++ [b] } } }
    else { s with dev := { d with mgmt := { d.mgmt with dropOs := wrapAdd 32 d.mgmt.dropOs 1 } } }

def execMgmtFrameRx (fr : MgmtFrame) (s : State) : Host.Outcome State Fault Refusal := .next (s.mgmtFrame fr.bytes)

/-- MGMT_LINK_CHANGE (15 Table 15-6). -/
def execMgmtLinkChange (up : Bool) (s : State) := onDev (fun d => { d with mgmt := { d.mgmt with link := up && d.blockUp 6 } }) s

/-! Sideband (15 R491, R492). -/

/-- CRC-8 with polynomial x^8 + x^2 + x + 1, as the SMBus PEC has it. -/
def crc8Step (c : W8) : Nat → W8
  | 0 => c
  | n + 1 => crc8Step (if c.getLsbD 7 then (c <<< 1) ^^^ 7#8 else c <<< 1) n
def pec (l : List W8) : W8 := l.foldl (fun c b => crc8Step (c ^^^ b) 8) 0

/-- The event entries that control software has not consumed (15 Table 15-2). -/
def Dev.eventEntries (d : Dev) : List W8 :=
  (List.range (d.evt.head - d.evt.tail).toNat).flatMap (fun k => d.evt.ring.getD ((d.evt.tail.toNat + k) % 256) [])

/-- Answers over MCTP, by kind. -/
def Dev.mctpAnswer (d : Dev) (kind : Nat) (req data : List W8) : Dev := { d with out := d.out.set 0x33 (Config.mctpReply kind req data) }

/-- POLL_FOR_PLATFORM_EVENT_MESSAGE: the entries, or "not ready" while the Narby OS does not serve them (15 R492). -/
def Dev.pollEvents (d : Dev) (req : List W8) : Dev :=
  if !d.blockUp 7 then d else if d.boot.narby then d.mctpAnswer 5 req d.eventEntries else d.mctpAnswer 0 req []

def execPollForPlatformEventMessage (req : List W8) (s : State) := onDev (fun d => d.pollEvents req) s

/-- What the numeric sensors of PLDM type 2 read. -/
def Dev.sensors (d : Dev) : List W8 :=
  let t (x : Int) : List W8 := leBytes 2 (x % 65536).toNat
  leBytes 4 d.ptc.vin ++ leBytes 4 d.ptc.iin ++ leBytes 4 d.ptc.pinW
    ++ (List.range 8).flatMap (fun k => t (d.tile k).trip.logicC ++ t (d.tile k).trip.dramC)
    ++ t d.ptc.hubC ++ t d.ptc.inletC ++ t d.ptc.outletC ++ leBytes 1 d.ptc.psState

/-- A PLDM request in packet p: types 0, 2 and 4 are served, its one effecter is CAP_W; "not ready" before and without the Narby OS. -/
def Dev.pldm (d : Dev) (p : List W8) : Dev :=
  let ty := leAt p 10 1 % 64
  let cmd := leAt p 11 1
  if !d.boot.narby then d.mctpAnswer 0 p []
  else if ty != 0 && ty != 2 && ty != 4 then d.mctpAnswer 3 p []
  else if ty = 2 && cmd = 0x0B then d.pollEvents p
  else if ty = 2 && cmd = 0x31 then
    (d.capWrite (BitVec.ofNat 64 (leAt p 15 2 + 65536 * d.ptc.hyst))).mctpAnswer 2 p []
  else if ty = 2 && cmd = 0x11 then d.mctpAnswer 4 p d.sensors
  else d.mctpAnswer 2 p []

/-- MCTP_PACKET: target address, command code, count, source, four MCTP header bytes, message type, body, PEC (15 R491, R492; log 65). In PS3
the transfer is not acknowledged and its START and address are what the comparator sees (13 R450). -/
def execMctpPacket (p : List W8) (s : State) : Host.Outcome State Fault Refusal :=
  let d := s.dev
  if d.ptc.psState = 3 then onDev (fun d => d.psWake (leAt p 0 1 / 2)) s
  else if !d.blockUp 7 then .next { s with dev := { d with sb := { d.sb with nacks := satAdd 0xFFFF d.sb.nacks 1 } } }
  else if leAt p 0 1 / 2 != d.sb.addr then .next s
  else if p.length < 10 || pec p.dropLast != p.getLastD 0 then .next { s with dev := { d with sb := { d.sb with pecErr := wrapAdd 32 d.sb.pecErr 1 } } }
  else
    let body := (p.drop 9).dropLast
    let ty := leAt p 8 1 % 128
    if ty = 1 then .next { s with dev := d.pldm p }
    else if ty = 5 && 2 ≤ d.boot.stage then
      (match leAt body 1 1 with
        | 0x84 => execGetVersion 1 body s
        | 0xE1 => execGetCapabilities 1 body s
        | 0xE3 => execNegotiateAlgorithms 1 body s
        | 0x81 => execGetDigests 1 body s
        | 0x82 => execGetCertificate 1 body s
        | 0x83 => execChallenge 1 body s
        | 0xE0 => execGetMeasurements 1 body s
        | _ => spdmAnswer 1 4 0 0x7F (fun _ => []) body s)
    else .next { s with dev := d.mctpAnswer (if ty != 5 && d.boot.narby then 6 else 0) p [] }

/-! PCIe (15 R493, R494). -/

/-- Does window w serve a request? -/
def Pcie.serves (c : Pcie) (w a n : Nat) (write : Bool) : Bool :=
  let x := c.windows.getD w 0
  let base := bits x 76 40 * 4096
  x.getLsbD 63 && (!write || x.getLsbD 62) && decide (base ≤ a) && decide (a + n ≤ base + bits x 0 32 * 4096)

/-- PCIE_INBOUND_REQUEST. What a read of a quarter in error answers is free, a write of a part of it is not applied (log 77). -/
def Dev.pcieIn (d : Dev) (r : PcieReq) : Dev :=
  if !d.blockUp 8 || d.pcie.speed = 0 then d else
  let a := r.addr.toNat
  let n := if r.write then r.data.length else r.len
  if !(List.range 16).any (fun w => d.pcie.serves w a n r.write) then
    { d with pcie := { d.pcie with ur := wrapAdd 32 d.pcie.ur 1 }, out := d.out.set 0x35 [] }
  else if r.write then (if d.badPartial a n then d.carveEvent a else d.dramWrite a r.data)
  else if d.badIn a n then
    (Dev.carveEvent { d with out := d.out.set 0x35 (Mem.readN (Config.freeBytes d.clk.free) 0 n) } a).drew
  else { d.countBytes true a n with out := d.out.set 0x35 (d.dramRead a n) }

def execPcieInboundRequest (r : PcieReq) (s : State) := onDev (fun d => d.pcieIn r) s

/-- PCIE_LINK_UP: widths 1, 2, 4 and 8, speeds 1 to 5, once PERST_N is deasserted. -/
def Dev.pcieUp (d : Dev) (width speed : Nat) : Dev :=
  if !d.blockUp 8 || d.boot.perst || !([1, 2, 4, 8].contains width) || speed = 0 || 5 < speed then d else
  { d with pcie := { d.pcie with width := width, speed := speed } }

def execPcieLinkUp (width speed : Nat) (s : State) := onDev (fun d => d.pcieUp width speed) s

/-- PCIE_LINK_DOWN: counted and reported. -/
def Dev.pcieDown (d : Dev) : Dev :=
  if d.pcie.speed = 0 then d else
  let n := satAdd 0xFFFF d.pcie.downs 1
  Dev.event 0x0A 0xFF 0 n { d with pcie := { d.pcie with width := 0, speed := 0, downs := n } }

def execPcieLinkDown (s : State) := onDev Dev.pcieDown s

end Sys2Proof.Machine
end

