-- ==== Sys2Proof/Machine/RegMap.lean ====
section
/-! DEFINITION. The register map (00 R3 to R10 and every register table): which bits of a 64-bit register at an offset from the CSR base a
write reaches, and which blocks follow 07 R238. -/

namespace Sys2Proof.Machine

/-- The bits of a register that a write reaches: `rw` keep what is written (RW, RW-L), `act` act (WO, W1C). -/
structure RegMask where
  rw : W64
  act : W64
  deriving DecidableEq, Repr

/-- No bit, as RO and reserved registers have it; every bit. -/
def RegMask.ro : RegMask := ⟨0, 0⟩
def RegMask.full : RegMask := ⟨ones64, 0⟩

/-- Is o one of n registers at base, step apart? -/
def inRegs (base step n o : Nat) : Bool := decide (base ≤ o) && decide (o < base + step * n) && (o - base) % step = 0

/-- HID (01 Tables 1-6 to 1-10; 15 Tables 15-4 to 15-10). -/
def hidMask (o : Nat) : RegMask :=
  if o = 0x10 then ⟨0x1FFF#64, 0⟩
  else if o = 0x8000 then ⟨0x8000000F#64, 0⟩
  else if o = 0x8010 then ⟨0xFFFFFFFF#64, 0⟩
  else if o = 0x8040 then ⟨0x70000000#64, 0⟩
  else if o = 0x8050 then ⟨0x7F#64, 0⟩
  else if inRegs 0x8100 16 16 o then ⟨0xC0000000FFFFFFFF#64, 0⟩
  else if inRegs 0x8108 16 16 o then ⟨0x000FFFFFFFFFF000#64, 0⟩
  else .ro

/-- RSTC (14 Tables 14-10 to 14-13). -/
def rstcMask (o : Nat) : RegMask :=
  if o = 0 then ⟨0, 0x7FFF#64⟩
  else if o = 8 then ⟨0, 0xFF000003#64⟩
  else if o = 0x10 then ⟨0x1FF#64, 0x01000000#64⟩
  else if o = 0x18 then ⟨0xFFFF#64, 0x10000#64⟩
  else .ro

/-- PTC (13 Tables 13-7 to 13-19). -/
def ptcMask (o : Nat) : RegMask :=
  if o = 8 then ⟨0xFFFFFF#64, 0⟩
  else if o = 0x18 then ⟨0xFF#64, 0⟩
  else if o = 0x20 then ⟨0x0FFF007F#64, 0⟩
  else if o = 0x38 then ⟨0x1FF#64, 0⟩
  else if inRegs 0x80 8 8 o then ⟨0xFFFF#64, 0⟩
  else .ro

/-- SECM (14 Tables 14-17 to 14-19). -/
def secmMask (o : Nat) : RegMask := if inRegs 0 8 4 o then .full else if o = 0x20 then ⟨0, ones64⟩ else .ro

/-- OTPC (10 Table 10-14; 14 Tables 14-14 to 14-16). -/
def otpcMask (o : Nat) : RegMask := if o = 0x100 then ⟨0x70000#64, 0⟩ else .ro

/-- HPn, and the fabric registers of HP0 (11 Tables 11-9 to 11-17, 11-22). -/
def hpMask (n o : Nat) : RegMask :=
  if o = 0 then ⟨0xEF00FFFF#64, 0x10000000#64⟩
  else if o = 0x18 then ⟨0xFFFFFFFF#64, 0⟩
  else if inRegs 0x100 8 9 o then ⟨0xFFFFFFFFFF#64, 0⟩
  else if n = 0 && o = 0x80000 then ⟨0x80007FFF#64, 0⟩
  else if n = 0 && o = 0x80008 then ⟨0xF0000000#64, 0⟩
  else .ro

/-- COLE (11 Tables 11-18, 11-19; 12 Table 12-13). -/
def coleMask (o : Nat) : RegMask :=
  if o = 0x800 then ⟨0x00007FFF0FFF003F#64, 0x8000000000000000#64⟩
  else if o = 0x808 then .full
  else if inRegs 0x1000 0x20 64 o then ⟨0xFFFFFFFFFFFFFFE0#64, 0x12#64⟩
  else if inRegs 0x1008 0x20 64 o then ⟨0xFFFF0FFFFFFFFFFF#64, 0⟩
  else .ro

/-- A slot of RSE (12 Tables 12-6 to 12-12). -/
def wgMask (r : Nat) : RegMask :=
  if r = 0 then ⟨0xFFFFFFFF00000020#64, 0x18#64⟩
  else if r = 0x08 || r = 0x10 || r = 0x30 || r = 0x38 || r = 0x48 then .full
  else if r = 0x40 then ⟨0xFFFFFFFFFFF00000#64, 0⟩
  else if r = 0x50 then ⟨0, 0xC#64⟩
  else if r = 0x58 then ⟨0x000F7FFF#64, 0x80000000#64⟩
  else if inRegs 0x100 8 16 r then .full
  else .ro

def rseMask (o : Nat) : RegMask :=
  if o = 8 then ⟨0xFFFFFFFF#64, 0⟩
  else if 0x1000 ≤ o && o < 0x3000 then wgMask ((o - 0x1000) % 0x400)
  else .ro

/-- OBJ (09 Tables 9-12 to 9-18). -/
def objMask (o : Nat) : RegMask :=
  if 0x1000 ≤ o && o < 0x1400 then (if o % 0x40 < 0x20 then .full else if o % 0x40 = 0x20 then ⟨0, ones64⟩ else .ro)
  else if inRegs 0x2000 8 64 o then ⟨0, 1⟩
  else .ro

/-- The blocks of a tile (04 Tables 4-6 to 4-13, 06 6-9 to 6-12, 07 7-9 to 7-21, 08 8-10 to 8-26, 10 10-7 to 10-13, 12 12-14, 13 13-20). -/
def scMask (o : Nat) : RegMask :=
  if o = 0x28 then ⟨0x80FFFFFF#64, 0⟩ else if inRegs 0x100 8 256 o then ⟨0x80000000FFFFFFFF#64, 0⟩ else .ro

def mxaMask (o : Nat) : RegMask :=
  if o = 0 then ⟨0xFF00FFFF#64, 0⟩ else if o = 8 then .full else if o = 0x18 then ⟨0, 1⟩ else .ro

def veMask (o : Nat) : RegMask := if inRegs 0x100 8 40 o then ⟨0, 1⟩ else .ro

def ueMask (o : Nat) : RegMask :=
  if o = 0x100 then ⟨0xFFFFFFFFFF00000F#64, 0⟩
  else if o = 0x108 then ⟨0xFFFF00000000FFFF#64, 0⟩
  else if o = 0x110 then .full
  else if o = 0x128 then ⟨0xFFFFFFFFFFFFFFE0#64, 0⟩
  else if o = 0x130 then ⟨0x8000003F#64, 0⟩
  else if o = 0x138 || o = 0x140 || o = 0x148 || o = 0x608 then ⟨0xFFFFFFFF#64, 0⟩
  else if inRegs 0x200 16 64 o then .full
  else if inRegs 0x208 16 64 o then ⟨0xFFFFFFFF#64, 0⟩
  else .ro

def mempMask (o : Nat) : RegMask :=
  if o = 0 || o = 8 then ⟨0x80FFFFFF#64, 0⟩
  else if o = 0x80 then .full
  else if o = 0x88 then ⟨0x3F#64, 0x80000000#64⟩
  else if inRegs 0x100 16 16 o then ⟨0xFFFFFFFFFFFF0000#64, 0⟩
  else if inRegs 0x108 16 16 o then ⟨0xFFFFFFFF#64, 0x30000000000#64⟩
  else if inRegs 0x200 16 16 o then ⟨0xFFF0000000000000#64, 0⟩
  else if inRegs 0x208 16 16 o then ⟨0x7FFFFFFFF#64, 0x30000000000#64⟩
  else .ro

def rndMask (o : Nat) : RegMask := if o = 0 then ⟨0xFFFFFFFF#64, 0⟩ else if inRegs 8 8 3 o then .full else .ro
def spareMask (o : Nat) : RegMask := if o = 0 then ⟨0x00FF7E00#64, 0x8000#64⟩ else .ro
def pwrMask (o : Nat) : RegMask := if o = 0 then ⟨7#64, 0⟩ else if o = 8 then ⟨0xFFFFFF#64, 0⟩ else .ro

/-- Blocks of the CSR space, with their instance and the offset in them (00 Table 0-3). -/
inductive RegBlk where
  | hid | rstc | ptc | secm | otpc | hp (n : Nat) | cole | rse | obj
  | sc (t k : Nat) | mxa (t : Nat) | ve (t : Nat) | ue (t : Nat) | memp (t : Nat) | rnd (t : Nat) | spare (t : Nat) | pwr (t : Nat)
  | none
  deriving DecidableEq, Repr

/-- The block at an offset within a tile. -/
def tileBlk (t o : Nat) : RegBlk × Nat :=
  let x := o % 0x10000
  let small (b : RegBlk) : RegBlk × Nat := if x < 0x1000 then (b, x) else (.none, 0)
  match o / 0x10000 with
  | 2 => (.sc t (x / 0x8000), x % 0x8000)
  | 4 => small (.mxa t) | 5 => small (.ve t)
  | 6 => if x < 0x3000 then (.ue t, x) else (.none, 0)
  | 7 => small (.memp t) | 8 => small (.rnd t) | 9 => small (.spare t) | 10 => small (.pwr t)
  | _ => (.none, 0)

/-- The block and the offset in it at an offset from the CSR base (00 R6). -/
def regBlk (off : Nat) : RegBlk × Nat :=
  let o := off % 0x100000
  if 0x10000000 ≤ off then (if off < 0x18000000 then tileBlk ((off - 0x10000000) / 0x1000000) (off % 0x1000000) else (.none, 0)) else
  match off / 0x100000 with
  | 0 => (.hid, o) | 1 => (.rstc, o) | 2 => (.ptc, o) | 3 => (.secm, o) | 4 => (.otpc, o)
  | 0x10 => (.hp 0, o) | 0x11 => (.hp 1, o) | 0x12 => (.hp 2, o) | 0x13 => (.hp 3, o) | 0x14 => (.hp 4, o) | 0x15 => (.hp 5, o)
  | 0x20 => (.cole, o) | 0x30 => (.rse, o) | 0x40 => (.obj, o)
  | _ => (.none, 0)

def blkMask : RegBlk → Nat → RegMask
  | .hid, o => hidMask o | .rstc, o => rstcMask o | .ptc, o => ptcMask o | .secm, o => secmMask o | .otpc, o => otpcMask o
  | .hp n, o => hpMask n o | .cole, o => coleMask o | .rse, o => rseMask o | .obj, o => objMask o
  | .sc _ _, o => scMask o | .mxa _, o => mxaMask o | .ve _, o => veMask o | .ue _, o => ueMask o | .memp _, o => mempMask o
  | .rnd _, o => rndMask o | .spare _, o => spareMask o | .pwr _, o => pwrMask o
  | .none, _ => .ro

/-- What a write reaches of the register at a multiple of 8 from the CSR base. -/
def regMask (off : Nat) : RegMask := blkMask (regBlk off).1 (regBlk off).2

/-- Tile of a register that follows 07 R238: the partition registers of UE and the whole of MEMP, RND and PWR; reserved offsets are none. -/
def partReg (off : Nat) : Option Nat :=
  let b := regBlk off
  let o := b.2
  match b.1 with
  | .ue t => if inRegs 0x100 8 10 o || inRegs 0x200 8 128 o || inRegs 0x600 8 3 o || 0x1000 ≤ o then some t else none
  | .memp t => if inRegs 0 8 11 o || inRegs 0x80 8 5 o || inRegs 0x100 8 64 o || o = 0x300 || inRegs 0x400 8 128 o then some t else none
  | .rnd t => if inRegs 0 8 10 o then some t else none
  | .pwr t => if inRegs 0 8 3 o then some t else none
  | _ => none

end Sys2Proof.Machine
end

