-- ==== Sys2Proof/Machine/RegRead.lean ====
section
/-! DEFINITION. What every register reads as (00 R7, R8): the view that control software has of the state. W1C and RO fields stand here too. -/

namespace Sys2Proof.Machine

def b2n (b : Bool) : Nat := if b then 1 else 0
/-- Fields of a register as (lowest bit, width, value). -/
def flds (l : List (Nat × Nat × Nat)) : W64 := l.foldl (fun v f => v ||| fld f.1 f.2.1 f.2.2) 0
/-- A temperature in an eight-bit field. -/
def t8 (x : Int) : Nat := (x % 256).toNat

/-- A window of PCIe, a word of a 128-bit register. -/
def word128 (x : BitVec 128) (hi : Bool) : W64 := x.extractLsb' (if hi then 64 else 0) 64

/-- Event entry and other byte lists, eight bytes at an offset. -/
def wordAt (b : List W8) (o : Nat) : W64 := BitVec.ofNat 64 (leNat ((b.drop o).take 8))

def State.hidRead (s : State) (o : Nat) : W64 :=
  let d := s.dev
  if o = 0 then 0x84000100#64
  else if o = 0x08 then s.otp.serial
  else if o = 0x10 then flds [(12, 1, b2n d.hid.lock), (0, 12, d.hid.moduleId)]
  else if o = 0x18 then flds [(24, 8, d.hid.layoutGen.toNat), (16, 3, d.hid.overlay), (0, 8, (d.parts.map (fun kv => 2 ^ kv.1)).sum)]
  else if o = 0x20 then flds ((List.range 8).map (fun t => (4 * t, 4, (ownerOf d.parts t).getD 0xF)))
  else if inRegs 0x1000 8 256 o then d.sztE ((o - 0x1000) / 0x100) (o % 0x100 / 8)
  else if o = 0x8000 then flds [(31, 1, b2n d.evt.en), (0, 4, d.evt.core)]
  else if o = 0x8008 then d.evt.head.setWidth 64
  else if o = 0x8010 then d.evt.tail.setWidth 64
  else if o = 0x8018 then d.evt.drop.setWidth 64
  else if o = 0x8040 then flds [(31, 1, b2n d.mgmt.link), (28, 3, d.mgmt.fec), (27, 1, b2n d.mgmt.osOwner)]
  else if o = 0x8048 then flds [(32, 32, d.mgmt.dropOs), (16, 16, d.mgmt.dropSvc), (0, 16, d.mgmt.dropRom)]
  else if o = 0x8050 then flds [(32, 32, d.sb.pecErr), (16, 16, d.sb.nacks), (0, 7, d.sb.addr)]
  else if o = 0x8058 then flds [(32, 32, d.pcie.ur), (16, 16, d.pcie.downs), (8, 4, d.pcie.width), (0, 3, d.pcie.speed)]
  else if o = 0x8060 then flds [(24, 8, d.dbg.fails), (2, 1, b2n d.dbg.lockedOut), (0, 2, d.dbg.level)]
  else if inRegs 0x8100 8 32 o then word128 (d.pcie.windows.getD ((o - 0x8100) / 16) 0) (o % 16 = 8)
  else if inRegs 0x9000 8 1024 o then wordAt (d.evt.ring.getD ((o - 0x9000) / 32) []) (o % 32)
  else 0

def Dev.rstcRead (d : Dev) (o : Nat) : W64 :=
  let r := d.rstc
  if o = 0 then flds [(48, 16, r.sysCount), (32, 16, r.coreCount), (30, 2, r.level), (22, 4, r.source), (0, 15, r.history.toNat)]
  else if o = 0x10 then flds [(32, 9, r.stable.toNat), (24, 1, b2n r.pllFault), (0, 9, r.hold.toNat)]
  else if o = 0x18 then flds [(0, 16, r.narbyMs)]
  else 0

def State.ptcRead (s : State) (o : Nat) : W64 :=
  let d := s.dev
  let c := d.ptc
  if o = 0 then flds [(48, 16, c.vin), (32, 16, c.iin), (16, 16, c.pinW), (0, 16, c.psilW)]
  else if o = 0x08 then flds [(16, 8, c.hyst), (0, 16, c.capW)]
  else if o = 0x10 then flds [(16, 16, c.limitW), (8, 1, b2n c.capUnreached), (0, 7, c.kCap)]
  else if o = 0x18 then flds [(0, 8, c.throttleC)]
  else if o = 0x20 then flds [(16, 12, c.holdCyc), (0, 7, c.droopMv)]
  else if o = 0x28 then flds [(32, 32, c.droops), (16, 16, c.trips), (8, 8, c.ibcFaults)]
  else if o = 0x30 then flds [(24, 8, t8 c.outletC), (16, 8, t8 c.inletC), (8, 8, t8 c.hubC), (0, 4, c.ibcOk.toNat)]
  else if o = 0x38 then flds [(31, 1, b2n c.psPending), (16, 2, c.psState), (2, 7, c.wakeAddr), (0, 2, c.psTarget)]
  else if o = 0x40 then BitVec.ofNat 64 c.hubUj
  else if inRegs 0x80 8 8 o then flds [(16, 7, c.kPart.getD ((o - 0x80) / 8) 64), (0, 16, c.partCap.getD ((o - 0x80) / 8) 0)]
  else if inRegs 0x100 8 8 o then
    let t := (d.tile ((o - 0x100) / 8)).trip
    flds [(56, 8, t8 t.logicC), (48, 8, t8 t.dramC), (47, 1, b2n t.trip), (40, 7, t.kTherm), (16, 16, t.logicW), (0, 16, t.stackW)]
  else if inRegs 0x800 8 8 o then let e := c.ePart.getD ((o - 0x800) / 8) (0, 0); flds [(32, 32, e.1), (0, 32, e.2)]
  else if inRegs 0x1000 8 128 o then
    let e := c.eCtx.getD ((o - 0x1000) / 16) ⟨0, 0, 0⟩
    if o % 16 = 0 then BitVec.ofNat 64 e.total else flds [(32, 32, e.pack), (0, 32, e.compute)]
  else if inRegs 0x2000 8 14 o then BitVec.ofNat 64 (s.otp.coef ((o - 0x2000) / 8))
  else 0

def Dev.secmRead (d : Dev) (o : Nat) : W64 :=
  let c := d.secm
  if inRegs 0 8 4 o then c.args.getD (o / 8) 0
  else if o = 0x28 then flds [(62, 1, b2n c.done), (61, 1, b2n c.refused), (0, 8, c.reason)]
  else if o = 0x30 then flds [(24, 8, d.boot.stage), (16, 8, d.boot.failType), (0, 8, d.boot.failReason)]
  else if inRegs 0x40 8 4 o then BitVec.ofNat 64 (bits c.nonce (64 * ((o - 0x40) / 8)) 64)
  else if inRegs 0x100 8 64 o then BitVec.ofNat 64 (bits (c.meas.getD ((o - 0x100) / 32) 0) (64 * (o % 32 / 8)) 64)
  else 0

/-- OTPC_RECORDt (14 Table 14-15). -/
def Otp.recordReg (o : Otp) (t : Nat) : W64 :=
  if t = 3 || t = 0x40 then flds [(4, 4, 1), (3, 1, 1)]
  else if t = 0x41 then flds [(4, 4, b2n o.idKey), (3, 1, b2n o.idKey)]
  else if t = 0x42 then flds [(4, 4, b2n (!o.chain.isEmpty)), (3, 1, b2n (!o.chain.isEmpty))]
  else flds [(4, 4, ((List.range 4).map (fun g => if (o.slots.get? (4 * t + g)).isSome then 2 ^ g else 0)).sum),
             (3, 1, b2n (o.active t).isSome), (0, 2, (o.active t).getD 0)]

def State.otpcRead (s : State) (o : Nat) : W64 :=
  let c := s.dev.otpc
  if o = 0 then flds [(2, 1, b2n c.optValid), (1, 1, b2n c.fuse.isSome), (0, 1, b2n (c.fuseDone && c.optDone))]
  else if o = 0x100 then flds [(31, 1, b2n c.pending), (30, 1, b2n c.refused), (16, 3, c.target), (0, 8, c.cause)]
  else if inRegs 0x208 8 66 o then s.otp.recordReg ((o - 0x200) / 8)
  else if o = 0x400 then
    flds ((List.range 4).flatMap (fun k => [(4 + k, 1, b2n ((s.otp.keys.get? k).any (fun x => x.revoked))), (k, 1, b2n ((s.otp.keys.get? k).any (fun x => x.programmed)))]))
  else if inRegs 0x410 8 9 o then flds [(0, 7, s.otp.counters.getD ((o - 0x408) / 8) 0)]
  else 0

def Dev.hpRead (d : Dev) (n o : Nat) : W64 :=
  let h := d.fab.port n
  if o = 0 then flds [(31, 1, b2n h.en), (30, 1, b2n h.channel), (29, 1, b2n h.spareAuto), (24, 4, h.lane), (0, 16, h.laneThresh)]
  else if o = 0x08 then
    flds [(52, 12, h.peerId), (48, 4, h.peerPort), (47, 1, b2n h.peerFwd), (46, 1, b2n h.miswired), (45, 1, b2n h.dimMismatch),
          (32, 8, h.pos.getD 8 8), (23, 9, h.good.toNat), (4, 4, h.width), (0, 4, h.st.code)]
  else if o = 0x10 then flds [(48, 16, h.downs), (32, 16, h.replays), (16, 16, h.uncorr), (0, 16, h.laneMoves)]
  else if o = 0x18 then h.arb.setWidth 64
  else if inRegs 0x40 8 4 o then BitVec.ofNat 64 (h.tx.getD ((o - 0x40) / 8) 0)
  else if inRegs 0x60 8 4 o then BitVec.ofNat 64 (h.rx.getD ((o - 0x60) / 8) 0)
  else if o = 0x80 then flds [(32, 32, h.misdelivered), (0, 32, h.fwdFlits / 2 ^ 20)]
  else if inRegs 0x100 8 9 o then BitVec.ofNat 64 ((if h.channel then h.eq else h.eqTrained).getD ((o - 0x100) / 8) 0x400000)
  else if n != 0 then 0
  else if o = 0x80000 then flds [(31, 1, b2n d.fab.routeEn), (10, 5, d.fab.dz), (5, 5, d.fab.dy), (0, 5, d.fab.dx)]
  else if o = 0x80008 then
    flds [(32, 32, d.fab.sourceId), (28, 4, d.fab.priority), (20, 8, d.fab.hops), (16, 4, d.fab.upstream), (2, 1, b2n d.fab.stepped), (0, 2, d.fab.st)]
  else if o = 0x80010 then BitVec.ofNat 64 d.clk.now
  else if o = 0x80018 then flds [(32, 32, d.fab.routeGen), (16, 16, d.fab.unreachable), (0, 16, d.fab.lostCount)]
  else 0

/-- COLE_GROUPg, word by word (11 Table 11-18). -/
def Dev.groupRead (d : Dev) (g w : Nat) : W64 :=
  let x := d.group g
  if w = 0 then flds [(52, 12, x.rank), (5, 47, x.table), (2, 2, x.st)]
  else if w = 1 then flds [(48, 16, x.timeoutMs), (40, 4, x.dz), (36, 4, x.dy), (32, 4, x.dx), (16, 16, x.id), (3, 13, x.size), (0, 3, x.part)]
  else if w = 2 then flds [(32, 32, x.seq.toNat), (0, 32, x.epoch.toNat)]
  else if x.st = 1 then
    flds [(16, 16, ((List.range x.size).filter (fun r => d.groupMember x r / 2 ^ 15 % 2 = 0)).length), (0, 16, x.runs.length)]
  else 0

def Dev.coleRead (d : Dev) (o : Nat) : W64 :=
  if o = 0 then flds [(32, 32, d.cole.completed), (16, 16, d.cole.restarts), (0, 16, d.cole.timeouts)]
  else if o = 0x800 then d.cole.rejoin
  else if o = 0x808 then d.cole.rejoinHi
  else if inRegs 0x1000 8 256 o then d.groupRead ((o - 0x1000) / 0x20) (o % 0x20 / 8)
  else 0

/-- A slot of RSE. -/
def Dev.wgRead (d : Dev) (p r : Nat) : W64 :=
  let w := d.wg p
  if r = 0 then
    flds [(48, 16, w.walingId), (43, 5, w.size), (42, 1, b2n w.parity), (38, 4, w.rank), (32, 6, w.context), (5, 1, b2n w.joining), (0, 3, w.st)]
  else if r = 0x08 then flds [(32, 32, w.shardUnits), (0, 32, w.table)]
  else if r = 0x10 then w.snapCtrl
  else if r = 0x18 then flds [(48, 16, w.lostMask.toNat), (32, 16, w.rebuildMask.toNat), (24, 8, w.logFill), (8, 16, w.logStalls)]
  else if r = 0x20 then w.baseRound
  else if r = 0x28 then w.epoch.setWidth 64
  else if r = 0x30 then w.log
  else if r = 0x38 then w.hold
  else if r = 0x40 then w.parityVa
  else if r = 0x48 then w.input
  else if r = 0x50 then flds [(32, 32, w.stripesDone), (4, 28, w.t), (0, 2, w.rstate)]
  else if r = 0x58 then w.subst.setWidth 64
  else if inRegs 0x100 8 16 r then w.regions.getD ((r - 0x100) / 8) 0
  else 0

def Dev.rseRead (d : Dev) (o : Nat) : W64 :=
  let r := d.rse
  if o = 0 then flds [(0, 16, r.risk)]
  else if o = 8 then r.riskCtrl.setWidth 64
  else if o = 0x10 then flds [(40, 24, r.committed), (24, 16, r.aborted), (8, 16, r.unprotected), (0, 8, r.rebuilds)]
  else if 0x1000 ≤ o && o < 0x3000 then d.wgRead ((o - 0x1000) / 0x400) ((o - 0x1000) % 0x400)
  else 0

/-- A strand fault record as 02 Table 2-7 lays it out. -/
def FaultRec.bytes (f : FaultRec) : List W8 :=
  leBytes 1 f.code ++ leBytes 1 (b2n f.more) ++ leBytes 1 f.tile ++ leBytes 1 f.cluster ++ leBytes 1 f.sched ++ leBytes 1 f.slot ++ leBytes 2 0
    ++ leBytes 8 f.pc.toNat ++ leBytes 4 f.mask.toNat ++ leBytes 4 0 ++ leBytes 8 f.addr.toNat ++ leBytes 8 f.ins.toNat ++ leBytes 8 f.ext.toNat
    ++ leBytes 8 f.time ++ leBytes 4 f.suppressed ++ leBytes 4 0

/-- OBJ_USAGEp. -/
def Dev.usage (d : Dev) (p : Nat) (hi : Bool) : W64 :=
  if hi then flds [(11, 15, (d.cmdsIn p Cmd.inflight).length), (0, 11, (d.obj.queues.filter (fun kv => kv.2.part = p)).length)]
  else flds [(22, 21, (d.obj.mobjs.filter (fun kv => kv.2.part = p)).length), (7, 15, (d.obj.fences.filter (fun kv => kv.2.part = p)).length),
             (0, 7, (d.obj.ctxs.filter (fun kv => kv.2.part = p)).length)]

/-- OBJ_PORTc. -/
def Dev.portRead (d : Dev) (c r : Nat) : W64 :=
  let v := d.oport c
  if r = 0 then v.arg0 else if r = 0x08 then v.arg1 else if r = 0x10 then v.arg2 else if r = 0x18 then v.arg3
  else if r = 0x28 then flds [(63, 1, b2n (d.portBusy c)), (62, 1, b2n v.ignored), (0, 8, v.status)]
  else if r = 0x30 then v.r1 else if r = 0x38 then v.r2 else 0

def CtxSt.code : CtxSt → Nat
  | .active => 1 | .lost => 2 | .teardown => 3
def QSt.code : QSt → Nat
  | .active => 1 | .blocked => 2 | .stopped => 3 | .destroying => 4

def Dev.objRead (d : Dev) (o : Nat) : W64 :=
  let b := d.obj
  if o = 0 then b.ignoredCount
  else if o = 8 then flds [(56, 8, b.ignCause), (48, 8, b.ignSource), (0, 48, b.ignDetail)]
  else if inRegs 0x100 8 16 o then d.usage ((o - 0x100) / 16) (o % 16 = 8)
  else if inRegs 0x180 8 8 o then BitVec.ofNat 64 (d.resvPart ((o - 0x180) / 8))
  else if inRegs 0x1000 8 128 o then d.portRead ((o - 0x1000) / 0x40) (o % 0x40)
  else if inRegs 0x2000 8 64 o then
    (match b.ctxs.get? ((o - 0x2000) / 8) with
      | some x => flds [(30, 2, x.st.code), (29, 1, b2n x.compat), (24, 3, x.part)]
      | none => 0)
  else if inRegs 0x4000 8 512 o then
    (match (b.ctxs.get? ((o - 0x4000) / 0x40)).bind (fun x => x.fault) with
      | some f => wordAt f.bytes (o % 0x40)
      | none => 0)
  else if inRegs 0x8000 8 4096 o then
    (match b.queues.get? ((o - 0x8000) / 0x20) with
      | none => 0
      | some u =>
        let r := o % 0x20
        if r = 0 then flds [(16, 5, u.log2), (8, 6, u.ctx), (0, 3, u.st.code)]
        else if r = 0x08 then flds [(32, 32, u.committed.toNat), (0, 32, u.head.toNat)]
        else if r = 0x10 then flds [(32, 32, u.reserved.toNat), (0, 32, u.ring)]
        else flds [(0, 20, u.ring / 2 ^ 32)])
  else 0

def Dev.scRead (d : Dev) (t k o : Nat) : W64 :=
  let c := if k = 0 then (d.tile t).sc0 else (d.tile t).sc1
  let enc := ((ownerOf d.parts t).bind (fun p => d.parts.get? p)).any (fun u => u.ent.enc)
  if o = 0 then flds [(24, 8, t8 c.tempC), (10, 2, c.refresh), (9, 1, b2n c.remapFull), (4, 4, c.st.code), (0, 1, b2n enc)]
  else if o = 0x08 then BitVec.ofNat 64 c.throttle
  else if o = 0x10 then flds [(32, 32, c.corrected), (16, 16, c.uncorrectable), (0, 16, c.scrubPasses)]
  else if o = 0x18 then BitVec.ofNat 64 c.bytesRd
  else if o = 0x20 then BitVec.ofNat 64 c.bytesWr
  else if o = 0x28 then flds [(31, 1, b2n c.scrubEn), (16, 8, c.thresh), (0, 16, c.periodH)]
  else if o = 0x30 then flds [(16, 9, (c.remap.filter (fun kv => decide (2 ^ 63 ≤ kv.2))).length), (0, 16, c.sparesUsed)]
  else if inRegs 0x100 8 256 o then BitVec.ofNat 64 (c.remap.getD ((o - 0x100) / 8) 0)
  else 0

def Dev.mxaRead (d : Dev) (t o : Nat) : W64 :=
  let m := (d.tile t).mxa
  if o = 0 then flds [(31, 1, b2n m.shEn), (30, 1, b2n m.shFmt), (24, 6, m.shThresh), (0, 16, m.shPeriod)]
  else if o = 0x08 then m.shSeed
  else if o = 0x10 then flds [(32, 32, m.compared), (0, 32, m.dropped)]
  else if o = 0x18 then flds [(16, 16, m.alarms), (0, 1, b2n m.alarm)]
  else if o = 0x20 then flds [(32, 32, m.reported), (0, 32, m.recomputed)]
  else if o = 0x28 then BitVec.ofNat 64 m.active
  else if o = 0x30 then BitVec.ofNat 64 m.pack
  else if o = 0x38 then BitVec.ofNat 64 m.stall
  else 0

def Dev.veRead (d : Dev) (t o : Nat) : W64 :=
  let v := (d.tile t).ve
  if o = 0 then flds [(32, 32, v.fused), (0, 32, v.standalone)]
  else if o = 0x08 then BitVec.ofNat 64 v.step
  else if o = 0x10 then BitVec.ofNat 64 v.plait
  else if inRegs 0x100 8 40 o then
    let c := d.cluster (ckey t ((o - 0x100) / 8))
    if !(d.tile t).spare.map.contains ((o - 0x100) / 8) then 0 else flds [(32, 6, c.oorCtx), (16, 16, c.oorCount), (0, 1, b2n c.permOor)]
  else 0

/-- A group of hyperparameters. -/
def UpdGroup.word (g : UpdGroup) (hi : Bool) : W64 := if hi then g.beta.setWidth 64 else flds [(32, 32, g.lambda.toNat), (0, 32, g.eta.toNat)]

/-- LSC_STATE: fields written since the last tick as they were written, the others as they stand (07 R249, Table 7-14). -/
def Lsc.stateReg (l : Lsc) : W64 :=
  (l.stateHi.getD (BitVec.ofNat 32 (t8 l.k * 2 ^ 24 + l.jitLeft * 2 ^ 16))) ++ (l.stateLo.getD (BitVec.ofNat 32 l.clean))

def Dev.ueRead (d : Dev) (t o : Nat) : W64 :=
  let e := (d.tile t).ue
  if o = 0 then BitVec.ofNat 64 e.done
  else if o = 0x08 then flds [(32, 32, e.skipped), (0, 32, e.staleRows)]
  else if o = 0x10 then flds [(32, 32, e.nonfinite), (16, 16, e.dupRows), (0, 16, e.badRows)]
  else if o = 0x18 then flds [(32, 32, e.refreshes), (0, 32, e.fallback)]
  else match (d.parts.find? (fun kv => kv.2.lead = t)).map (fun kv => kv.2) with
    | none => 0
    | some u =>
      let l := u.lsc
      if o = 0x100 then l.ctrlHeld
      else if o = 0x108 then l.stateReg
      else if o = 0x110 then l.stepHeld.getD l.step
      else if o = 0x118 then l.history
      else if o = 0x120 then
        flds [(32, 32, l.late), (16, 16, l.floorHits), (8, 8, l.disagree), (3, 5, l.pubMissed), (2, 1, b2n l.gated), (1, 1, b2n l.latched), (0, 1, b2n l.pending)]
      else if o = 0x128 then l.pubVa
      else if o = 0x130 then flds [(31, 1, b2n l.pubEn), (0, 6, l.pubCtx)]
      else if o = 0x138 then u.upd.held.eta.setWidth 64
      else if o = 0x140 then u.upd.held.beta.setWidth 64
      else if o = 0x148 then u.upd.held.lambda.setWidth 64
      else if inRegs 0x200 8 128 o then (u.upd.groups.getD ((o - 0x200) / 16) UpdGroup.reset).word (o % 16 = 8)
      else if o = 0x600 then u.alarm.head.setWidth 64
      else if o = 0x608 then u.alarm.tail.setWidth 64
      else if o = 0x610 then u.alarm.drop.setWidth 64
      else if inRegs 0x1000 8 1024 o then wordAt (u.alarm.log.getD ((o - 0x1000) / 32) []) (o % 32)
      else 0

/-- A far entry and a lend entry, word by word (08 Tables 8-24, 8-25). -/
def Far.word (f : Far) (hi : Bool) : W64 := if hi then flds [(62, 2, f.st), (0, 32, f.subpages)] else flds [(52, 12, f.module), (16, 36, f.base)]
def Lend.word (l : Lend) (hi : Bool) : W64 :=
  if hi then flds [(63, 1, b2n l.active), (32, 3, l.part), (0, 32, l.subpages)] else flds [(52, 12, l.borrower), (16, 36, l.base)]

/-- Free slots in ACTIVE far entries. -/
def Memp.farFree (m : Memp) : Nat := ((m.far.filter (fun kv => kv.2.st = 1)).map (fun kv => kv.2.subpages - kv.2.used.length)).sum

def Dev.mempRead (d : Dev) (t o : Nat) : W64 :=
  match d.parts.find? (fun kv => kv.2.lead = t) with
  | none => 0
  | some (p, u) =>
    let m := u.memp
    if o = 0 then m.migHeld.setWidth 64
    else if o = 0x08 then m.pagHeld.setWidth 64
    else if o = 0x10 then BitVec.ofNat 64 m.countMig
    else if o = 0x18 then BitVec.ofNat 64 m.countOut
    else if o = 0x20 then BitVec.ofNat 64 m.countIn
    else if o = 0x28 then BitVec.ofNat 64 m.countDirect
    else if o = 0x30 then BitVec.ofNat 64 m.countCancel
    else if o = 0x38 then flds [(32, 32, d.localFree p), (0, 32, m.farFree)]
    else if o = 0x40 then flds [(0, 32, ((d.subsOf p).filter (fun s => s.2.pins != 0)).length)]
    else if o = 0x48 then flds [(32, 32, d.secm.keyGen), (0, 1, b2n u.ent.enc)]
    else if o = 0x50 then BitVec.ofNat 64 u.ent.lendPool
    else if o = 0x80 then m.probeVa
    else if o = 0x88 then flds [(63, 1, b2n m.probeDone), (62, 1, b2n m.probeHit), (0, 6, m.probeCtx)]
    else if o = 0x90 then m.pe0
    else if o = 0x98 then m.pe1
    else if o = 0xA0 then m.spe
    else if inRegs 0x100 8 32 o then (m.far.getD ((o - 0x100) / 16) Far.reset).word (o % 16 = 8)
    else if inRegs 0x200 8 32 o then (m.lend.getD ((o - 0x200) / 16) Lend.reset).word (o % 16 = 8)
    else if o = 0x300 then BitVec.ofNat 64 m.refused
    else if inRegs 0x400 8 128 o then
      (match (d.obj.ctxs.get? ((o - 0x400) / 16)).bind (fun x => if x.part = p then x.memFault else none) with
        | some f => if o % 16 = 0 then f.va else flds [(9, 1, b2n f.exec), (8, 1, b2n f.write), (0, 8, f.cause)]
        | none => 0)
    else 0

def Dev.rndRead (d : Dev) (t o : Nat) : W64 :=
  match (d.parts.find? (fun kv => kv.2.lead = t)).map (fun kv => kv.2.rnd) with
  | none => 0
  | some r =>
    let b (budget charged : Nat) : W64 := flds [(32, 32, min 0xFFFFFFFF budget), (0, 32, min 0xFFFFFFFF charged)]
    if o = 0 then BitVec.ofNat 64 r.periodHeld
    else if o = 0x08 then r.ctrlHeld
    else if o = 0x10 then r.indexHeld.getD r.index
    else if o = 0x18 then BitVec.ofNat 64 r.align
    else if o = 0x20 then BitVec.ofNat 64 r.nextTick
    else if o = 0x28 then b r.budget0 r.charged0
    else if o = 0x30 then b r.budget1 r.charged1
    else if o = 0x38 then b r.budget2 r.charged2
    else if o = 0x40 then flds [(32, 32, r.rounds), (16, 16, r.sent), (8, 8, r.late), (0, 8, r.mismatch)]
    else if o = 0x48 then flds [(32, 32, r.carried), (0, 32, r.failed)]
    else 0

def Dev.spareRead (d : Dev) (t o : Nat) : W64 :=
  let x := (d.tile t).spare
  if o = 0 then flds [(24, 40, x.retired.toNat), (16, 8, x.corrThresh), (9, 6, x.cluster), (8, 1, b2n x.failed), (0, 2, x.sparesLeft)] else 0

def Dev.pwrRead (d : Dev) (t o : Nat) : W64 :=
  match (d.parts.find? (fun kv => kv.2.lead = t)).map (fun kv => kv.2.pwr) with
  | none => 0
  | some x => if o = 0 then BitVec.ofNat 64 x.phaseHeld else if o = 8 then BitVec.ofNat 64 x.opPrefHeld else if o = 0x10 then BitVec.ofNat 64 x.op else 0

/-- A block's register. -/
def State.blkRead (s : State) : RegBlk → Nat → W64
  | .hid, o => s.hidRead o | .rstc, o => s.dev.rstcRead o | .ptc, o => s.ptcRead o | .secm, o => s.dev.secmRead o | .otpc, o => s.otpcRead o
  | .hp n, o => s.dev.hpRead n o | .cole, o => s.dev.coleRead o | .rse, o => s.dev.rseRead o | .obj, o => s.dev.objRead o
  | .sc t k, o => s.dev.scRead t k o | .mxa t, o => s.dev.mxaRead t o | .ve t, o => s.dev.veRead t o | .ue t, o => s.dev.ueRead t o
  | .memp t, o => s.dev.mempRead t o | .rnd t, o => s.dev.rndRead t o | .spare t, o => s.dev.spareRead t o | .pwr t, o => s.dev.pwrRead t o
  | .none, _ => 0

/-- The register at a multiple of 8 from the CSR base; zero where none is listed. -/
def State.regRead (s : State) (off : Nat) : W64 := s.blkRead (regBlk off).1 (regBlk off).2

end Sys2Proof.Machine
end

