-- ==== Sys2Proof/Machine/Registers.lean ====
section
/-! DEFINITION. Register writes (00 R7 to R10; 09 R328): REGISTER_WRITE takes any offset, width and value. -/

namespace Sys2Proof.Machine

/-! HID (01; 15). -/

/-- A PCIe window takes its word unless it would be enabled over a range that leaves the carve-out (15 R494). -/
def Dev.windowWrite (d : Dev) (w : Nat) (hi : Bool) (off : Nat) (v : W64) : Dev :=
  let x := d.pcie.windows.getD w 0
  let y : BitVec 128 := if hi then v ++ word128 x false else word128 x true ++ v
  if y.getLsbD 63 && !carveOk (bits y 76 40 * 4096) (bits y 0 32 * 4096) then d.ignReg 0x09 off
  else { d with pcie := { d.pcie with windows := d.pcie.windows.set w y } }

def Dev.hidWrite (d : Dev) (o off : Nat) (v : W64) : Dev :=
  if o = 0x10 then
    (if d.hid.lock then d.ignReg 0x09 off else { d with hid := { d.hid with moduleId := bits v 0 12, lock := v.getLsbD 12 } })
  else if o = 0x8000 then { d with evt := { d.evt with en := v.getLsbD 31, core := bits v 0 4 } }
  else if o = 0x8010 then
    (if 256 < (d.evt.head - v.truncate 32).toNat then d.ignReg 0x09 off else { d with evt := { d.evt with tail := v.truncate 32 } })
  else if o = 0x8040 then (if 2 < bits v 28 3 then d.ignReg 0x09 off else { d with mgmt := { d.mgmt with fec := bits v 28 3 } })
  else if o = 0x8050 then (if bits v 0 7 < 8 || 0x77 < bits v 0 7 then d.ignReg 0x09 off else { d with sb := { d.sb with addr := bits v 0 7 } })
  else if inRegs 0x8100 8 32 o then d.windowWrite ((o - 0x8100) / 16) (o % 16 = 8) off v
  else d

/-! RSTC, PTC, SECM, OTPC (13; 14). -/

def Dev.rstcWrite (d : Dev) (o : Nat) (v : W64) : Dev :=
  if o = 0 then { d with rstc := { d.rstc with history := d.rstc.history &&& ~~~(v.truncate 15) } }
  else if o = 8 then d.rstcCtrl v
  else if o = 0x10 then d.blocksWrite v
  else if o = 0x18 then d.wdtWrite v
  else d

def Dev.ptcWrite (d : Dev) (o off : Nat) (v : W64) : Dev :=
  if o = 8 then d.capWrite v
  else if o = 0x18 then (if bits v 0 8 < 85 || 105 < bits v 0 8 then d.ignReg 0x09 off else { d with ptc := { d.ptc with throttleC := bits v 0 8 } })
  else if o = 0x20 then
    (if bits v 16 12 < 64 || bits v 0 7 < 20 || 100 < bits v 0 7 then d.ignReg 0x09 off
     else { d with ptc := { d.ptc with holdCyc := bits v 16 12, droopMv := bits v 0 7 } })
  else if o = 0x38 then d.psWrite v (bits v 0 2)
  else if inRegs 0x80 8 8 o then
    (let cap := bits v 0 16
     if cap != 0 && (cap < 100 || 3600 < cap) then d.ignReg 0x09 off else { d with ptc := { d.ptc with partCap := d.ptc.partCap.set ((o - 0x80) / 8) cap } })
  else d

/-- SECM_CMD by opcode (14 Table 14-8). DESIGN CHOICE (log 74): a 32-bit write that reaches only the upper half is a write with opcode 0, which no
command has, and is counted so. -/
def State.secmCmd (s : State) (v : W64) : Host.Outcome State Fault Refusal :=
  match bits v 0 8 with
  | 1 => execLoadComponent v s
  | 2 => execCommitSvn v s
  | 3 => execOtpWrite v s
  | 4 => execKeyInstall v s
  | 5 => execKeyRevoke v s
  | 6 => execFlashImage v s
  | 7 => execHandover v s
  | _ => onDev (fun d => d.ignReg 0x09 0x00300020) s

/-! HPn, the fabric, COLE, RSE (11; 12). -/

/-- A signed field of eight bits. -/
def s8 (v : W64) (lo : Nat) : Int := (v.extractLsb' lo 8).toInt

/-- The ranges of 11 Table 11-22. -/
def eqOk (v : W64) : Bool :=
  decide (bits v 32 8 ≤ 31) && decide (-16 ≤ s8 v 24) && decide (s8 v 24 ≤ 0) && decide (32 ≤ bits v 16 8) && decide (bits v 16 8 ≤ 64)
    && decide (-16 ≤ s8 v 8) && decide (s8 v 8 ≤ 0) && decide (0 ≤ s8 v 0) && decide (s8 v 0 ≤ 8)
    && decide ((s8 v 0).natAbs + (s8 v 8).natAbs + bits v 16 8 + (s8 v 24).natAbs ≤ 64)

def Dev.hpWrite (d : Dev) (n o off : Nat) (v : W64) : Dev :=
  if o = 0 then d.retrainWrite n v
  else if o = 0x18 then
    (if bits v 24 8 < 128 || bits v 16 8 = 0 || bits v 8 8 = 0 || bits v 0 8 = 0 then d.ignReg 0x09 off
     else d.updPort n (fun h => { h with arb := v.truncate 32 }))
  else if inRegs 0x100 8 9 o then
    (if !(d.fab.port n).channel || !eqOk v then d.ignReg 0x09 off
     else d.updPort n (fun h => { h with eq := h.eq.set ((o - 0x100) / 8) v.toNat }))
  else if n = 0 && o = 0x80000 then d.fabricCtrl v
  else if n = 0 && o = 0x80008 then Dev.timeUpdate { d with fab := { d.fab with priority := bits v 28 4 } }
  else d

/-- COLE_GROUPg words 0 and 1: RW fields stand still while the slot is ACTIVE; a SIZE that the write reaches is in its range (11 Table 11-18). -/
def Dev.groupWrite (d : Dev) (g w off : Nat) (h v : W64) : Dev :=
  let x := d.group g
  if w = 0 then d.groupWord0 g h v
  else
    (let size := bits v 3 13
     if x.st = 1 || (h.getLsbD 3 && (size = 0 || 4096 < size)) then d.ignReg 0x09 off
     else { d with cole := { d.cole with groups := d.cole.groups.set g { x with
        timeoutMs := bits v 48 16, dz := bits v 40 4, dy := bits v 36 4, dx := bits v 32 4, id := bits v 16 16, size := size, part := bits v 0 3 } } })

def Dev.coleWrite (d : Dev) (o off : Nat) (h v : W64) : Dev :=
  if o = 0x800 then d.rejoin v
  else if o = 0x808 then { d with cole := { d.cole with rejoinHi := v } }
  else if inRegs 0x1000 8 256 o then d.groupWrite ((o - 0x1000) / 0x20) (o % 0x20 / 8) off h v
  else d

/-- Ranges of the RW fields of a slot of RSE that a write reaches, the bits of h (12 Tables 12-6 to 12-12). -/
def Wg.fieldOk (r : Nat) (h v : W64) : Bool :=
  let rate (x : Nat) : Bool := decide (1 ≤ x) && decide (x ≤ 1200)
  if r = 0 then Wg.ctrlOk h v
  else if r = 0x08 then (!h.getLsbD 32 || bits v 32 32 != 0) && (!h.getLsbD 0 || carveOk (bits v 0 32 * 2 ^ 20) 64)
  else if r = 0x10 then rate (bits v 48 16) && rate (bits v 32 16) && decide (1 ≤ bits v 0 8) && decide (bits v 0 8 ≤ bits v 8 8)
  else if r = 0x30 || r = 0x38 then !h.getLsbD 0 || bits v 0 20 != 0
  else if r = 0x48 then !h.getLsbD 0 || decide (bits v 0 17 ≤ 65536)
  else true

/-- The slot with an RW register written. -/
def Wg.put (w : Wg) (r : Nat) (v : W64) : Wg :=
  if r = 0 then w.withCtrl v
  else if r = 0x08 then { w with shardUnits := bits v 32 32, table := bits v 0 32 }
  else if r = 0x10 then { w with snapCtrl := v }
  else if r = 0x30 then { w with log := v }
  else if r = 0x38 then { w with hold := v }
  else if r = 0x40 then { w with parityVa := v }
  else if r = 0x48 then { w with input := v }
  else if r = 0x58 then { w with subst := v.truncate 32 &&& 0x000F7FFF#32 }
  else if inRegs 0x100 8 16 r then { w with regions := w.regions.set ((r - 0x100) / 8) v }
  else w

/-- A slot of RSE: its actions, else RW fields while it is FREE (12 R427). -/
def Dev.wgWrite (d : Dev) (p r off : Nat) (h v : W64) : Dev :=
  let w := d.wg p
  if r = 0 then d.wgCtrl p h v
  else if r = 0x50 then (if v.getLsbD 3 then (d.rebuildGo p v).joined p v else d.rebuildGo p v)
  else if r = 0x58 && v.getLsbD 31 then d.subst p v
  else if w.st != 0 || !Wg.fieldOk r h v then d.ignReg 0x09 off
  else d.setWg p (w.put r v)

def Dev.rseWrite (d : Dev) (o off : Nat) (h v : W64) : Dev :=
  if o = 8 then { d with rse := { d.rse with riskCtrl := v.truncate 32 } }
  else if 0x1000 ≤ o && o < 0x3000 then d.wgWrite ((o - 0x1000) / 0x400) ((o - 0x1000) % 0x400) off h v
  else d

/-! OBJ (09). -/

/-- CMD by opcode (09 Table 9-2). DESIGN CHOICE (log 74): a 32-bit write that reaches only the upper half writes no opcode; it is a write of CMD
with opcode 0, which no command has, and is counted so. -/
def State.portCmd (s : State) (c : Nat) (v : W64) : Host.Outcome State Fault Refusal :=
  let h : BitVec 56 := v.extractLsb' 8 56
  match bits v 0 8 with
  | 0x01 => execCtxCreate c h s
  | 0x02 => execCtxDestroy c h s
  | 0x03 => execQCreate c h s
  | 0x04 => execQDestroy c h s
  | 0x05 => execQReserve c h s
  | 0x06 => execQCommit c h s
  | 0x07 => execQResume c h s
  | 0x08 => execMoCreate c h s
  | 0x09 => execMoRetain c h s
  | 0x0A => execMoRelease c h s
  | 0x0B => execMoMap c h s
  | 0x0C => execMoUnmap c h s
  | 0x0D => execMoQuery c h s
  | 0x0E => execFCreate c h s
  | 0x0F => execFDestroy c h s
  | 0x10 => execFExport c h s
  | 0x11 => execFSignal c h s
  | 0x12 => execFQuery c h s
  | 0x13 => execAbort c h s
  | n => onDev (objCmd n (fun _ _ => .ign 0x01) c h) s

/-- ARG0 to ARG3 of a port; while it is BUSY the write is ignored and counted (09 R307). -/
def Dev.argWrite (d : Dev) (c k : Nat) (v : W64) : Dev :=
  let x := d.oport c
  if d.portBusy c then d.ignore 0x08 0x10 (0x04001000 + 0x40 * c + 8 * k)
  else d.setOport c (if k = 0 then { x with arg0 := v } else if k = 1 then { x with arg1 := v } else if k = 2 then { x with arg2 := v } else { x with arg3 := v })

/-! Tiles (04, 06, 07, 08, 10, 12, 13). -/

/-- Runtime repairs in force. -/
def Sc.repairs (c : Sc) : Nat := (c.remap.filter (fun kv => decide (2 ^ 63 ≤ kv.2))).length

/-- A remap entry written back; the spare rows in use follow (08 R298, Table 8-15). -/
def Sc.writeBack (c : Sc) (i v : Nat) : Sc :=
  let c' : Sc := { c with remap := if v = 0 then c.remap.del i else c.remap.set i v }
  { c' with sparesUsed := c.sparesUsed + c'.repairs - c.repairs }

/-- A stack controller: scrub control, and the remap entries while no partition owns the stack (08 R298). -/
def Dev.scWrite (d : Dev) (t k o off : Nat) (v : W64) : Dev :=
  if o = 0x28 then
    (if bits v 16 8 = 0 || bits v 0 16 = 0 || 720 < bits v 0 16 then d.ignReg 0x09 off
     else d.updSc t k (fun c => { c with scrubEn := v.getLsbD 31, thresh := bits v 16 8, periodH := bits v 0 16 }))
  else if inRegs 0x100 8 256 o then
    (if (ownerOf d.parts t).isSome || 11 < bits v 28 4 then d.ignReg 0x09 off
     else d.updSc t k (fun c => c.writeBack ((o - 0x100) / 8) v.toNat))
  else d

def Dev.mxaWrite (d : Dev) (t o off : Nat) (v : W64) : Dev :=
  if o = 0 then
    (if bits v 0 16 < 15 then d.ignReg 0x09 off
     else d.updTile t (fun x => { x with mxa := { x.mxa with shEn := v.getLsbD 31, shFmt := v.getLsbD 30, shThresh := bits v 24 6, shPeriod := bits v 0 16 } }))
  else if o = 8 then d.updTile t (fun x => { x with mxa := { x.mxa with shSeed := v } })
  else if o = 0x18 then d.updTile t (fun x => { x with mxa := { x.mxa with alarm := x.mxa.alarm && !v.getLsbD 0 } })
  else d

def Dev.veWrite (d : Dev) (t o : Nat) (v : W64) : Dev :=
  if inRegs 0x100 8 40 o && v.getLsbD 0 && (d.cluster (ckey t ((o - 0x100) / 8))).permOor then
    d.updCluster (ckey t ((o - 0x100) / 8)) (fun c => { c with permOor := false })
  else d

/-- FP32 ranges of 07 Tables 7-19 and 7-20: plus zero, or positive and finite; from 0 on and below 1 (a minus zero is 0; log 74). -/
def etaOk (x : W32) : Bool := decide (x.toNat < 0x7F800000)
def betaOk (x : W32) : Bool := decide (x.toNat < 0x3F800000) || x = 0x80000000#32

/-- Are the fields of LSC_STATE that a write reaches (the bits of h) in range of the control values last written (07 Table 7-14;
log 74)? -/
def Lsc.stateOk (l : Lsc) (h v : W64) : Bool :=
  (!h.getLsbD 63 || (decide (sbyte l.ctrlHeld 24 ≤ sbyte v 56) && decide (sbyte v 56 ≤ sbyte l.ctrlHeld 32) && decide (bits v 48 8 ≤ 16)))
    && (!h.getLsbD 0 || decide (bits v 0 16 < Lsc.cleanRun l.ctrlHeld))

/-- A partition register of the UE block (07 Tables 7-13 to 7-21). -/
def Dev.ueWrite (d : Dev) (p : Nat) (u : Part) (o off : Nat) (h v : W64) : Dev :=
  let lo : W32 := v.truncate 32
  let hi : W32 := v.extractLsb' 32 32
  let put (c : Bool) (f : Part → Part) : Dev := if c then d.updPart p f else d.ignReg 0x09 off
  let l := u.lsc
  if o = 0x100 then put (lscCtrlOk v) (fun u => { u with lsc := { u.lsc with ctrlHeld := v } })
  else if o = 0x108 then put (l.stateOk h v) (fun u => { u with lsc := { u.lsc with
      stateHi := if h.getLsbD 63 then some hi else u.lsc.stateHi, stateLo := if h.getLsbD 0 then some lo else u.lsc.stateLo } })
  else if o = 0x110 then put true (fun u => { u with lsc := { u.lsc with stepHeld := some v } })
  else if o = 0x128 then put true (fun u => { u with lsc := { u.lsc with pubVa := v } })
  else if o = 0x130 then put true (fun u => { u with lsc := { u.lsc with pubEn := v.getLsbD 31, pubCtx := bits v 0 6 } })
  else if o = 0x138 then put (etaOk lo) (fun u => { u with upd := { u.upd with held := { u.upd.held with eta := lo } } })
  else if o = 0x140 then put (betaOk lo) (fun u => { u with upd := { u.upd with held := { u.upd.held with beta := lo } } })
  else if o = 0x148 then put (etaOk lo) (fun u => { u with upd := { u.upd with held := { u.upd.held with lambda := lo } } })
  else if inRegs 0x200 8 128 o then
    (let k := (o - 0x200) / 16
     let g := u.upd.groups.getD k UpdGroup.reset
     if o % 16 = 0 then put (etaOk lo && etaOk hi) (fun u => { u with upd := { u.upd with groups := u.upd.groups.set k { g with eta := lo, lambda := hi } } })
     else put (betaOk lo) (fun u => { u with upd := { u.upd with groups := u.upd.groups.set k { g with beta := lo } } }))
  else if o = 0x608 then put (decide ((u.alarm.head - lo).toNat ≤ 256)) (fun u => { u with alarm := { u.alarm with tail := lo } })
  else d

/-- Word 1 of a far entry: DRAIN, ARM, or SUBPAGES while the entry is UNUSED or FAILED. DESIGN CHOICE (log 74): while it is ACTIVE or DRAINING, any
other write of the word is ignored and counted, also one of zeros to its upper half, which holds no RW field. -/
def Dev.farWrite (d : Dev) (p : Nat) (u : Part) (j off : Nat) (hi : Bool) (v : W64) : Dev :=
  let f := u.memp.far.getD j Far.reset
  if !hi then d.updMemp p (fun m => { m with far := m.far.set j { f with module := bits v 52 12, base := bits v 16 36 } })
  else if v.getLsbD 41 then d.farDrain p j v
  else if v.getLsbD 40 then d.farArm p j v
  else if f.st = 0 || f.st = 3 then d.updMemp p (fun m => { m with far := m.far.set j { f with subpages := bits v 0 32 } })
  else d.ignReg 0x09 off

/-- A lend entry: BORROWER; RELEASE, ARM, or PART and SUBPAGES within the pool. -/
def Dev.lendWrite (d : Dev) (p : Nat) (u : Part) (j off : Nat) (hi : Bool) (v : W64) : Dev :=
  let l := u.memp.lend.getD j Lend.reset
  let others := ((u.memp.lend.filter (fun kv => kv.1 != j)).map (fun kv => kv.2.subpages)).sum
  if !hi then d.updMemp p (fun m => { m with lend := m.lend.set j { l with borrower := bits v 52 12 } })
  else if v.getLsbD 41 then d.lendRelease p j v
  else if v.getLsbD 40 then d.lendArm p j v
  else if u.ent.lendPool < 65536 * (others + bits v 0 32) then d.ignReg 0x09 off
  else d.updMemp p (fun m => { m with lend := m.lend.set j { l with subpages := bits v 0 32, part := bits v 32 3 } })

/-- A register of MEMP (08 Tables 8-17 to 8-26). -/
def Dev.mempWrite (d : Dev) (p : Nat) (u : Part) (o off : Nat) (v : W64) : Dev :=
  let f (k : Nat) : Nat := bits v (8 * k) 8
  if o = 0 then
    (if f 2 < 50 || 100 < f 2 || f 1 < 1 || 25 < f 1 || f 0 < 1 then d.ignReg 0x09 off else d.updMemp p (fun m => { m with migHeld := v.truncate 32 }))
  else if o = 8 then
    (if f 1 < 1 || 49 < f 1 || f 2 ≤ f 1 || 50 < f 2 || 64 < f 0 then d.ignReg 0x09 off else d.updMemp p (fun m => { m with pagHeld := v.truncate 32 }))
  else if o = 0x80 then d.updMemp p (fun m => { m with probeVa := v })
  else if o = 0x88 then (if v.getLsbD 31 then d.probe p v else d.updMemp p (fun m => { m with probeCtx := bits v 0 6 }))
  else if inRegs 0x100 8 32 o then d.farWrite p u ((o - 0x100) / 16) off (o % 16 = 8) v
  else if inRegs 0x200 8 32 o then d.lendWrite p u ((o - 0x200) / 16) off (o % 16 = 8) v
  else d

/-- May ALIGN name this time: 250 µs to 4 s after the next tick; 0 is none (10 R332)? -/
def Rounds.alignOk (r : Rounds) (v : W64) : Bool :=
  v = 0 || (decide (r.nextTick + 250000 ≤ v.toNat) && decide (v.toNat ≤ r.nextTick + 4000000000))

/-- A register of RND (10 Tables 10-7 to 10-10) or of PWR (13 Table 13-20). -/
def Dev.rndWrite (d : Dev) (p : Nat) (u : Part) (o off : Nat) (v : W64) : Dev :=
  let put (c : Bool) (f : Rounds → Rounds) : Dev := if c then d.updRounds p f else d.ignReg 0x09 off
  if o = 0 then put (periodOk v.toNat) (fun r => { r with periodHeld := v.toNat })
  else if o = 8 then put (rndCtrlOk v) (fun r => { r with ctrlHeld := v })
  else if o = 0x10 then put true (fun r => { r with indexHeld := some v })
  else if o = 0x18 then put (u.rnd.alignOk v) (fun r => { r with align := v.toNat })
  else d

def Dev.pwrWrite (d : Dev) (p o off : Nat) (v : W64) : Dev :=
  if o = 0 then (if 5 < bits v 0 3 then d.ignReg 0x09 off else d.updPart p (fun u => { u with pwr := { u.pwr with phaseHeld := bits v 0 3 } }))
  else if o = 8 then (if !opPrefOk v.toNat then d.ignReg 0x09 off else d.updPart p (fun u => { u with pwr := { u.pwr with opPrefHeld := v.toNat } }))
  else d

/-! The write. -/

/-- Writes a block of tile t that follows 07 R238, on behalf of the partition led by t. -/
def Dev.leadWrite (d : Dev) (t : Nat) (f : Nat → Part → Dev) : Dev :=
  match d.parts.find? (fun kv => kv.2.lead = t) with
  | some kv => f kv.1 kv.2
  | none => d

/-- Writes v, its reserved bits cleared, to the register at offset o of a block; the access reaches the bits of h. -/
def State.blkWrite (s : State) (b : RegBlk) (o off : Nat) (h v : W64) : Host.Outcome State Fault Refusal :=
  match b with
  | .hid => onDev (fun d => d.hidWrite o off v) s
  | .rstc => onDev (fun d => d.rstcWrite o v) s
  | .ptc => onDev (fun d => d.ptcWrite o off v) s
  | .secm => if o = 0x20 then s.secmCmd v else onDev (fun d => { d with secm := { d.secm with args := d.secm.args.set (o / 8) v } }) s
  | .otpc => onDev (fun d => d.overlayReq s.otp v) s
  | .hp n => onDev (fun d => d.hpWrite n o off v) s
  | .cole => onDev (fun d => d.coleWrite o off h v) s
  | .rse => onDev (fun d => d.rseWrite o off h v) s
  | .obj => if 0x2000 ≤ o then execAck ((o - 0x2000) / 8) v s
      else if o % 0x40 = 0x20 then s.portCmd ((o - 0x1000) / 0x40) v
      else onDev (fun d => d.argWrite ((o - 0x1000) / 0x40) (o % 0x40 / 8) v) s
  | .sc t k => onDev (fun d => d.scWrite t k o off v) s
  | .mxa t => onDev (fun d => d.mxaWrite t o off v) s
  | .ve t => onDev (fun d => d.veWrite t o v) s
  | .ue t => onDev (fun d => d.leadWrite t (fun p u => d.ueWrite p u o off h v)) s
  | .memp t => onDev (fun d => d.leadWrite t (fun p u => d.mempWrite p u o off v)) s
  | .rnd t => onDev (fun d => d.leadWrite t (fun p u => d.rndWrite p u o off v)) s
  | .spare t => onDev (fun d => d.swapWrite t v) s
  | .pwr t => onDev (fun d => d.leadWrite t (fun p _ => d.pwrWrite p o off v)) s
  | .none => .next s

/-- The half of a register that an access of 32 bits reaches, or all of it. -/
def halfMask (off width : Nat) : W64 := if width = 64 then ones64 else if off % 8 = 4 then 0xFFFFFFFF00000000#64 else 0xFFFFFFFF#64

/-- What a write stores: the bits that it reaches, beside those that the register keeps (00 R7, R8, R10). -/
def State.merged (s : State) (off width : Nat) (v : W64) : W64 :=
  let m := regMask (off / 8 * 8)
  let h := halfMask off width
  let v := if off % 8 = 4 then v <<< 32 else v
  (v &&& h &&& (m.rw ||| m.act)) ||| (s.regRead (off / 8 * 8) &&& m.rw &&& ~~~h)

/-- Is a tile's partition register not live: the tile leads no partition (07 R238)? -/
def Dev.notLead (d : Dev) (off : Nat) : Bool := (partReg off).any (fun t => !d.parts.any (fun kv => kv.2.lead = t))

/-- An ignored register write names the offset of its access (09 Table 9-13). -/
def named (off : Nat) (before : W64) (d : Dev) : Dev :=
  if d.obj.ignoredCount != before && d.obj.ignSource = 0x10 then { d with obj := { d.obj with ignDetail := off } } else d

/-- Names the access in the outcome of a write. -/
def State.namedBy (s : State) (off : Nat) : Host.Outcome State Fault Refusal → Host.Outcome State Fault Refusal
  | .next t => .next { t with dev := named off s.dev.obj.ignoredCount t.dev }
  | o => o

/-- REGISTER_WRITE: an access of a wrong width or alignment, and a partition register of a tile that leads none, are ignored and counted;
RO and reserved bits are ignored. -/
def execRegisterWrite (off width : Nat) (v : W64) (s : State) : Host.Outcome State Fault Refusal :=
  let reg := off / 8 * 8
  let m := regMask reg
  if (width != 32 && width != 64) || off % (width / 8) != 0 then onDev (fun d => d.ignReg 0x0A off) s
  else if s.dev.notLead reg then onDev (fun d => d.ignReg 0x0C off) s
  else if (m.rw ||| m.act) &&& halfMask off width = 0 then .next s
  else s.namedBy off (s.blkWrite (regBlk reg).1 (regBlk reg).2 off (halfMask off width) (s.merged off width v))

/-! Accesses of the Narby cores and of the debug port (00 R4, R8, R10; 01 R23, R24; 08 R295; 15 R482, R484, R494, R501). -/

/-- An exception taken by a core: 1 access fault, 2 hardware error (log 20). -/
def Dev.coreTrap (d : Dev) (core kind : Nat) : Dev := { d with out := d.out.set (0x60 + core) [BitVec.ofNat 8 kind] }
/-- What a load of a core returned. -/
def Dev.coreData (d : Dev) (core : Nat) (l : List W8) : Dev := { d with out := d.out.set (0x40 + core) l }

/-- Through the carve-out. -/
def Dev.csCarve (d : Dev) (r : CsAccess) (a n : Nat) : Dev :=
  if r.write then (if d.badPartial a n then ((Dev.loadAt a n d).carveEvent a).coreTrap r.core 2 else d.dramWrite a r.data)
  else
    let bad := d.badIn a n
    let d := Dev.loadAt a n d
    if bad then (d.carveEvent a).coreTrap r.core 2 else d.coreData r.core (d.dramRead a n)

/-- Through the PCIe aperture: a write leaves at the port; what a read answers is the device's, free (log 77). -/
def Dev.csPcie (d : Dev) (r : CsAccess) (n : Nat) : Dev :=
  if r.write then { d with out := d.out.set 0x36 (leBytes 8 r.addr.toNat ++ r.data) }
  else (d.coreData r.core (Mem.readN (Config.freeBytes d.clk.free) 0 n)).drew

/-- Through a mapped object: the mapping's permissions bind; an access that waits is made again by its core (log 78). -/
def Dev.csObject (d : Dev) (r : CsAccess) (n : Nat) : Dev :=
  let va := r.addr.toNat
  let t := d.leadOf (d.partOf r.ctx)
  match d.prepare r.ctx t (if r.write then .store else .load) (spansOf va n) with
  | .fault _ _ _ => d.coreTrap r.core 1
  | .stall d => d
  | .ok d =>
    if r.write then
      if d.vbadPartial r.ctx va n then (d.loseMet r.ctx va n true).coreTrap r.core 2
      else (d.vwrite r.ctx t va r.data).dropDirect r.ctx (spansOf va n)
    else if d.vbad r.ctx va n then (d.loseMet r.ctx va n false).coreTrap r.core 2
    else (d.coreData r.core (d.vread r.ctx va n)).dropDirect r.ctx (spansOf va n)

/-- The part of a raw write of bytes from a on that falls in quarter q: of a sub-page of a partition that encrypts, the whole quarter takes
what the new ciphertext stands for. -/
def Dev.rawQuarter (a : Nat) (l : List W8) (d : Dev) (q : Nat) : Dev :=
  let x := max a (64 * q)
  let y := min (a + l.length) (64 * q + 64)
  match d.locKey (q / 1024) with
  | none => d.dramWrite x ((l.drop (x - a)).take (y - x))
  | some _ => d.dramWrite (64 * q) (d.fromRaw (64 * q) ((d.rawRead (64 * q) 64).zipIdx.map (fun b =>
      if decide (x ≤ 64 * q + b.2) && decide (64 * q + b.2 < y) then l.getD (64 * q + b.2 - a) 0 else b.1)))

/-- Raw DRAM, without any partition key: stored bytes as they are (15 R501; 08 R300). A read of a quarter in error answers free bytes, a write of a
part of one is not applied (log 111). -/
def Dev.rawAccess (d : Dev) (r : CsAccess) (a n : Nat) : Dev :=
  if r.write then
    if d.badPartial a n then d else
    ((List.range ((a + n + 63) / 64 - a / 64)).map (fun k => a / 64 + k)).foldl (Dev.rawQuarter a r.data) d
  else if d.badIn a n then (d.coreData r.core (Mem.readN (Config.freeBytes d.clk.free) 0 n)).drew
  else d.coreData r.core (d.rawRead a n)

/-- Do the cores, or the debug port by number 16 in the state and at the level that the access needs, make an access now? The cores do not run
while they are in reset or halted. -/
def Dev.csReady (d : Dev) (r : CsAccess) (csr : Bool) : Bool :=
  if r.core = 16 then d.hubOn && (if csr && !r.write then d.dbg.level != 0 else d.dbg.level = 2)
  else decide (r.core < 16) && d.boot.dramTrained && !d.rstc.coreStep && !d.dbg.halted.contains r.core

/-- An access to memory; no other address is a core's (15 R482). -/
def Dev.csAccess (d : Dev) (r : CsAccess) : Dev :=
  let n := if r.write then r.data.length else r.len
  let a := r.addr.toNat
  if !d.csReady r false then d
  else if r.core = 16 then (if r.carveOut && a + n ≤ 16 * stackPages * 65536 && d.boot.dramTrained then d.rawAccess r a n else d)
  else if !r.carveOut then d.csObject r n
  else if carveOk a n then d.csCarve r a n
  else if 0xE000000000000 ≤ a && a + n ≤ 0xE004000000000 then d.csPcie r n
  else d.coreTrap r.core 1

/-- CSR space begins at this local physical address (00 R4). -/
def csrBase : Nat := 0xF000000000000

/-- A register read of n bytes: one of a wrong width or alignment returns zero and is counted, NONCE0 draws a new nonce (00 R10; 14 Table 14-18). -/
def State.csrRead (s : State) (core off n : Nat) : State :=
  if (n != 4 && n != 8) || off % n != 0 then { s with dev := (s.dev.ignReg 0x0A off).coreData core (List.replicate n 0) } else
  let s : State := if off / 8 * 8 = 0x300040 then { s with dev := s.dev.newNonce } else s
  { s with dev := s.dev.coreData core (((leBytes 8 (s.regRead (off / 8 * 8)).toNat).drop (off % 8)).take n) }

/-- CONTROL_SOFTWARE_ACCESS: to CSR space, or to memory. -/
def execControlSoftwareAccess (r : CsAccess) (s : State) : Host.Outcome State Fault Refusal :=
  let a := r.addr.toNat
  let n := if r.write then r.data.length else r.len
  if r.carveOut && csrBase ≤ a && a < 2 ^ 52 && s.dev.csReady r true then
    if r.write then execRegisterWrite (a - csrBase) (8 * n) (BitVec.ofNat 64 (leNat r.data)) s
    else .next (s.csrRead r.core (a - csrBase) n)
  else onDev (fun d => d.csAccess r) s

end Sys2Proof.Machine
end

