-- ==== Sys2Proof/Machine/ShInt.lean ====
section
/-! DEFINITION. Integer instructions of Shorek (03 R105, Table 3-5). -/

namespace Sys2Proof.Machine

/-- Width in bits of an integer instruction. -/
def intW (e : Enc) : Nat := if e.md.getLsbD 0 then 64 else 32
def intSgn (e : Enc) : Bool := e.md.getLsbD 1

/-- An instruction d = f(a, b) on every participant, with the result cut to W bits. -/
def intBin (e : Enc) (f : Nat → Nat → Nat) (_ : Nat) (p : Plait) : Plait :=
  let w := e.md.getLsbD 0
  p.eachW (p.parts e) e.d.toNat (fun k => splitW w (f (p.rdW w e.a.toNat k) (p.srcB e w k)))

/-- a + b, a - b, the low bits of a product and of a product plus c: modulo 2^W. -/
def iaddF (_ : Enc) (a b : Nat) : Nat := a + b
def isubF (e : Enc) (a b : Nat) : Nat := 2 ^ intW e + a - b
def imulF (_ : Enc) (a b : Nat) : Nat := a * b
/-- The high W bits of the 2W-bit product, signed if SGN. -/
def imulhF (e : Enc) (a b : Nat) : Nat :=
  let w := intW e
  if intSgn e then (((signedOf w a * signedOf w b) % (2 ^ (2 * w) : Nat)).toNat) / 2 ^ w else a * b / 2 ^ w
def andF (_ : Enc) (a b : Nat) : Nat := a &&& b
def orF (_ : Enc) (a b : Nat) : Nat := a ||| b
def xorF (_ : Enc) (a b : Nat) : Nat := a ^^^ b
/-- Shifts; W or more gives zero, or the sign for SAR. -/
def shlF (e : Enc) (a b : Nat) : Nat := if intW e ≤ b then 0 else a <<< b
def shrF (e : Enc) (a b : Nat) : Nat := if intW e ≤ b then 0 else a >>> b
def sarF (e : Enc) (a b : Nat) : Nat :=
  let w := intW e
  ((signedOf w a >>> (min b w)) % (2 ^ w : Nat)).toNat
def iminF (e : Enc) (a b : Nat) : Nat := if intLt (intW e) (intSgn e) b a then b else a
def imaxF (e : Enc) (a b : Nat) : Nat := if intLt (intW e) (intSgn e) a b then b else a

/-- Count of the set bits of the low n bits. -/
def popc (x : Nat) : Nat → Nat
  | 0 => 0
  | n + 1 => x / 2 ^ n % 2 + popc x n
/-- Leading zeros of a number of n bits. -/
def clz (n x : Nat) : Nat := if x = 0 then n else n - 1 - Nat.log2 x
/-- BITOP by FN: POPC and CLZ write one register at either W, BREV the width (03 Table 3-5). -/
def bitopRes (e : Enc) (a : Nat) : List W32 :=
  let w := intW e
  match md e 2 3 with
  | 0 => [BitVec.ofNat 32 (popc a w)]
  | 1 => [BitVec.ofNat 32 (clz w a)]
  | _ => splitW (e.md.getLsbD 0) ((List.range w).foldl (fun r k => 2 * r + a / 2 ^ k % 2) 0)

def imadP (e : Enc) (_ : Nat) (p : Plait) : Plait :=
  let w := e.md.getLsbD 0
  p.eachW (p.parts e) e.d.toNat (fun k => splitW w (p.rdW w e.a.toNat k * p.srcB e w k + p.rdW w e.c.toNat k))

def icmpP (e : Enc) (_ : Nat) (p : Plait) : Plait :=
  let w := e.md.getLsbD 0
  let m := p.parts e
  p.setPred (au e 0 3) m (maskIf m (fun k => intCond (intW e) (intSgn e) (md e 2 3) (p.rdW w e.a.toNat k) (p.srcB e w k)))

def selP (e : Enc) (_ : Nat) (p : Plait) : Plait :=
  let w := e.md.getLsbD 0
  let c := p.predOp e.aux.toNat
  p.eachW (p.parts e) e.d.toNat (fun k => splitW w (if c.getLsbD k then p.rdW w e.a.toNat k else p.srcB e w k))

def bitopP (e : Enc) (_ : Nat) (p : Plait) : Plait :=
  p.eachW (p.parts e) e.d.toNat (fun k => bitopRes e (p.rdW (e.md.getLsbD 0) e.a.toNat k))

def execIadd (r : PlaitRef) (e : Enc) (s : State) := onDev (runReg 0x00 (intBin e (iaddF e)) r e) s
def execIsub (r : PlaitRef) (e : Enc) (s : State) := onDev (runReg 0x01 (intBin e (isubF e)) r e) s
def execImul (r : PlaitRef) (e : Enc) (s : State) := onDev (runReg 0x02 (intBin e (imulF e)) r e) s
def execImulh (r : PlaitRef) (e : Enc) (s : State) := onDev (runReg 0x03 (intBin e (imulhF e)) r e) s
def execImad (r : PlaitRef) (e : Enc) (s : State) := onDev (runReg 0x04 (imadP e) r e) s
def execIand (r : PlaitRef) (e : Enc) (s : State) := onDev (runReg 0x05 (intBin e (andF e)) r e) s
def execIor (r : PlaitRef) (e : Enc) (s : State) := onDev (runReg 0x06 (intBin e (orF e)) r e) s
def execIxor (r : PlaitRef) (e : Enc) (s : State) := onDev (runReg 0x07 (intBin e (xorF e)) r e) s
def execShl (r : PlaitRef) (e : Enc) (s : State) := onDev (runReg 0x08 (intBin e (shlF e)) r e) s
def execShr (r : PlaitRef) (e : Enc) (s : State) := onDev (runReg 0x09 (intBin e (shrF e)) r e) s
def execSar (r : PlaitRef) (e : Enc) (s : State) := onDev (runReg 0x0A (intBin e (sarF e)) r e) s
def execImin (r : PlaitRef) (e : Enc) (s : State) := onDev (runReg 0x0B (intBin e (iminF e)) r e) s
def execImax (r : PlaitRef) (e : Enc) (s : State) := onDev (runReg 0x0C (intBin e (imaxF e)) r e) s
def execIcmp (r : PlaitRef) (e : Enc) (s : State) := onDev (runReg 0x0D (icmpP e) r e) s
def execSel (r : PlaitRef) (e : Enc) (s : State) := onDev (runReg 0x0E (selP e) r e) s
def execBitop (r : PlaitRef) (e : Enc) (s : State) := onDev (runReg 0x0F (bitopP e) r e) s

end Sys2Proof.Machine
end

