-- ==== Sys2Proof/Machine/Dispatch.lean ====
section
/-! DEFINITION. One arm for each command: a direct call of its meaning. -/

namespace Sys2Proof.Machine

/-- The effect of a command on everything but the queue. -/
def exec (i : Instr) (s : State) : Host.Outcome State Fault Refusal :=
  match i with
  | .iadd p e => Sys2Proof.Machine.execIadd p e s
  | .isub p e => Sys2Proof.Machine.execIsub p e s
  | .imul p e => Sys2Proof.Machine.execImul p e s
  | .imulh p e => Sys2Proof.Machine.execImulh p e s
  | .imad p e => Sys2Proof.Machine.execImad p e s
  | .iand p e => Sys2Proof.Machine.execIand p e s
  | .ior p e => Sys2Proof.Machine.execIor p e s
  | .ixor p e => Sys2Proof.Machine.execIxor p e s
  | .shl p e => Sys2Proof.Machine.execShl p e s
  | .shr p e => Sys2Proof.Machine.execShr p e s
  | .sar p e => Sys2Proof.Machine.execSar p e s
  | .imin p e => Sys2Proof.Machine.execImin p e s
  | .imax p e => Sys2Proof.Machine.execImax p e s
  | .icmp p e => Sys2Proof.Machine.execIcmp p e s
  | .sel p e => Sys2Proof.Machine.execSel p e s
  | .bitop p e => Sys2Proof.Machine.execBitop p e s
  | .fadd p e => Sys2Proof.Machine.execFadd p e s
  | .fsub p e => Sys2Proof.Machine.execFsub p e s
  | .fmul p e => Sys2Proof.Machine.execFmul p e s
  | .ffma p e => Sys2Proof.Machine.execFfma p e s
  | .fmin p e => Sys2Proof.Machine.execFmin p e s
  | .fmax p e => Sys2Proof.Machine.execFmax p e s
  | .fcmp p e => Sys2Proof.Machine.execFcmp p e s
  | .fabsneg p e => Sys2Proof.Machine.execFabsneg p e s
  | .frcp p e => Sys2Proof.Machine.execFrcp p e s
  | .fsqrt p e => Sys2Proof.Machine.execFsqrt p e s
  | .fexp2 p e => Sys2Proof.Machine.execFexp2 p e s
  | .flog2 p e => Sys2Proof.Machine.execFlog2 p e s
  | .fsin p e => Sys2Proof.Machine.execFsin p e s
  | .fcos p e => Sys2Proof.Machine.execFcos p e s
  | .cvt p e => Sys2Proof.Machine.execCvt p e s
  | .cvti p e => Sys2Proof.Machine.execCvti p e s
  | .rng p e => Sys2Proof.Machine.execRng p e s
  | .plut p e => Sys2Proof.Machine.execPlut p e s
  | .p2r p e => Sys2Proof.Machine.execP2r p e s
  | .ld p e => Sys2Proof.Machine.execLd p e s
  | .st p e => Sys2Proof.Machine.execSt p e s
  | .atom p e => Sys2Proof.Machine.execAtom p e s
  | .shfl p e => Sys2Proof.Machine.execShfl p e s
  | .vote p e => Sys2Proof.Machine.execVote p e s
  | .redux p e => Sys2Proof.Machine.execRedux p e s
  | .mxi p e => Sys2Proof.Machine.execMxi p e s
  | .mxg p e => Sys2Proof.Machine.execMxg p e s
  | .mxw p e => Sys2Proof.Machine.execMxw p e s
  | .mxr p e => Sys2Proof.Machine.execMxr p e s
  | .eci p e => Sys2Proof.Machine.execEci p e s
  | .cpy p e => Sys2Proof.Machine.execCpy p e s
  | .bar p e => Sys2Proof.Machine.execBar p e s
  | .mbar p e => Sys2Proof.Machine.execMbar p e s
  | .wait p e => Sys2Proof.Machine.execWait p e s
  | .rgnEnter p e => Sys2Proof.Machine.execRgnEnter p e s
  | .rgnExit p e => Sys2Proof.Machine.execRgnExit p e s
  | .bra p e => Sys2Proof.Machine.execBra p e s
  | .brx p e => Sys2Proof.Machine.execBrx p e s
  | .call p e => Sys2Proof.Machine.execCall p e s
  | .exit p e => Sys2Proof.Machine.execExit p e s
  | .szt p e => Sys2Proof.Machine.execSzt p e s
  | .id p e => Sys2Proof.Machine.execId p e s
  | .rnd p e => Sys2Proof.Machine.execRnd p e s
  | .nop p e => Sys2Proof.Machine.execNop p e s
  | .alloc p e => Sys2Proof.Machine.execAlloc p e s
  | .allocatorAnswer p => Sys2Proof.Machine.execAllocatorAnswer p s
  | .free p e => Sys2Proof.Machine.execFree p e s
  | .clusterStopIssue c => Sys2Proof.Machine.execClusterStopIssue c s
  | .workGroupStart q xi tile cluster => Sys2Proof.Machine.execWorkGroupStart q xi tile cluster s
  | .plaitRetire p => Sys2Proof.Machine.execPlaitRetire p s
  | .plaitStateSave tile cluster => Sys2Proof.Machine.execPlaitStateSave tile cluster s
  | .plaitStateRestore tile cluster => Sys2Proof.Machine.execPlaitStateRestore tile cluster s
  | .cpyComplete p token => Sys2Proof.Machine.execCpyComplete p token s
  | .matmul a => Sys2Proof.Machine.execMatmul a s
  | .loadw a => Sys2Proof.Machine.execLoadw a s
  | .drain a => Sys2Proof.Machine.execDrain a s
  | .mxaWeightLoadStart a => Sys2Proof.Machine.execMxaWeightLoadStart a s
  | .mxaWeightLoadEnd a => Sys2Proof.Machine.execMxaWeightLoadEnd a s
  | .mxaStreamStart a => Sys2Proof.Machine.execMxaStreamStart a s
  | .mxaStreamEnd a => Sys2Proof.Machine.execMxaStreamEnd a s
  | .mxaLastResult a => Sys2Proof.Machine.execMxaLastResult a s
  | .mxaDrainPassStart a => Sys2Proof.Machine.execMxaDrainPassStart a s
  | .mxaDrainPassEnd a => Sys2Proof.Machine.execMxaDrainPassEnd a s
  | .mxaFragmentReadStart a => Sys2Proof.Machine.execMxaFragmentReadStart a s
  | .mxaOpComplete a => Sys2Proof.Machine.execMxaOpComplete a s
  | .mxaPackingStop a => Sys2Proof.Machine.execMxaPackingStop a s
  | .shadowCompare a => Sys2Proof.Machine.execShadowCompare a s
  | .chainStart u => Sys2Proof.Machine.execChainStart u s
  | .chainChannelsLoaded u => Sys2Proof.Machine.execChainChannelsLoaded u s
  | .chainStepsEnd u => Sys2Proof.Machine.execChainStepsEnd u s
  | .chainOutputPassEnd u => Sys2Proof.Machine.execChainOutputPassEnd u s
  | .chainComplete u => Sys2Proof.Machine.execChainComplete u s
  | .fusedDrainPassStart u => Sys2Proof.Machine.execFusedDrainPassStart u s
  | .fusedDrainPassEnd u => Sys2Proof.Machine.execFusedDrainPassEnd u s
  | .chMov u => Sys2Proof.Machine.execChMov u s
  | .chAdd u => Sys2Proof.Machine.execChAdd u s
  | .chSub u => Sys2Proof.Machine.execChSub u s
  | .chMul u => Sys2Proof.Machine.execChMul u s
  | .chFma u => Sys2Proof.Machine.execChFma u s
  | .chMin u => Sys2Proof.Machine.execChMin u s
  | .chMax u => Sys2Proof.Machine.execChMax u s
  | .chAbsneg u => Sys2Proof.Machine.execChAbsneg u s
  | .chRcp u => Sys2Proof.Machine.execChRcp u s
  | .chSqrt u => Sys2Proof.Machine.execChSqrt u s
  | .chRsq u => Sys2Proof.Machine.execChRsq u s
  | .chExp2 u => Sys2Proof.Machine.execChExp2 u s
  | .chLog2 u => Sys2Proof.Machine.execChLog2 u s
  | .chSin u => Sys2Proof.Machine.execChSin u s
  | .chCos u => Sys2Proof.Machine.execChCos u s
  | .chTanh u => Sys2Proof.Machine.execChTanh u s
  | .chCmp u => Sys2Proof.Machine.execChCmp u s
  | .chSel u => Sys2Proof.Machine.execChSel u s
  | .chCvt u => Sys2Proof.Machine.execChCvt u s
  | .chRint u => Sys2Proof.Machine.execChRint u s
  | .chRng u => Sys2Proof.Machine.execChRng u s
  | .chDrop u => Sys2Proof.Machine.execChDrop u s
  | .chPerm u => Sys2Proof.Machine.execChPerm u s
  | .ctxCreate port hi => Sys2Proof.Machine.execCtxCreate port hi s
  | .ctxDestroy port hi => Sys2Proof.Machine.execCtxDestroy port hi s
  | .ctxTeardownComplete c => Sys2Proof.Machine.execCtxTeardownComplete c s
  | .qCreate port hi => Sys2Proof.Machine.execQCreate port hi s
  | .qDestroy port hi => Sys2Proof.Machine.execQDestroy port hi s
  | .qReserve port hi => Sys2Proof.Machine.execQReserve port hi s
  | .qCommit port hi => Sys2Proof.Machine.execQCommit port hi s
  | .qResume port hi => Sys2Proof.Machine.execQResume port hi s
  | .moCreate port hi => Sys2Proof.Machine.execMoCreate port hi s
  | .moRetain port hi => Sys2Proof.Machine.execMoRetain port hi s
  | .moRelease port hi => Sys2Proof.Machine.execMoRelease port hi s
  | .moMap port hi => Sys2Proof.Machine.execMoMap port hi s
  | .moUnmap port hi => Sys2Proof.Machine.execMoUnmap port hi s
  | .moQuery port hi => Sys2Proof.Machine.execMoQuery port hi s
  | .fCreate port hi => Sys2Proof.Machine.execFCreate port hi s
  | .fDestroy port hi => Sys2Proof.Machine.execFDestroy port hi s
  | .fExport port hi => Sys2Proof.Machine.execFExport port hi s
  | .fSignal port hi => Sys2Proof.Machine.execFSignal port hi s
  | .fQuery port hi => Sys2Proof.Machine.execFQuery port hi s
  | .abort port hi => Sys2Proof.Machine.execAbort port hi s
  | .ack c v => Sys2Proof.Machine.execAck c v s
  | .launch q xi => Sys2Proof.Machine.execLaunch q xi s
  | .update q xi => Sys2Proof.Machine.execUpdate q xi s
  | .copy q xi => Sys2Proof.Machine.execCopy q xi s
  | .coll q xi => Sys2Proof.Machine.execColl q xi s
  | .sync q xi => Sys2Proof.Machine.execSync q xi s
  | .cmdLeaveQueued q xi => Sys2Proof.Machine.execCmdLeaveQueued q xi s
  | .cmdWaitSatisfied q xi => Sys2Proof.Machine.execCmdWaitSatisfied q xi s
  | .cmdDispatch q xi => Sys2Proof.Machine.execCmdDispatch q xi s
  | .updateComplete q xi => Sys2Proof.Machine.execUpdateComplete q xi s
  | .roundTick p => Sys2Proof.Machine.execRoundTick p s
  | .roundMonitorCheck p => Sys2Proof.Machine.execRoundMonitorCheck p s
  | .stretchApply p => Sys2Proof.Machine.execStretchApply p s
  | .overlayRequest v => Sys2Proof.Machine.execOverlayRequest v s
  | .partitionDissolve p => Sys2Proof.Machine.execPartitionDissolve p s
  | .partitionForm => Sys2Proof.Machine.execPartitionForm s
  | .migrationStart p => Sys2Proof.Machine.execMigrationStart p s
  | .migrationComplete p => Sys2Proof.Machine.execMigrationComplete p s
  | .pageOutStart p => Sys2Proof.Machine.execPageOutStart p s
  | .memReqRetry tag => Sys2Proof.Machine.execMemReqRetry tag s
  | .scrubPass tile sc errs => Sys2Proof.Machine.execScrubPass tile sc errs s
  | .rowRepairComplete tile sc xi => Sys2Proof.Machine.execRowRepairComplete tile sc xi s
  | .dramBandEval tile sc tempC => Sys2Proof.Machine.execDramBandEval tile sc tempC s
  | .retrainWindowEnd tile sc => Sys2Proof.Machine.execRetrainWindowEnd tile sc s
  | .steeringWritebackDone tile sc => Sys2Proof.Machine.execSteeringWritebackDone tile sc s
  | .farArm p j v => Sys2Proof.Machine.execFarArm p j v s
  | .farDrain p j v => Sys2Proof.Machine.execFarDrain p j v s
  | .lendArm p j v => Sys2Proof.Machine.execLendArm p j v s
  | .lendRelease p j v => Sys2Proof.Machine.execLendRelease p j v s
  | .mempProbe p v => Sys2Proof.Machine.execMempProbe p v s
  | .registerWrite off width v => Sys2Proof.Machine.execRegisterWrite off width v s
  | .frameRx port frame uncorr => Sys2Proof.Machine.execFrameRx port frame uncorr s
  | .hello port k => Sys2Proof.Machine.execHello port k s
  | .linkState port k => Sys2Proof.Machine.execLinkState port k s
  | .stretch port k => Sys2Proof.Machine.execStretch port k s
  | .probe port k => Sys2Proof.Machine.execProbe port k s
  | .probeAck port k => Sys2Proof.Machine.execProbeAck port k s
  | .laneChange port k => Sys2Proof.Machine.execLaneChange port k s
  | .mgmt port k => Sys2Proof.Machine.execMgmt port k s
  | .readReq port k => Sys2Proof.Machine.execReadReq port k s
  | .readResp port k => Sys2Proof.Machine.execReadResp port k s
  | .writeReq port k => Sys2Proof.Machine.execWriteReq port k s
  | .writeAck port k => Sys2Proof.Machine.execWriteAck port k s
  | .lendReq port k => Sys2Proof.Machine.execLendReq port k s
  | .lendAck port k => Sys2Proof.Machine.execLendAck port k s
  | .join port k => Sys2Proof.Machine.execJoin port k s
  | .chunk port k => Sys2Proof.Machine.execChunk port k s
  | .chunkAck port k => Sys2Proof.Machine.execChunkAck port k s
  | .done port k => Sys2Proof.Machine.execDone port k s
  | .withdraw port k => Sys2Proof.Machine.execWithdraw port k s
  | .whello port k => Sys2Proof.Machine.execWhello port k s
  | .snapReq port k => Sys2Proof.Machine.execSnapReq port k s
  | .snapAt port k => Sys2Proof.Machine.execSnapAt port k s
  | .snapLate port k => Sys2Proof.Machine.execSnapLate port k s
  | .snapDrainStart p => Sys2Proof.Machine.execSnapDrainStart p s
  | .ship port k => Sys2Proof.Machine.execShip port k s
  | .shipAck port k => Sys2Proof.Machine.execShipAck port k s
  | .snapDone port k => Sys2Proof.Machine.execSnapDone port k s
  | .snapCommit port k => Sys2Proof.Machine.execSnapCommit port k s
  | .snapAbort port k => Sys2Proof.Machine.execSnapAbort port k s
  | .logData port k => Sys2Proof.Machine.execLogData port k s
  | .logAck port k => Sys2Proof.Machine.execLogAck port k s
  | .logFetch port k => Sys2Proof.Machine.execLogFetch port k s
  | .rebuildPart port k => Sys2Proof.Machine.execRebuildPart port k s
  | .journal port k => Sys2Proof.Machine.execJournal port k s
  | .helloTimer port => Sys2Proof.Machine.execHelloTimer port s
  | .linkStateTimer => Sys2Proof.Machine.execLinkStateTimer s
  | .routeRecompute => Sys2Proof.Machine.execRouteRecompute s
  | .probeTimer => Sys2Proof.Machine.execProbeTimer s
  | .probeTimeout m => Sys2Proof.Machine.execProbeTimeout m s
  | .collChunkTimeout g => Sys2Proof.Machine.execCollChunkTimeout g s
  | .collJoinTimeout g => Sys2Proof.Machine.execCollJoinTimeout g s
  | .laneLockLoss port lane => Sys2Proof.Machine.execLaneLockLoss port lane s
  | .laneThreshCheck port counts => Sys2Proof.Machine.execLaneThreshCheck port counts s
  | .retrain port v => Sys2Proof.Machine.execRetrain port v s
  | .laneRetrainDone port lane => Sys2Proof.Machine.execLaneRetrainDone port lane s
  | .portEnable port v => Sys2Proof.Machine.execPortEnable port v s
  | .portTrained port lanes => Sys2Proof.Machine.execPortTrained port lanes s
  | .portTrainTimeout port => Sys2Proof.Machine.execPortTrainTimeout port s
  | .controlWordTimeout port => Sys2Proof.Machine.execControlWordTimeout port s
  | .portDownRetry port => Sys2Proof.Machine.execPortDownRetry port s
  | .fabricTimeLock => Sys2Proof.Machine.execFabricTimeLock s
  | .fabricCtrlWrite v => Sys2Proof.Machine.execFabricCtrlWrite v s
  | .groupArm g v => Sys2Proof.Machine.execGroupArm g v s
  | .groupRelease g v => Sys2Proof.Machine.execGroupRelease g v s
  | .rejoin v => Sys2Proof.Machine.execRejoin v s
  | .riskEstimate counts => Sys2Proof.Machine.execRiskEstimate counts s
  | .walingArm p v => Sys2Proof.Machine.execWalingArm p v s
  | .walingRelease p v => Sys2Proof.Machine.execWalingRelease p v s
  | .subst p v => Sys2Proof.Machine.execSubst p v s
  | .rebuildGo p v => Sys2Proof.Machine.execRebuildGo p v s
  | .rebuildReplay p => Sys2Proof.Machine.execRebuildReplay p s
  | .joined p v => Sys2Proof.Machine.execJoined p v s
  | .swap tile v => Sys2Proof.Machine.execSwap tile v s
  | .ptcInterval m => Sys2Proof.Machine.execPtcInterval m s
  | .droopDetect tile cluster mv => Sys2Proof.Machine.execDroopDetect tile cluster mv s
  | .droopRelax tile cluster => Sys2Proof.Machine.execDroopRelax tile cluster s
  | .criticalShutdown onTile tempC => Sys2Proof.Machine.execCriticalShutdown onTile tempC s
  | .inputUndervoltage mv us => Sys2Proof.Machine.execInputUndervoltage mv us s
  | .inputOvervoltage mv us => Sys2Proof.Machine.execInputOvervoltage mv us s
  | .ibcFail ibc => Sys2Proof.Machine.execIbcFail ibc s
  | .capWWrite v => Sys2Proof.Machine.execCapWWrite v s
  | .psTargetPs0 v => Sys2Proof.Machine.execPsTargetPs0 v s
  | .psTargetPs1 v => Sys2Proof.Machine.execPsTargetPs1 v s
  | .psTargetPs2 v => Sys2Proof.Machine.execPsTargetPs2 v s
  | .psTargetPs3 v => Sys2Proof.Machine.execPsTargetPs3 v s
  | .psEntryComplete => Sys2Proof.Machine.execPsEntryComplete s
  | .ps3Wake addr => Sys2Proof.Machine.execPs3Wake addr s
  | .powerUp => Sys2Proof.Machine.execPowerUp s
  | .inPgDeassert => Sys2Proof.Machine.execInPgDeassert s
  | .sysRstNLow ns => Sys2Proof.Machine.execSysRstNLow ns s
  | .rstcCtrlSysrst v => Sys2Proof.Machine.execRstcCtrlSysrst v s
  | .rstcCtrlCorerst v => Sys2Proof.Machine.execRstcCtrlCorerst v s
  | .secWatchdogExpire => Sys2Proof.Machine.execSecWatchdogExpire s
  | .narbyWatchdogExpire => Sys2Proof.Machine.execNarbyWatchdogExpire s
  | .kick v => Sys2Proof.Machine.execKick v s
  | .pllLockLost pll => Sys2Proof.Machine.execPllLockLost pll s
  | .blockHoldWrite v => Sys2Proof.Machine.execBlockHoldWrite v s
  | .blockRelease blk => Sys2Proof.Machine.execBlockRelease blk s
  | .fuseMapApply => Sys2Proof.Machine.execFuseMapApply s
  | .optionBytesRead => Sys2Proof.Machine.execOptionBytesRead s
  | .bootRomStart => Sys2Proof.Machine.execBootRomStart s
  | .recoveryRetry => Sys2Proof.Machine.execRecoveryRetry s
  | .hoopPhyPower => Sys2Proof.Machine.execHoopPhyPower s
  | .hoopIdleRelease => Sys2Proof.Machine.execHoopIdleRelease s
  | .pciePerstRelease => Sys2Proof.Machine.execPciePerstRelease s
  | .dramTrainingDone fails => Sys2Proof.Machine.execDramTrainingDone fails s
  | .selfTestDone fails => Sys2Proof.Machine.execSelfTestDone fails s
  | .statusProbe probe => Sys2Proof.Machine.execStatusProbe probe s
  | .loadComponent v => Sys2Proof.Machine.execLoadComponent v s
  | .commitSvn v => Sys2Proof.Machine.execCommitSvn v s
  | .otpWrite v => Sys2Proof.Machine.execOtpWrite v s
  | .keyInstall v => Sys2Proof.Machine.execKeyInstall v s
  | .keyRevoke v => Sys2Proof.Machine.execKeyRevoke v s
  | .flashImage v => Sys2Proof.Machine.execFlashImage v s
  | .handover v => Sys2Proof.Machine.execHandover v s
  | .handoverTimeout => Sys2Proof.Machine.execHandoverTimeout s
  | .secmNonceRead => Sys2Proof.Machine.execSecmNonceRead s
  | .getVersion path req => Sys2Proof.Machine.execGetVersion path req s
  | .getCapabilities path req => Sys2Proof.Machine.execGetCapabilities path req s
  | .negotiateAlgorithms path req => Sys2Proof.Machine.execNegotiateAlgorithms path req s
  | .getDigests path req => Sys2Proof.Machine.execGetDigests path req s
  | .getCertificate path req => Sys2Proof.Machine.execGetCertificate path req s
  | .challenge path req => Sys2Proof.Machine.execChallenge path req s
  | .getMeasurements path req => Sys2Proof.Machine.execGetMeasurements path req s
  | .mgmtFrameRx fr => Sys2Proof.Machine.execMgmtFrameRx fr s
  | .mctpPacket pkt => Sys2Proof.Machine.execMctpPacket pkt s
  | .pollForPlatformEventMessage req => Sys2Proof.Machine.execPollForPlatformEventMessage req s
  | .pcieInboundRequest r => Sys2Proof.Machine.execPcieInboundRequest r s
  | .pcieLinkDown => Sys2Proof.Machine.execPcieLinkDown s
  | .debugUnlock token => Sys2Proof.Machine.execDebugUnlock token s
  | .debugResetRequest core => Sys2Proof.Machine.execDebugResetRequest core s
  | .regToPred p e => Sys2Proof.Machine.execRegToPred p e s
  | .undefinedEncoding p op e => Sys2Proof.Machine.execUndefinedEncoding p op e s
  | .copyComplete q xi => Sys2Proof.Machine.execCopyComplete q xi s
  | .controlSoftwareAccess r => Sys2Proof.Machine.execControlSoftwareAccess r s
  | .sysRstNRelease => Sys2Proof.Machine.execSysRstNRelease s
  | .psExitComplete => Sys2Proof.Machine.execPsExitComplete s
  | .pcieLinkUp width speed => Sys2Proof.Machine.execPcieLinkUp width speed s
  | .mgmtLinkChange up => Sys2Proof.Machine.execMgmtLinkChange up s
  | .narbyOsRunning => Sys2Proof.Machine.execNarbyOsRunning s
  | .mxaInitLoadEnd a => Sys2Proof.Machine.execMxaInitLoadEnd a s
  | .unlockCapture => Sys2Proof.Machine.execUnlockCapture s
  | .debugCoreHalt core halt => Sys2Proof.Machine.execDebugCoreHalt core halt s

end Sys2Proof.Machine
end

