-- ==== Sys2Proof/Safety.lean ====
section
/-! DEFINITION. The words in which statements speak: a command that answers a next state, a plait that can issue an
instruction, what an instruction leaves unchanged, memories in canonical form, tables with rising indices. -/

namespace Sys2Proof.Safety

open Sys2Proof.Machine

/-- The command answers a next state, and P holds of it. -/
def Runs (c : Instr) (s : State) (P : State → Prop) : Prop := ∃ t, exec c s = .next t ∧ P t

/-- Plait p stands at r and issues this instruction: it is ready, its words can be fetched, the encoding is legal, no source register of a
participant holds an uncorrectable error, and its cluster is not in the cycle of a fault (02 R48, R78, R82, R90, R91; 03 R95, R122; 08 R292). -/
def Issuing (op : Nat) (r : PlaitRef) (e : Enc) (s : State) (p : Plait) : Prop :=
  s.dev.plaits.get? (pkey r) = some p ∧ s.dev.ready (pkey r) p op e = true ∧ s.dev.fetchCause p e = none ∧ encOk op e p.alloc = true
  ∧ p.badReads op e = 0 ∧ s.dev.stopOf (pkey r) p = none

/-- Nothing changes but plait r, the register cache, the slice-cycle counters of tiles and the energy counts (02 R65, 06 Table 6-11, 13 R445). -/
def PlaitOnly (r : PlaitRef) (s t : State) : Prop :=
  t = { s with dev := { s.dev with plaits := t.dev.plaits, rcache := t.dev.rcache, tiles := t.dev.tiles, energy := t.dev.energy } }
  ∧ (∀ n, t.dev.tile n = { s.dev.tile n with ve := { (s.dev.tile n).ve with plait := (t.dev.tile n).ve.plait } })
  ∧ (∀ k, k % 16 ≠ 6 → k % 16 ≠ 7 → t.dev.energy.get? k = s.dev.energy.get? k)
  ∧ ∀ k, k ≠ pkey r → t.dev.plaits.get? k = s.dev.plaits.get? k

/-- After the command, plait r is one of which P holds. -/
def PlaitThen (r : PlaitRef) (t : State) (P : Plait → Prop) : Prop := ∃ p', t.dev.plaits.get? (pkey r) = some p' ∧ P p'

/-- The plait goes on with the next instruction where no join point stands there (02 R52 to R55). -/
def GoesOn (e : Enc) (p p' : Plait) : Prop :=
  (∀ top ∈ p.stack.head?, p.pc + insLen e ≠ top.join) → p'.pc = p.pc + insLen e ∧ p'.active = p.active ∧ p'.stack = p.stack

/-- For the strands k of m, registers d to d + n - 1 receive the words of `val k`; 255 discards; every other register and
all else but the program counter and the mask stack stay (02 R62, 03 R96). -/
def Writes (e : Enc) (p p' : Plait) (m : W32) (d n : Nat) (val : Nat → List W32) : Prop :=
  p' = { p with regs := p'.regs, bad := p'.bad, pc := p'.pc, active := p'.active, stack := p'.stack, stall := .none } ∧ (∀ b ∈ p'.bad, b ∈ p.bad)
  ∧ GoesOn e p p'
  ∧ (∀ k < 32, m.getLsbD k = true → d ≠ 255 → ∀ j < n, p'.rd (d + j) k = (val k).getD j 0)
  ∧ ∀ k < 32, ∀ x < 255, ¬(m.getLsbD k = true ∧ d ≤ x ∧ x < d + n) → p'.rd x k = p.rd x k

/-- For the strands k of m, predicate n becomes `val k`; every other predicate bit and all else but the program counter
and the mask stack stay (03 R96, R97). -/
def SetsPred (e : Enc) (p p' : Plait) (m : W32) (n : Nat) (val : Nat → Bool) : Prop :=
  p' = { p with preds := p'.preds, pc := p'.pc, active := p'.active, stack := p'.stack, stall := .none }
  ∧ GoesOn e p p'
  ∧ (∀ k < 32, (p'.pred n).getLsbD k = if m.getLsbD k then val k else (p.pred n).getLsbD k)
  ∧ ∀ x, x ≠ n → p'.pred x = p.pred x

/-- The registers of a value: low word, high word. -/
def regWords {w : Nat} (x : BitVec w) : List W32 := [x.setWidth 32, (x >>> 32).setWidth 32]

/-- Source B of the integer class: the immediate or a register group (03 R102). -/
def srcB32 (p : Plait) (e : Enc) (k : Nat) : W32 := if e.md.getLsbD 7 then e.ext.setWidth 32 else p.rd e.b.toNat k
def srcB64 (p : Plait) (e : Enc) (k : Nat) : W64 := if e.md.getLsbD 7 then e.ext else p.rd64 e.b.toNat k

/-- A row of an instruction class: its opcode, its command and its result as a function of the encoding and the sources. -/
structure IntRow where
  op : Nat
  cmd : PlaitRef → Enc → Instr
  res : Enc → (w : Nat) → BitVec w → BitVec w → BitVec w → BitVec w

/-- The integer instructions whose result has W bits (03 Table 3-5): results modulo 2^W, the high half of the product, shifts
that give zero or the sign at W and above, minima and maxima by SGN. -/
def intRows : List IntRow :=
  [⟨0x00, .iadd, fun _ _ a b _ => a + b⟩, ⟨0x01, .isub, fun _ _ a b _ => a - b⟩, ⟨0x02, .imul, fun _ _ a b _ => a * b⟩,
   ⟨0x03, .imulh, fun e w a b _ =>
      if e.md.getLsbD 1 then (a.signExtend (2 * w) * b.signExtend (2 * w)).extractLsb' w w
      else (a.setWidth (2 * w) * b.setWidth (2 * w)).extractLsb' w w⟩,
   ⟨0x04, .imad, fun _ _ a b c => a * b + c⟩, ⟨0x05, .iand, fun _ _ a b _ => a &&& b⟩, ⟨0x06, .ior, fun _ _ a b _ => a ||| b⟩,
   ⟨0x07, .ixor, fun _ _ a b _ => a ^^^ b⟩, ⟨0x08, .shl, fun _ _ a b _ => a <<< b.toNat⟩, ⟨0x09, .shr, fun _ _ a b _ => a >>> b.toNat⟩,
   ⟨0x0A, .sar, fun _ _ a b _ => a.sshiftRight b.toNat⟩,
   ⟨0x0B, .imin, fun e _ a b _ => if (if e.md.getLsbD 1 then b.slt a else b.ult a) then b else a⟩,
   ⟨0x0C, .imax, fun e _ a b _ => if (if e.md.getLsbD 1 then a.slt b else a.ult b) then b else a⟩]

/-- The condition of ICMP (03 R105) on operands of w bits. -/
def cmpSpec (sg : Bool) (c : Nat) {w : Nat} (a b : BitVec w) : Bool :=
  let lt (x y : BitVec w) : Bool := if sg then x.slt y else x.ult y
  match c with
  | 0 => a == b
  | 1 => a != b
  | 2 => lt a b
  | 3 => !lt b a
  | 4 => lt b a
  | _ => !lt a b

/-- A row of the floating class: its result in a format, from the three sources. -/
structure FloatRow where
  op : Nat
  cmd : PlaitRef → Enc → Instr
  res : Enc → Fmt → Nat → Nat → Nat → Nat

/-- The floating instructions of 03 Table 3-6 that work in FP32 or on packed halves. -/
def floatRows : List FloatRow :=
  [⟨0x10, .fadd, fun e f a b _ => faddB f (fRnd e) a b⟩, ⟨0x11, .fsub, fun e f a b _ => fsubB f (fRnd e) a b⟩,
   ⟨0x12, .fmul, fun e f a b _ => fmulB f (fRnd e) a b⟩, ⟨0x13, .ffma, fun e f a b c => ffmaB f (fRnd e) a b c⟩,
   ⟨0x14, .fmin, fun _ f a b _ => fminB f a b⟩, ⟨0x15, .fmax, fun _ f a b _ => fmaxB f a b⟩]

/-- The FP32 functions of one source (03 R109). -/
def unaryRows : List (Nat × (PlaitRef → Enc → Instr) × (W32 → W32)) :=
  [(0x18, .frcp, frcpB), (0x19, .fsqrt, fsqrtB), (0x1A, .fexp2, fexp2B), (0x1B, .flog2, flog2B), (0x1C, .fsin, fsinB), (0x1D, .fcos, fcosB)]

/-- The value that a memory of bytes and a table hold nowhere twice: rising indices. -/
def Rising {α : Type} : Tbl α → Prop
  | [] => True
  | (k, _) :: t => (∀ x ∈ t, k < x.1) ∧ Rising t

/-- The banks and buffers of an array in canonical form. -/
def CanonicalArray (a : MArray) : Prop := a.wb0.wf = true ∧ a.wb1.wf = true ∧ a.ab0.wf = true ∧ a.ab1.wf = true

/-- The byte memories of the device in canonical form: DRAM, flash, cluster local memory, array storage, saved states. -/
def CanonicalMem (d : Dev) : Prop :=
  d.mem.bytes.wf = true ∧ d.flash.wf = true ∧ (∀ kv ∈ d.clusters, kv.2.clm.wf = true) ∧ (∀ kv ∈ d.arrays, CanonicalArray kv.2)
  ∧ ∀ z ∈ d.saved, z.clm.wf = true ∧ ∀ kv ∈ z.arrays, CanonicalArray kv.2

/-- An event of matrix arrays: its command, the condition on an operation, the phase it moves and where to, the kinds it acts on; what it
reads of the window, and whether a word it reads of a bank or buffer holds an uncorrectable error. -/
structure PhaseRow where
  cmd : ArrayRef → Instr
  can : List AOp → AOp → Bool
  phase : AOp → Ph
  tgt : Ph
  kind : AKind → Bool
  clm : AOp → List (Nat × Nat)
  words : MArray → AOp → Bool

/-- The events of 04 Table 4-4 that move one phase, but for the initial load and drain passes. -/
def phaseRows : List PhaseRow :=
  [⟨.mxaWeightLoadStart, canWload, AOp.wload, .run, fun _ => true, fun _ => [], fun _ _ => false⟩, ⟨.mxaWeightLoadEnd, canWend, AOp.wload, .done, fun _ => true, AOp.weightReads, fun _ _ => false⟩,
   ⟨.mxaStreamStart, canStream, AOp.stream, .run, fun _ => true, fun _ => [], fun _ _ => false⟩,
   ⟨.mxaStreamEnd, canStreamEnd, AOp.stream, .done, fun _ => true, fun o => streamReads o.desc, fun a o => badWord a.badW (o.ctrl 5 1) o.bankRanges⟩,
   ⟨.mxaLastResult, canResult, AOp.result, .done, fun _ => true, fun _ => [], fun a o => dInit o.desc != 0 && badWord a.badA (o.ctrl 7 1) o.bufRanges⟩,
   ⟨.mxaDrainPassStart, canDrain, AOp.drain, .run, fun _ => true, fun _ => [], fun _ _ => false⟩,
   ⟨.mxaFragmentReadStart, canRead, AOp.read, .done, fun k => match k with | .mxr _ _ _ => true | _ => false, fun _ => [],
     fun a o => match o.kind with | .mxr f _ _ => badWord a.badA (f / 32) [(512 * (f % 32), 512)] | _ => false⟩]

/-- Neither the local memory of array k's cluster nor the array's banks and buffers hold an uncorrectable error. -/
def NoErrors (s : State) (k : Nat) : Prop := (s.dev.cluster (k / 4)).badClm = [] ∧ (s.dev.array k).badW = [] ∧ (s.dev.array k).badA = []

/-- The first fault of an operation's context is an uncorrectable error, recorded with the program counter, instruction and strands of the
instruction that issued it (02 R90 to R92, 04 R139, 06 R237). -/
def OpFaulted (s t : State) (ck : Nat) (b : Issuer) (addr : Nat) : Prop :=
  ∀ x, s.dev.obj.ctxs.get? b.ctx = some x → x.fault = none → ∃ x', t.dev.obj.ctxs.get? b.ctx = some x' ∧ (x.st = .active → x'.st = .lost)
    ∧ x'.fault = some ⟨0x30, false, ckTile ck, ck % 40, b.pk / 16 % 4, b.pk % 16, b.pc, b.mask, BitVec.ofNat 64 addr, b.ins, b.ext, s.dev.clk.now, 0⟩

/-- The operations that are whole commands of an array (04 R149). -/
def wholeRows : List ((ArrayRef → Instr) × AKind) := [(.matmul, .matmul), (.loadw, .loadw), (.drain, .drain)]

/-- A chain instruction: its opcode, its command, its result from function field, rounding mode, generator word and operands. -/
structure ChainRow where
  op : Nat
  cmd : SliceRef → Instr
  res : Nat → Rnd → W32 → W32 → W32 → W32 → W32

/-- The chain instructions but PERM (06 Table 6-5). -/
def chainRows : List ChainRow :=
  [⟨0x00, .chMov, fun _ _ _ a _ _ => a⟩, ⟨0x01, .chAdd, fun _ m _ a b _ => BitVec.ofNat 32 (faddB fp32 m a.toNat b.toNat)⟩,
   ⟨0x02, .chSub, fun _ m _ a b _ => BitVec.ofNat 32 (fsubB fp32 m a.toNat b.toNat)⟩,
   ⟨0x03, .chMul, fun _ m _ a b _ => BitVec.ofNat 32 (fmulB fp32 m a.toNat b.toNat)⟩,
   ⟨0x04, .chFma, fun _ m _ a b c => BitVec.ofNat 32 (ffmaB fp32 m a.toNat b.toNat c.toNat)⟩,
   ⟨0x05, .chMin, fun _ _ _ a b _ => fmin32 a b⟩, ⟨0x06, .chMax, fun _ _ _ a b _ => fmax32 a b⟩,
   ⟨0x07, .chAbsneg, fun fn _ _ a _ _ =>
      let x := if fn % 2 = 1 then a &&& 0x7FFFFFFF else a
      if fn / 2 % 2 = 1 then x ^^^ 0x80000000 else x⟩,
   ⟨0x08, .chRcp, fun _ _ _ a _ _ => frcpB a⟩, ⟨0x09, .chSqrt, fun _ _ _ a _ _ => fsqrtB a⟩, ⟨0x0A, .chRsq, fun _ _ _ a _ _ => rsqB a⟩,
   ⟨0x0B, .chExp2, fun _ _ _ a _ _ => fexp2B a⟩, ⟨0x0C, .chLog2, fun _ _ _ a _ _ => flog2B a⟩, ⟨0x0D, .chSin, fun _ _ _ a _ _ => fsinB a⟩,
   ⟨0x0E, .chCos, fun _ _ _ a _ _ => fcosB a⟩, ⟨0x0F, .chTanh, fun _ _ _ a _ _ => tanhB a⟩,
   ⟨0x10, .chCmp, fun fn _ _ a b _ => if fcmpB fp32 fn a.toNat b.toNat then 0x3F800000 else 0⟩,
   ⟨0x11, .chSel, fun _ _ _ a b c => canon (if (dec32 a).isZero || (dec32 a).isNan then c else b)⟩,
   ⟨0x12, .chCvt, fun fn m _ a _ _ => rne32 (decodeC fn (convertV fn m (dec32 a)))⟩, ⟨0x13, .chRint, fun fn _ _ a _ _ => rintB fn a⟩,
   ⟨0x14, .chRng, fun _ _ w _ _ _ => rne32 (.fin false (w.toNat / 256) (2 ^ 24))⟩, ⟨0x15, .chDrop, fun _ _ w a b c => dropVal w a b c⟩]

/-! part 3 -/
/-- A submission port that takes a command: it exists and is not BUSY (09 R307). -/
def PortReady (s : State) (port : Nat) : Prop := port < 16 ∧ s.dev.portBusy port = false

/-- The port shows a command that was carried out: STATUS and the RESULT registers (09 R307). -/
def Answers (t : State) (port status : Nat) (r1 r2 : W64) : Prop :=
  let v := t.dev.oport port
  v.busy = false ∧ v.ignored = false ∧ v.status = status ∧ v.r1 = r1 ∧ v.r2 = r2

/-- The object commands (09 Table 9-17). -/
def objRows : List (Nat → BitVec 56 → Instr) :=
  [.ctxCreate, .ctxDestroy, .qCreate, .qDestroy, .qReserve, .qCommit, .qResume, .moCreate, .moRetain, .moRelease, .moMap, .moUnmap, .moQuery,
   .fCreate, .fDestroy, .fExport, .fSignal, .fQuery, .abort]

/-! part 5 -/
/-- A packet of a type at a port that may take it in, which is delivered here and whose partition exists (11 R368, R372). -/
def Delivered (s : State) (ty p : Nat) (k : Pkt) : Prop :=
  k.ty = ty ∧ s.dev.mayArrive p ty = true ∧ s.dev.fate k = .here ∧ (toPartition ty = true → ∃ u, s.dev.parts.get? k.destPart = some u)

/-- The device once a packet has left the inbox, if it waited there (log 26). -/
def taken (d : Dev) (p : Nat) (k : Pkt) : Dev :=
  { d with fab := { d.fab with inbox := d.fab.inbox.filter (fun x => !(x.1 = p && x.2 = k)) } }

/-- The packet rows but SNAP_DONE, SNAP_COMMIT and SNAP_ABORT: type and command (11 Table 11-4, 12 R426). -/
def pktRows : List (Nat × (Nat → Pkt → Instr)) :=
  [(0x01, .hello), (0x02, .linkState), (0x03, .stretch), (0x04, .probe), (0x05, .probeAck), (0x06, .laneChange), (0x07, .mgmt),
   (0x10, .readReq), (0x11, .readResp), (0x12, .writeReq), (0x13, .writeAck), (0x14, .lendReq), (0x15, .lendAck),
   (0x20, .join), (0x21, .chunk), (0x22, .chunkAck), (0x23, .done), (0x24, .withdraw),
   (0x30, .whello), (0x31, .snapReq), (0x32, .snapAt), (0x33, .snapLate), (0x34, .ship), (0x35, .shipAck),
   (0x38, .logData), (0x39, .logAck), (0x3A, .logFetch), (0x3B, .rebuildPart), (0x3C, .journal)]

/-- A STATE packet of rank r of the waling group whose armed slot w the destination partition holds, in the slot's EPOCH (12 R426). -/
def StateFrom (s : State) (k : Pkt) (w : Wg) (r : Nat) : Prop :=
  s.dev.wg k.destPart = w ∧ w.armed = true ∧ w.walingId = k.arg 0 2 ∧ w.epoch.toNat = k.arg 2 4 ∧ s.dev.rankOf w k.srcMod k.srcPart = some r

/-- A packet of rank r for an ACTIVE group slot g that is the group of the destination partition with its identifier (11 R372). -/
def CollFrom (s : State) (k : Pkt) (g r : Nat) : Prop :=
  s.dev.groupOf k.destPart (k.arg 0 2) = some g ∧ s.dev.groupRank (s.dev.group g) k.srcMod k.srcPart = some r

/-! part 7 -/
/-- A row of the memory and atomic classes: opcode, command, whether its space is context memory, bytes of each access. -/
structure MemRow where
  op : Nat
  cmd : PlaitRef → Enc → Instr
  ctxMem : Enc → Bool
  size : Enc → Nat

def memRows : List MemRow :=
  [⟨0x30, .ld, fun e => e.md.getLsbD 4, fun e => 2 ^ md e 0 3⟩, ⟨0x31, .st, fun e => e.md.getLsbD 4, fun e => 2 ^ md e 0 3⟩,
   ⟨0x40, .atom, fun e => e.aux.getLsbD 2, fun e => if e.md.getLsbD 4 then 8 else 4⟩]

/-- The rows of 03 Table 3-4: opcode and command. -/
def ShorekRow (op : Nat) (cmd : PlaitRef → Enc → Instr) : Prop := (op, cmd) ∈ (
  [(0x00, .iadd), (0x01, .isub), (0x02, .imul), (0x03, .imulh), (0x04, .imad), (0x05, .iand), (0x06, .ior), (0x07, .ixor), (0x08, .shl), (0x09, .shr),
   (0x0A, .sar), (0x0B, .imin), (0x0C, .imax), (0x0D, .icmp), (0x0E, .sel), (0x0F, .bitop), (0x10, .fadd), (0x11, .fsub), (0x12, .fmul), (0x13, .ffma),
   (0x14, .fmin), (0x15, .fmax), (0x16, .fcmp), (0x17, .fabsneg), (0x18, .frcp), (0x19, .fsqrt), (0x1A, .fexp2), (0x1B, .flog2), (0x1C, .fsin), (0x1D, .fcos),
   (0x20, .cvt), (0x21, .cvti), (0x22, .rng), (0x28, .plut), (0x29, .p2r), (0x2A, .regToPred), (0x30, .ld), (0x31, .st), (0x40, .atom),
   (0x48, .shfl), (0x49, .vote), (0x4A, .redux)]
  ++ [(0x50, .mxi), (0x51, .mxg), (0x52, .mxw), (0x53, .mxr), (0x54, .eci), (0x55, .cpy), (0x58, .bar), (0x59, .mbar), (0x5A, .wait), (0x5B, .rgnEnter),
   (0x5C, .rgnExit), (0x60, .bra), (0x61, .brx), (0x62, .call), (0x63, .exit), (0x68, .szt), (0x69, .id), (0x6A, .rnd), (0x70, .nop), (0x71, .alloc), (0x72, .free)] : List (Nat × (PlaitRef → Enc → Instr)))

/-- The first fault of plait p's context is recorded, with a code and p's program counter (02 R90 to R92, Table 2-7). -/
def FirstFault (t : State) (p : Plait) (code : Nat) : Prop :=
  ∃ x f, t.dev.obj.ctxs.get? p.ctx = some x ∧ x.fault = some f ∧ f.code = code ∧ f.pc = p.pc

/-- The plait's context holds no fault record. -/
def Unfaulted (s : State) (p : Plait) : Prop := ∃ x, s.dev.obj.ctxs.get? p.ctx = some x ∧ x.fault = none

/-- The sequence is ignored and counted, with its cause, source register and offset; nothing else changes (09 R328, Table 9-13). -/
def IgnoredWrite (s t : State) (cause off : Nat) : Prop :=
  t = { s with dev := { s.dev with obj := { s.dev.obj with ignoredCount := s.dev.obj.ignoredCount + 1, ignCause := cause, ignSource := 0x10, ignDetail := off % 2 ^ 48 } } }

/-- A request of POR is carried out: the module is not without power already (14 R456). -/
def PorTaken (s : State) : Prop := s.dev.rstc.held ≠ .needPower ∧ s.dev.rstc.held ≠ .needInPg

/-- A POR from a source took place: the cause, every block as at power-up, flash and OTP as before (14 R453, R457). -/
def AfterPor (s t : State) (src : Nat) (h : Held) : Prop :=
  t.dev.rstc = { Rstc.reset with source := src, history := BitVec.ofNat 15 (2 ^ src), held := h } ∧ t.dev.parts = [] ∧ t.dev.plaits = []
  ∧ t.dev.obj = Obj.reset ∧ t.dev.dbg = Dbg.reset ∧ t.dev.secm.keyGen = 0 ∧ t.dev.boot = Boot.reset ∧ t.dev.flash = s.dev.flash ∧ t.otp = s.otp

/-- A request of SYSRST is carried out: out of PS3, no SYSRST or POR in progress (14 R456). -/
def SysTaken (s : State) : Prop := s.dev.ptc.psState ≠ 3 ∧ (s.dev.rstc.busyLevel = none ∨ s.dev.rstc.busyLevel = some .core)

/-- A SYSRST from a source took place: counted, named, added to the history; debug, what counts since POR, flash and OTP are kept (14 R453, R457). -/
def AfterSys (s t : State) (src : Nat) (h : Held) : Prop :=
  t.dev.rstc = { Rstc.reset with sysCount := min 0xFFFF (s.dev.rstc.sysCount + 1), coreCount := s.dev.rstc.coreCount, level := 2, source := src, history := s.dev.rstc.history ||| BitVec.ofNat 15 (2 ^ src), held := h, busyLevel := some .sys }
  ∧ t.dev.parts = [] ∧ t.dev.plaits = [] ∧ t.dev.obj = { Obj.reset with ignoredCount := s.dev.obj.ignoredCount } ∧ t.dev.boot = Boot.reset
  ∧ t.dev.dbg = s.dev.dbg ∧ t.dev.secm.keyGen = s.dev.secm.keyGen ∧ t.dev.flash = s.dev.flash ∧ t.otp = s.otp

/-- A request of CORERST is carried out. -/
def CoreTaken (s : State) : Prop := s.dev.ptc.psState ≠ 3 ∧ s.dev.rstc.busyLevel = none

/-- A CORERST from a source took place up to its release: strands and their clusters are gone, the module restarts, the ROM responder owns
the management port (14 R455, R457). -/
def AfterCore (s t : State) (src : Nat) : Prop :=
  t.dev.rstc.level = 1 ∧ t.dev.rstc.source = src ∧ t.dev.rstc.coreStep = true ∧ t.dev.rstc.busyLevel = some .core
  ∧ t.dev.plaits = [] ∧ t.dev.groups = [] ∧ t.dev.clusters = [] ∧ t.dev.arrays = [] ∧ t.dev.slices = [] ∧ t.dev.cpys = [] ∧ t.dev.saved = []
  ∧ t.dev.boot.restarting = true ∧ t.dev.boot.narby = false ∧ t.dev.mgmt.osOwner = false ∧ t.otp = s.otp

/-- A SECM command that ended: accepted, or refused with a reason (14 R477). -/
def SecmDone (t : State) (reason : Nat) : Prop := t.dev.secm.done = true ∧ t.dev.secm.refused = decide (reason ≠ 0) ∧ t.dev.secm.reason = reason

/-- The security processor can read n bytes at an address: they lie in the carve-out and hold no uncorrectable error (08 R272, 15 R484). -/
def SecReadable (s : State) (a n : Nat) : Prop := carveOk a n = true ∧ s.dev.badIn a n = false

/-- The objects that a command names are referenced beside it: its retiring frees none of them (09 R317, R324). -/
def StillReferenced (d : Dev) (c : Cmd) : Prop := ∀ h ∈ c.objs, ∀ m, d.obj.mobjs.get? (h % 2 ^ 20) = some m → 0 < m.drv

/-- Nothing waits for sub-pages: no write of an engine, no collective, no object command (08 R276, R292, R299). -/
def NothingWaits (d : Dev) : Prop := d.mem.waiting = [] ∧ (∀ kv ∈ d.cole.groups, kv.2.runs = []) ∧ ∀ p < 16, (d.oport p).retry = none

/-- The tables of the device rise: each index is listed once, in order. -/
def RisingTables (d : Dev) : Prop :=
  Rising d.parts ∧ Rising d.plaits ∧ Rising d.groups ∧ (∀ g ∈ d.groups, Rising g.2.bars) ∧ (∀ z ∈ d.saved, ∀ g ∈ z.groups, Rising g.2.bars)
  ∧ Rising d.obj.ctxs ∧ Rising d.obj.queues ∧ Rising d.obj.fences ∧ Rising d.obj.mobjs ∧ Rising d.fab.silent ∧ Rising d.fab.reqs ∧ Rising d.mem.used

/-- What was written to the OTP stays: programmed record slots, key slots programmed and revoked, counters that only rise, the serial
number, the identity key and the chain (14 R463 to R467, R474). -/
def OtpKept (a b : Otp) : Prop :=
  b.serial = a.serial ∧ b.chain = a.chain ∧ (a.idKey = true → b.idKey = true)
  ∧ (∀ k x, a.slots.get? k = some x → b.slots.get? k = some x)
  ∧ (∀ k x, a.keys.get? k = some x → x.programmed = true → ∃ y, b.keys.get? k = some y ∧ y.programmed = true ∧ y.hash = x.hash ∧ (x.revoked = true → y.revoked = true))
  ∧ ∀ k, a.counters.getD k 0 ≤ b.counters.getD k 0

end Sys2Proof.Safety
end

