-- ==== Sys2Proof/Certificates/Slice0/Obligations.lean ====
section
/-! DEFINITION. The statements for the provers. Each command's effect is stated as the next state that exec answers. -/

open Sys2Proof Sys2Proof.Machine Sys2Proof.Safety

/-! The block as a whole. -/

/-- A step is the command at the front of the queue, run on the state with the queue's rest; on an empty queue the block
idles. The queue is the model's own (DESIGN CHOICE, logs 1 and 2). -/
def Obligations.StepRunsFrontCommand : Prop :=
  (∀ c rest s, s.pending = c :: rest → step s = exec c { s with pending := rest })
  ∧ ∀ s : State, s.pending = [] → step s = .next s

/-- Every command answers a next state from every state, and leaves the queue of waiting commands as it was: no command
stops the model, and none puts another command into the queue. -/
def Obligations.EveryCommandAnswers : Prop :=
  ∀ c s, Runs c s fun t => t.pending = s.pending

/-! Shorek: integer, floating, conversion, predicate classes (03). -/

/-- R105: the integer instructions with a result of W bits, on every participant. R105: ICMP writes a predicate; SEL chooses by a predicate
operand; POPC and CLZ write one register, BREV W bits. -/
def Obligations.IntegerInstructionResults : Prop :=
  (∀ row ∈ intRows, ∀ r e s p, Issuing row.op r e s p →
    Runs (row.cmd r e) s fun t => PlaitOnly r s t ∧ PlaitThen r t fun p' =>
      if e.md.getLsbD 0 then
        Writes e p p' (p.parts e) e.d.toNat 2 (fun k => regWords (row.res e 64 (p.rd64 e.a.toNat k) (srcB64 p e k) (p.rd64 e.c.toNat k)))
      else
        Writes e p p' (p.parts e) e.d.toNat 1 (fun k => regWords (row.res e 32 (p.rd e.a.toNat k) (srcB32 p e k) (p.rd e.c.toNat k))))
  ∧ (∀ r e s p,
    (Issuing 0x0D r e s p → Runs (.icmp r e) s fun t => PlaitOnly r s t ∧ PlaitThen r t fun p' =>
      SetsPred e p p' (p.parts e) (e.aux.toNat % 8) (fun k =>
        if e.md.getLsbD 0 then cmpSpec (e.md.getLsbD 1) (md e 2 3) (p.rd64 e.a.toNat k) (srcB64 p e k)
        else cmpSpec (e.md.getLsbD 1) (md e 2 3) (p.rd e.a.toNat k) (srcB32 p e k)))
    ∧ (Issuing 0x0E r e s p → Runs (.sel r e) s fun t => PlaitOnly r s t ∧ PlaitThen r t fun p' =>
      let c := p.predOp e.aux.toNat
      if e.md.getLsbD 0 then
        Writes e p p' (p.parts e) e.d.toNat 2 (fun k => regWords (if c.getLsbD k then p.rd64 e.a.toNat k else srcB64 p e k))
      else Writes e p p' (p.parts e) e.d.toNat 1 (fun k => regWords (if c.getLsbD k then p.rd e.a.toNat k else srcB32 p e k)))
    ∧ (Issuing 0x0F r e s p → Runs (.bitop r e) s fun t => PlaitOnly r s t ∧ PlaitThen r t fun p' =>
      let x (k : Nat) : W64 := if e.md.getLsbD 0 then p.rd64 e.a.toNat k else (p.rd e.a.toNat k).setWidth 64
      let w := if e.md.getLsbD 0 then 64 else 32
      match md e 2 3 with
      | 0 => Writes e p p' (p.parts e) e.d.toNat 1 (fun k => [BitVec.ofNat 32 ((List.range 64).countP (x k).getLsbD)])
      | 1 => Writes e p p' (p.parts e) e.d.toNat 1 (fun k =>
          [BitVec.ofNat 32 (((List.range w).reverse.findIdx? (x k).getLsbD).getD w)])
      | _ =>
        if e.md.getLsbD 0 then Writes e p p' (p.parts e) e.d.toNat 2 (fun k => regWords (p.rd64 e.a.toNat k).reverse)
        else Writes e p p' (p.parts e) e.d.toNat 1 (fun k => regWords (p.rd e.a.toNat k).reverse)))

/-- R106, R107: FADD, FSUB, FMUL, FFMA, FMIN and FMAX act in FP32, or on the two halves independently, and FABSNEG clears and then inverts the
sign bits alone. R107 to R109: a NaN operand gives the canonical NaN of the format; FCMP sets a predicate by its condition, which is false
but for NE and UNORD where an operand is a NaN and takes the two zeros for equal; the functions of one source write one register, with their
special values. -/
def Obligations.FloatingInstructionResults : Prop :=
  ((∀ row ∈ floatRows, ∀ r e s p, Issuing row.op r e s p →
    Runs (row.cmd r e) s fun t => PlaitOnly r s t ∧ PlaitThen r t fun p' =>
      Writes e p p' (p.parts e) e.d.toNat 1 (fun k =>
        let a := p.rd e.a.toNat k
        let b := srcB32 p e k
        let c := p.rd e.c.toNat k
        if md e 0 2 = 0 then [BitVec.ofNat 32 (row.res e fp32 a.toNat b.toNat c.toNat)]
        else
          let half (lo : Nat) : W16 := BitVec.ofNat 16 (row.res e (if md e 0 2 = 1 then fp16 else bf16)
            (a.extractLsb' lo 16).toNat (b.extractLsb' lo 16).toNat (c.extractLsb' lo 16).toNat)
          [half 16 ++ half 0]))
  ∧ ∀ r e s p, Issuing 0x17 r e s p →
    Runs (.fabsneg r e) s fun t => PlaitOnly r s t ∧ PlaitThen r t fun p' =>
      let signs : W32 := if md e 0 2 = 0 then 0x80000000 else 0x80008000
      Writes e p p' (p.parts e) e.d.toNat 1 (fun k =>
        let a := if e.md.getLsbD 4 then p.rd e.a.toNat k &&& ~~~signs else p.rd e.a.toNat k
        [if e.md.getLsbD 5 then a ^^^ signs else a]))
  ∧ ((∀ f ∈ [fp32, fp16, bf16], ∀ m a b c, decodeF f a = .nan ∨ decodeF f b = .nan →
    faddB f m a b = nanBits f ∧ fsubB f m a b = nanBits f ∧ fmulB f m a b = nanBits f
    ∧ ffmaB f m a b c = nanBits f ∧ ffmaB f m a c b = nanBits f ∧ ffmaB f m c a b = nanBits f)
  ∧ (∀ r e s p, Issuing 0x16 r e s p → Runs (.fcmp r e) s fun t => PlaitOnly r s t ∧ PlaitThen r t fun p' =>
    SetsPred e p p' (p.parts e) (e.aux.toNat % 8) (fun k => fcmpB fp32 (md e 4 3) (p.rd e.a.toNat k).toNat (srcB32 p e k).toNat))
  ∧ (∀ c < 8, (∀ a b, decodeF fp32 a = .nan ∨ decodeF fp32 b = .nan → fcmpB fp32 c a b = decide (c = 1 ∨ c = 7))
      ∧ fcmpB fp32 c 0x80000000 0 = fcmpB fp32 c 0 0 ∧ fcmpB fp32 c 0 0x80000000 = fcmpB fp32 c 0 0)
  ∧ (∀ row ∈ unaryRows, ∀ r e s p, Issuing row.1 r e s p → Runs (row.2.1 r e) s fun t => PlaitOnly r s t ∧ PlaitThen r t fun p' =>
    Writes e p p' (p.parts e) e.d.toNat 1 (fun k => [row.2.2 (p.rd e.a.toNat k)]))
  ∧ (∀ row ∈ unaryRows, ∀ x, dec32 x = .nan → row.2.2 x = nan32)
  ∧ frcpB 0 = 0x7F800000 ∧ frcpB 0x80000000 = 0xFF800000 ∧ frcpB 0x7F800000 = 0 ∧ frcpB 0xFF800000 = 0x80000000
  ∧ fsqrtB 0x80000000 = 0x80000000 ∧ fsqrtB 0x7F800000 = 0x7F800000 ∧ fexp2B 0xFF800000 = 0
  ∧ flog2B 0 = 0xFF800000 ∧ flog2B 0x80000000 = 0xFF800000
  ∧ (∀ x, dec32 x = .inf true ∨ (∃ n d, dec32 x = .fin true n d ∧ n ≠ 0) → fsqrtB x = nan32 ∧ flog2B x = nan32)
  ∧ ∀ x, x = 0x7F800000 ∨ x = 0xFF800000 → fsinB x = nan32 ∧ fcosB x = nan32)

/-- R111 to R113: CVT where the partition permits both formats, and its fault where it does not; CVTI, RNG. -/
def Obligations.ConversionResults : Prop :=
  ∀ r e s p,
    (Issuing 0x20 r e s p → s.dev.fmtOk (s.dev.partOf p.ctx) (md e 0 3) = true → s.dev.fmtOk (s.dev.partOf p.ctx) (md e 3 3) = true →
      Runs (.cvt r e) s fun t => PlaitOnly r s t ∧ PlaitThen r t fun p' =>
        Writes e p p' (p.parts e) e.d.toNat (fmtRegs (md e 3 3)) (fun k =>
          let src := p.rdN e.a.toNat (fmtRegs (md e 0 3)) k
          regForm (md e 3 3) ((List.range 4).map (fun i =>
            cvtElem e (regElem (md e 0 3) src i) ((p.rd e.b.toNat k).toNat % 256) ((p.rdN e.c.toNat 4 k).getD i 0)))))
    ∧ (Issuing 0x20 r e s p → Unfaulted s p → p.parts e ≠ 0 →
        s.dev.fmtOk (s.dev.partOf p.ctx) (md e 0 3) = false ∨ s.dev.fmtOk (s.dev.partOf p.ctx) (md e 3 3) = false →
      Runs (.cvt r e) s fun t => FirstFault t p 0x21)
    ∧ (Issuing 0x21 r e s p → Runs (.cvti r e) s fun t => PlaitOnly r s t ∧ PlaitThen r t fun p' =>
        let n := if e.md.getLsbD 2 then 64 else 32
        let m : Rnd := if e.aux.getLsbD 0 then .rtz else .rne
        if e.md.getLsbD 0 then
          Writes e p p' (p.parts e) e.d.toNat (if e.md.getLsbD 2 then 2 else 1) (fun k =>
            regWords (BitVec.ofNat 64 (toIntB n (e.md.getLsbD 1) m (decodeC (md e 3 2) ((p.rd e.a.toNat k).toNat % 2 ^ fmtBits (md e 3 2))))))
        else
          Writes e p p' (p.parts e) e.d.toNat 1 (fun k =>
            let x : Int := if e.md.getLsbD 2 then (if e.md.getLsbD 1 then (p.rd64 e.a.toNat k).toInt else (p.rd64 e.a.toNat k).toNat)
              else (if e.md.getLsbD 1 then (p.rd e.a.toNat k).toInt else (p.rd e.a.toNat k).toNat)
            [BitVec.ofNat 32 (convertV (md e 3 2) m (ofRat x 1 false))]))
    ∧ (Issuing 0x22 r e s p → Runs (.rng r e) s fun t => PlaitOnly r s t ∧ PlaitThen r t fun p' =>
        Writes e p p' (p.parts e) e.d.toNat 1 (fun k =>
          let a := p.rdN e.a.toNat 4 k
          [gen (a.getD 1 0 ++ a.getD 0 0) (a.getD 3 0 ++ a.getD 2 0) (p.rd e.c.toNat k) (p.rd64 e.b.toNat k)]))

/-! Shorek: cross-strand, queries, system (03 R118 to R131). -/

/-- R118 to R120: SHFL reads another strand's source as it stood, or zero; VOTE and REDUX give every participant one result. R114: PLUT, P2R and
R2P; R2P leaves the predicates it does not name. -/
def Obligations.CrossStrandResults : Prop :=
  (∀ r e s p,
    (Issuing 0x48 r e s p → Runs (.shfl r e) s fun t =>
      let ck := pkCluster (pkey r)
      let j (k : Nat) : W32 :=
        let b := p.rd e.b.toNat k
        match md e 0 2 with | 0 => b | 1 => BitVec.ofNat 32 k - b | 2 => BitVec.ofNat 32 k + b | _ => BitVec.ofNat 32 k ^^^ b
      let oor := (List.range 32).any (fun k => (p.parts e).getLsbD k && decide (32 ≤ (j k).toNat))
      t = { s with dev := { s.dev with plaits := t.dev.plaits, rcache := t.dev.rcache, tiles := t.dev.tiles, energy := t.dev.energy, clusters := t.dev.clusters } }
      ∧ (∀ n, n ≠ ck → t.dev.cluster n = s.dev.cluster n)
      ∧ t.dev.cluster ck = (if oor then { s.dev.cluster ck with permOor := true, oorCtx := p.ctx, oorCount := min 0xFFFF ((s.dev.cluster ck).oorCount + 1) }
          else s.dev.cluster ck)
      ∧ (∀ k, k ≠ pkey r → t.dev.plaits.get? k = s.dev.plaits.get? k)
      ∧ PlaitThen r t fun p' =>
        if e.md.getLsbD 2 then Writes e p p' (p.parts e) e.d.toNat 2 (fun k => regWords (if (j k).toNat < 32 then p.rd64 e.a.toNat (j k).toNat else 0))
        else Writes e p p' (p.parts e) e.d.toNat 1 (fun k => regWords (if (j k).toNat < 32 then p.rd e.a.toNat (j k).toNat else 0)))
    ∧ (Issuing 0x49 r e s p → Runs (.vote r e) s fun t => PlaitOnly r s t ∧ PlaitThen r t fun p' =>
      let m := p.parts e
      let o := p.predOp e.a.toNat
      match md e 0 2 with
      | 0 => SetsPred e p p' m (e.aux.toNat % 8) (fun _ => m &&& o != 0)
      | 1 => SetsPred e p p' m (e.aux.toNat % 8) (fun _ => m &&& o == m)
      | 2 => Writes e p p' m e.d.toNat 1 (fun _ => [m &&& o])
      | _ => SetsPred e p p' m (e.aux.toNat % 8) (fun _ => (List.range 32).all (fun i => (List.range 32).all (fun j =>
          !(m.getLsbD i && m.getLsbD j) || p.rd e.b.toNat i == p.rd e.b.toNat j))))
    ∧ (Issuing 0x4A r e s p → Runs (.redux r e) s fun t => PlaitOnly r s t ∧ PlaitThen r t fun p' =>
      let w := e.md.getLsbD 3
      let l := (lanes (p.parts e)).map (fun k => p.rdW w e.a.toNat k)
      Writes e p p' (p.parts e) e.d.toNat (if w then 2 else 1) (fun _ =>
        splitW w (l.tail.foldl (reduxF (md e 0 3) (if w then 64 else 32)) (l.headD 0)))))
  ∧ (∀ r e s p,
    (Issuing 0x28 r e s p → Runs (.plut r e) s fun t => PlaitOnly r s t ∧ PlaitThen r t fun p' =>
      let i (k : Nat) : Nat := 4 * ((p.predOp e.a.toNat).getLsbD k).toNat + 2 * ((p.predOp e.b.toNat).getLsbD k).toNat + ((p.predOp e.c.toNat).getLsbD k).toNat
      SetsPred e p p' (p.parts e) (e.d.toNat % 8) (fun k => e.md.getLsbD (i k)))
    ∧ (Issuing 0x29 r e s p → Runs (.p2r r e) s fun t => PlaitOnly r s t ∧ PlaitThen r t fun p' =>
      ∃ v : Nat → W32, Writes e p p' (p.parts e) e.d.toNat 1 (fun k => [v k])
        ∧ ∀ k < 32, ∀ n, (v k).getLsbD n = (decide (n < 8) && (p.pred n).getLsbD k))
    ∧ (Issuing 0x2A r e s p → Runs (.regToPred r e) s fun t => PlaitOnly r s t ∧ PlaitThen r t fun p' =>
      p' = { p with preds := p'.preds, pc := p'.pc, active := p'.active, stack := p'.stack, stall := .none } ∧ GoesOn e p p'
      ∧ ∀ n k, k < 32 → (p'.pred n).getLsbD k =
          if n < 8 ∧ e.md.getLsbD n ∧ (p.parts e).getLsbD k then (p.rd e.a.toNat k).getLsbD n else (p.pred n).getLsbD k))

/-- R129 to R131: SZT, ID, RND (CYCLES is a free value, log 10) and NOP, which only goes on. -/
def Obligations.QueryResults : Prop :=
  ∀ r e s p,
    (Issuing 0x68 r e s p → Runs (.szt r e) s fun t => PlaitOnly r s t ∧ PlaitThen r t fun p' =>
      let low := (lanes (p.parts e)).headD 0
      let j := if e.md.getLsbD 0 then (p.rd e.a.toNat low).toNat else e.a.toNat
      Writes e p p' (p.parts e) e.d.toNat 2 (fun _ => regWords (if j < 32 then s.dev.sztE (s.dev.partOf p.ctx) j else 0)))
    ∧ (Issuing 0x69 r e s p → Runs (.id r e) s fun t => PlaitOnly r s t ∧ PlaitThen r t fun p' =>
      let g := s.dev.groups.get? p.gk
      let c := s.dev.cmd? p.q p.i
      let value (k : Nat) : Nat := match e.md.toNat with
        | 0 => k
        | 1 => p.num
        | 2 => 32 * p.num + k
        | 3 => p.grp
        | 4 => (c.map Cmd.nGroups).getD 0
        | 5 => (g.map (fun g => g.strands)).getD 0
        | 6 => (g.map (fun g => g.size)).getD 0
        | 7 => p.live.toNat
        | 8 => p.active.toNat
        | _ => s.dev.lcluster (s.dev.partOf p.ctx) (pkCluster (pkey r))
      Writes e p p' (p.parts e) e.d.toNat (if e.md = 3 ∨ e.md = 4 then 2 else 1) (fun k => regWords (BitVec.ofNat 64 (value k))))
    ∧ (Issuing 0x6A r e s p → Runs (.rnd r e) s fun t => PlaitThen r t fun p' => ∃ v : W64, Writes e p p' (p.parts e) e.d.toNat 2 (fun _ => regWords v)
      ∧ (e.md ≠ 4 → PlaitOnly r s t) ∧ (e.md = 3 → v = BitVec.ofNat 64 s.dev.clk.now)
      ∧ ∀ c, s.dev.cmd? p.q p.i = some c → (e.md = 0 → v = BitVec.ofNat 64 c.round) ∧ (e.md = 1 → v = BitVec.ofNat 64 c.opened)
          ∧ (e.md = 2 → c.closed ≠ 0 → v = BitVec.ofNat 64 c.closed)
          ∧ (∀ u, e.md = 2 → c.closed = 0 → s.dev.parts.get? (s.dev.partOf p.ctx) = some u → v = BitVec.ofNat 64 u.rnd.nextTick))
    ∧ (Issuing 0x70 r e s p → Runs (.nop r e) s fun t => PlaitOnly r s t ∧ PlaitThen r t fun p' =>
      Writes e p p' 0 0 0 (fun _ => []))

/-! Shorek: memory (03 R115 to R117, 02 R68 to R72, R85 to R88). -/

/-- R116: LD from the window gives each participant the bytes at its offset, zero- or sign-extended, and changes no byte of
memory; from context memory it gives what the prepared access finds there. -/
def Obligations.LoadResults : Prop :=
  ∀ r e s p, Issuing 0x30 r e s p →
    let ck := pkCluster (pkey r)
    (e.md.getLsbD 4 = false →
      (∀ k ∈ lanes (p.parts e), addrOf e false p k % 2 ^ md e 0 3 = 0 ∧ addrOf e false p k + 2 ^ md e 0 3 ≤ (s.dev.window p).2
        ∧ (s.dev.cluster ck).badAt ((s.dev.window p).1 + addrOf e false p k) (2 ^ md e 0 3) = false) →
      Runs (.ld r e) s fun t =>
        t = { s with dev := { s.dev with plaits := t.dev.plaits, rcache := t.dev.rcache, tiles := t.dev.tiles, energy := t.dev.energy } }
        ∧ (∀ k, k ≠ pkey r → t.dev.plaits.get? k = s.dev.plaits.get? k)
        ∧ PlaitThen r t fun p' => Writes e p p' (p.parts e) e.d.toNat (sizeRegs (md e 0 3)) (fun k =>
            let v := (s.dev.cluster ck).clm.readLE ((s.dev.window p).1 + addrOf e false p k) (2 ^ md e 0 3)
            if e.md.getLsbD 3 then [(BitVec.ofNat (8 * 2 ^ md e 0 3) v).signExtend 32]
            else (List.range 4).map (fun j => BitVec.ofNat 32 (v / 2 ^ (32 * j)))))
    ∧ ∀ d', e.md.getLsbD 4 = true →
      preAccess s.dev (pkey r) { p with stall := .none } true (2 ^ md e 0 3) .load ((lanes (p.parts e)).map (fun k => (k, addrOf e true p k))) = .go d' →
      d'.stopOf (pkey r) p = none →
      Runs (.ld r e) s fun t => t.dev.mem.bytes = d'.mem.bytes ∧ t.dev.clusters = d'.clusters ∧ PlaitThen r t fun p' =>
        Writes e p p' (p.parts e) e.d.toNat (sizeRegs (md e 0 3)) (fun k =>
          let v := leNat (d'.vread p.ctx (addrOf e true p k) (2 ^ md e 0 3))
          if e.md.getLsbD 3 then [(BitVec.ofNat (8 * 2 ^ md e 0 3) v).signExtend 32]
          else (List.range 4).map (fun j => BitVec.ofNat 32 (v / 2 ^ (32 * j))))

/-- R116, R72: ST to the window writes the low bytes of source B at each participant's offset, the highest-numbered strand last, and every other
byte of the cluster's memory and of DRAM stays. R116: ST to context memory writes the low bytes of source B at each participant's physical
address, the highest-numbered strand last, and changes no other byte of DRAM, where the partition has no waling slot that would move the
sub-page (12 R400). -/
def Obligations.StoreResults : Prop :=
  (∀ r e s p, Issuing 0x31 r e s p → CanonicalMem s.dev → e.md.getLsbD 4 = false →
    let size := 2 ^ md e 0 3
    let at_ (k : Nat) : Nat := (s.dev.window p).1 + addrOf e false p k
    (∀ k ∈ lanes (p.parts e), addrOf e false p k % size = 0 ∧ addrOf e false p k + size ≤ (s.dev.window p).2) →
    Runs (.st r e) s fun t =>
      let clm := (s.dev.cluster (pkCluster (pkey r))).clm
      let clm' := (t.dev.cluster (pkCluster (pkey r))).clm
      t = { s with dev := { s.dev with plaits := t.dev.plaits, rcache := t.dev.rcache, tiles := t.dev.tiles, energy := t.dev.energy, clusters := t.dev.clusters } }
      ∧ (∀ ck, t.dev.cluster ck = { s.dev.cluster ck with clm := (t.dev.cluster ck).clm, badClm := (t.dev.cluster ck).badClm }
          ∧ ∀ w ∈ (t.dev.cluster ck).badClm, w ∈ (s.dev.cluster ck).badClm)
      ∧ (∀ k, k ≠ pkey r → t.dev.plaits.get? k = s.dev.plaits.get? k)
      ∧ (∀ ck, ck ≠ pkCluster (pkey r) → t.dev.cluster ck = s.dev.cluster ck)
      ∧ (∀ a, (∀ k ∈ lanes (p.parts e), ¬(at_ k ≤ a ∧ a < at_ k + size)) → clm'.read a = clm.read a)
      ∧ (∀ k ∈ lanes (p.parts e), (∀ j ∈ lanes (p.parts e), k < j → at_ j ≠ at_ k) →
          ∀ b < size, clm'.read (at_ k + b) = BitVec.ofNat 8 (((p.rdN e.b.toNat (sizeRegs (md e 0 3)) k).getD (b / 4) 0).toNat >>> (8 * (b % 4))))
      ∧ PlaitThen r t fun p' => Writes e p p' 0 0 0 (fun _ => []))
  ∧ (∀ r e s p d' x, Issuing 0x31 r e s p → CanonicalMem s.dev → d'.mem.bytes.wf = true → e.md.getLsbD 4 = true →
    let size := 2 ^ md e 0 3
    let at_ (k : Nat) : Option Nat := d'.phys x (addrOf e true p k)
    preAccess s.dev (pkey r) { p with stall := .none } true size .store ((lanes (p.parts e)).map (fun k => (k, addrOf e true p k))) = .go d' →
    d'.obj.ctxs.get? p.ctx = some x → d'.rse.wgs.get? x.part = none → d'.stopOf (pkey r) p = none →
    Runs (.st r e) s fun t =>
      (∀ a, (∀ k ∈ lanes (p.parts e), ∀ pa, at_ k = some pa → ¬(pa ≤ a ∧ a < pa + size)) → t.dev.mem.bytes.read a = d'.mem.bytes.read a)
      ∧ (∀ k ∈ lanes (p.parts e), ∀ pa, at_ k = some pa → (∀ j ∈ lanes (p.parts e), k < j → at_ j ≠ some pa) →
          ∀ b < size, t.dev.mem.bytes.read (pa + b) = BitVec.ofNat 8 (((p.rdN e.b.toNat (sizeRegs (md e 0 3)) k).getD (b / 4) 0).toNat >>> (8 * (b % 4))))
      ∧ t.dev.clusters = d'.clusters ∧ PlaitThen r t fun p' => Writes e p p' 0 0 0 (fun _ => []))

/-- R85 to R88: ATOM combines the participants of one address. An exchange or compare-and-swap acts strand after strand; any other operation gives the
lowest strand the old value, each later one the old value combined with the operands before it, and leaves memory with all of them. No other byte
changes. It is stated for every set of window words, and for one word of context memory where the partition has no waling slot. -/
def Obligations.AtomicResults : Prop :=
  ∀ r e s p, Issuing 0x40 r e s p →
    let ck := pkCluster (pkey r)
    let wide := e.md.getLsbD 4
    let size := if wide then 8 else 4
    let o := md e 0 4
    let operand (k : Nat) : Nat := p.rdW wide e.b.toNat k
    let compare (k : Nat) : Nat := p.rdW wide e.c.toNat k
    let before (l : List Nat) (k : Nat) : List Nat := l.filter (fun j => decide (j < k))
    let given (old : Nat) (l : List Nat) (k : Nat) : Nat :=
      if o = 8 then (before l k).foldl (fun _ j => operand j) old
      else if o = 9 then (before l k).foldl (fun v j => if v = compare j then operand j else v) old
      else if before l k = [] then old else atomF o (8 * size) old (atomCombine o (8 * size) ((before l k).map operand))
    let left (old : Nat) (l : List Nat) : Nat :=
      if o = 8 then l.foldl (fun _ j => operand j) old
      else if o = 9 then l.foldl (fun v j => if v = compare j then operand j else v) old
      else atomF o (8 * size) old (atomCombine o (8 * size) (l.map operand))
    (CanonicalMem s.dev → e.aux.getLsbD 2 = false →
      let at_ (k : Nat) : Nat := (s.dev.window p).1 + addrOf e false p k
      (∀ k ∈ lanes (p.parts e), addrOf e false p k % size = 0 ∧ addrOf e false p k + size ≤ (s.dev.window p).2 ∧ (s.dev.cluster ck).badAt (at_ k) size = false) →
      let same (k : Nat) : List Nat := (lanes (p.parts e)).filter (fun j => at_ j = at_ k)
      Runs (.atom r e) s fun t =>
        let clm := (s.dev.cluster ck).clm
        let clm' := (t.dev.cluster ck).clm
        t = { s with dev := { s.dev with plaits := t.dev.plaits, rcache := t.dev.rcache, tiles := t.dev.tiles, energy := t.dev.energy, clusters := t.dev.clusters } }
        ∧ (∀ n, n ≠ ck → t.dev.cluster n = s.dev.cluster n)
        ∧ t.dev.cluster ck = { s.dev.cluster ck with clm := clm', badClm := (t.dev.cluster ck).badClm }
        ∧ (∀ a, (∀ k ∈ lanes (p.parts e), ¬(at_ k ≤ a ∧ a < at_ k + size)) → clm'.read a = clm.read a)
        ∧ (∀ k ∈ lanes (p.parts e), clm'.readLE (at_ k) size = left (clm.readLE (at_ k) size) (same k) % 256 ^ size)
        ∧ PlaitThen r t fun p' => Writes e p p' (p.parts e) e.d.toNat (if wide then 2 else 1) (fun k =>
            regWords (BitVec.ofNat 64 (given (clm.readLE (at_ k) size) (same k) k))))
    ∧ ∀ d' x a pa, CanonicalMem s.dev → d'.mem.bytes.wf = true → e.aux.getLsbD 2 = true → (∀ k ∈ lanes (p.parts e), addrOf e true p k = a) → p.parts e ≠ 0 →
      preAccess s.dev (pkey r) { p with stall := .none } true size .store ((lanes (p.parts e)).map (fun k => (k, addrOf e true p k))) = .go d' →
      d'.obj.ctxs.get? p.ctx = some x → d'.rse.wgs.get? x.part = none → d'.stopOf (pkey r) p = none → d'.vbad p.ctx a size = false → d'.phys x a = some pa →
      Runs (.atom r e) s fun t =>
        let old := d'.mem.bytes.readLE pa size
        t.dev.mem.bytes.readLE pa size = left old (lanes (p.parts e)) % 256 ^ size
        ∧ (∀ y, ¬(pa ≤ y ∧ y < pa + size) → t.dev.mem.bytes.read y = d'.mem.bytes.read y) ∧ t.dev.clusters = d'.clusters
        ∧ PlaitThen r t fun p' => Writes e p p' (p.parts e) e.d.toNat (if wide then 2 else 1) (fun k =>
            regWords (BitVec.ofNat 64 (given old (lanes (p.parts e)) k)))

/-- R68, R70, R92, 08 R292: a load, store or atomic some of whose participants name an address that is not a multiple of its size faults with
MISALIGNED; else one that reaches beyond the window with LOCAL_BOUNDS; one whose page fault cannot be resolved with PAGE_UNRESOLVED and its cause; one that reads a word of the window in error with MEM_UNCORRECTABLE. -/
def Obligations.MemoryAccessFaults : Prop :=
  ∀ row ∈ memRows, ∀ r e s p, Issuing row.op r e s p → Unfaulted s p →
    let a (k : Nat) : Nat := addrOf e (row.ctxMem e) p k
    let size := row.size e
    ((∃ k ∈ lanes (p.parts e), a k % size ≠ 0) → Runs (row.cmd r e) s fun t => FirstFault t p 0x22)
    ∧ ((∀ k ∈ lanes (p.parts e), a k % size = 0) →
      (row.ctxMem e = false → (∃ k ∈ lanes (p.parts e), (s.dev.window p).2 < a k + size) → Runs (row.cmd r e) s fun t => FirstFault t p 0x24)
      ∧ (row.ctxMem e = false → row.op ≠ 0x31 → (∀ k ∈ lanes (p.parts e), a k + size ≤ (s.dev.window p).2) →
        (∃ k ∈ lanes (p.parts e), (s.dev.cluster (pkCluster (pkey r))).badAt ((s.dev.window p).1 + a k) size = true) →
        Runs (row.cmd r e) s fun t => FirstFault t p 0x30)
      ∧ ∀ c m va, row.ctxMem e = true → m ≠ 0 →
        s.dev.prepare p.ctx (pkTile (pkey r)) (if row.op = 0x30 then .load else .store) (spansAt size ((lanes (p.parts e)).map (fun k => (k, a k)))) = .fault c m va →
        Runs (row.cmd r e) s fun t => FirstFault t p 0x23
          ∧ (t.dev.obj.ctxs.get? p.ctx).bind (fun x => x.memFault) = some ⟨false, decide (row.op ≠ 0x30), c, va⟩)

/-! Shorek: asynchronous issue (03 R121 to R123). -/

/-- R121, R122: MXI, MXG, MXW and MXR that are accepted put their operation last into the queue of the named array and make
their token pending; MXG, MXW and MXR stand in a region and are not split (R58, R60). While the token is pending or the queue full the plait waits. -/
def Obligations.MatrixIssue : Prop :=
  ∀ r e s p,
    let ck := pkCluster (pkey r)
    let k := arrayOf (pkey r) e
    let w := s.dev.window p
    let clm := (s.dev.cluster ck).clm
    let ok (f : Nat) : Bool := s.dev.fmtOk (s.dev.partOf p.ctx) f
    let readable (x : Nat) : Prop := dFuse x = true → (s.dev.cluster ck).badChain w.1 w.2 (df x 0x48 4) = false
    let accepted (t : State) (o : AOp) : Prop :=
      (t.dev.array k).queue = (s.dev.array k).queue ++ [o] ∧ (∀ j, j ≠ k → t.dev.array j = s.dev.array j) ∧ t.dev.mem = s.dev.mem ∧ t.dev.clusters = s.dev.clusters
      ∧ (∀ j, j ≠ pkey r → t.dev.plaits.get? j = s.dev.plaits.get? j)
      ∧ PlaitThen r t fun p' => p'.tokens = (p.tokens ||| (1#16 <<< (e.aux.toNat % 16))) ∧ p'.regs = p.regs ∧ p'.preds = p.preds ∧ GoesOn e p p'
    (p.tokens.getLsbD (e.aux.toNat % 16) = false → (s.dev.array k).queue.length < 8 →
      (∀ lo rest, Issuing 0x50 r e s p → lanes (p.parts e) = lo :: rest →
        (p.rd e.a.toNat lo).toNat % 32 = 0 → (p.rd e.a.toNat lo).toNat + 112 ≤ w.2 → (s.dev.cluster ck).badAt (w.1 + (p.rd e.a.toNat lo).toNat) 112 = false →
        let x := clm.readLE (w.1 + (p.rd e.a.toNat lo).toNat) 112
        readable x → (descCheck clm w.1 w.2 x ok).2 = [] →
        Runs (.mxi r e) s fun t => ∃ o, accepted t o ∧ o.desc = x ∧ o.by_ = s.dev.issuer (pkey r) p 0x50 e)
      ∧ (∀ m, p.region = some m → p.active = m → p.parts e = p.active →
        (Issuing 0x51 r e s p →
          let x := leNat ((List.range 28).flatMap (fun k => leBytes 4 (p.rd e.a.toNat k).toNat))
          readable x → (descCheck clm w.1 w.2 x ok).2 = [] →
          Runs (.mxg r e) s fun t => ∃ o, accepted t o ∧ o.desc = x ∧ o.by_ = s.dev.issuer (pkey r) p 0x51 e)
        ∧ (Issuing 0x52 r e s p → Runs (.mxw r e) s fun t => ∃ o, accepted t o
            ∧ o.kind = .mxw (md e 2 6) ((List.range 32).flatMap (fun k => (p.rdN e.a.toNat 4 k).flatMap (fun v => leBytes 4 v.toNat))))
        ∧ (Issuing 0x53 r e s p → Runs (.mxr r e) s fun t => ∃ o, accepted t o ∧ o.kind = .mxr (md e 2 6) e.d.toNat (p.parts e)
            ∧ PlaitThen r t fun p' => p'.held = if e.d = 255 then p.held else (e.aux.toNat % 16, e.d.toNat) :: p.held)))
    ∧ ∀ row ∈ ([(0x50, .mxi), (0x51, .mxg), (0x52, .mxw), (0x53, .mxr)] : List (Nat × (PlaitRef → Enc → Instr))), Issuing row.1 r e s p →
        (p.parts e = 0 → Runs (row.2 r e) s fun t => PlaitOnly r s t ∧ PlaitThen r t fun p' => Writes e p p' 0 0 0 (fun _ => []))
        ∧ (p.parts e ≠ 0 → p.tokens.getLsbD (e.aux.toNat % 16) = true ∨ 8 ≤ (s.dev.array k).queue.length → Runs (row.2 r e) s fun t => t = s)

/-- R121, R123: ECI puts a chain last into its slice's queue; CPY whose pages are pinned stands pending with its token; a CPY of
length zero completes at issue and leaves the token free. While the token is pending or the slice's queue full the plait waits. -/
def Obligations.ChainAndCopyIssue : Prop :=
  (∀ r e s p lo rest, lanes (p.parts e) = lo :: rest → p.tokens.getLsbD (e.aux.toNat % 16) = false →
    let k := s.dev.cluster (pkCluster (pkey r))
    let w := s.dev.window p
    let took (t : State) : Prop := (∀ j, j ≠ pkey r → t.dev.plaits.get? j = s.dev.plaits.get? j) ∧ t.dev.clusters = s.dev.clusters ∧ t.dev.mem.bytes = s.dev.mem.bytes
      ∧ PlaitThen r t fun p' => p'.tokens = (p.tokens ||| (1#16 <<< (e.aux.toNat % 16))) ∧ p'.regs = p.regs ∧ p'.preds = p.preds ∧ GoesOn e p p'
    (Issuing 0x54 r e s p → (s.dev.slice (pkey r / 16)).queue.length < 4 → k.badChain w.1 w.2 (p.rd e.a.toNat lo).toNat = false →
      let c := chainCheck k.clm w.1 w.2 (p.rd e.a.toNat lo).toNat (s.dev.fmtOk (s.dev.partOf p.ctx)) none
      c.2 = [] → Runs (.eci r e) s fun t => took t ∧ (∀ j, j ≠ pkey r / 16 → t.dev.slice j = s.dev.slice j)
        ∧ ∃ o : ChainOp, (t.dev.slice (pkey r / 16)).queue = (s.dev.slice (pkey r / 16)).queue ++ [o]
          ∧ o.desc = c.1 ∧ o.ph = .queued ∧ o.by_ = s.dev.issuer (pkey r) p 0x54 e)
    ∧ (Issuing 0x55 r e s p →
      let va := p.rd64 e.a.toNat lo
      let off := (p.rd e.b.toNat lo).toNat
      let len := (p.rd e.c.toNat lo).toNat
      va.toNat % 32 = 0 → off % 32 = 0 → len % 32 = 0 →
      (len = 0 → Runs (.cpy r e) s fun t => PlaitOnly r s t ∧ PlaitThen r t fun p' => Writes e p p' 0 0 0 (fun _ => []))
      ∧ (0 < len → off + len ≤ w.2 → ∀ d' pins,
          s.dev.pinAll p.ctx (pkTile (pkey r)) (rngOf (if e.md.getLsbD 0 then .store else .load) va.toNat len) = .ok d' pins →
          Runs (.cpy r e) s fun t => took t ∧ t.dev.obj = d'.obj ∧ ∃ o : Cpy, t.dev.cpys = s.dev.cpys ++ [o] ∧ o.pk = pkey r ∧ o.token = e.aux.toNat % 16 ∧ o.va = va
            ∧ o.off = w.1 + off ∧ o.len = len ∧ o.toMem = e.md.getLsbD 0 ∧ o.pins = pins)))
  ∧ ∀ row ∈ ([(0x54, .eci), (0x55, .cpy)] : List (Nat × (PlaitRef → Enc → Instr))), ∀ r e s p, Issuing row.1 r e s p →
      (p.parts e = 0 → Runs (row.2 r e) s fun t => PlaitOnly r s t ∧ PlaitThen r t fun p' => Writes e p p' 0 0 0 (fun _ => []))
      ∧ (p.parts e ≠ 0 → p.tokens.getLsbD (e.aux.toNat % 16) = true ∨ (row.1 = 0x54 ∧ 4 ≤ (s.dev.slice (pkey r / 16)).queue.length) →
          Runs (row.2 r e) s fun t => t = s)

/-! Shorek: synchronisation and control flow (03 R125 to R128; 02 R52 to R59, R78 to R82). -/

/-- R78, R79, R126: a BAR with a participant arrives once; at the count every waiting plait goes on and the barrier resets;
count 0 is every live plait. A BAR without one, and MBAR, only go on; WAIT waits for its tokens (R82). -/
def Obligations.BarrierAndWait : Prop :=
  ∀ r e s p,
    (∀ g, Issuing 0x58 r e s p → p.parts e ≠ 0 → s.dev.groups.get? p.gk = some g → Rising s.dev.plaits → Rising g.bars →
      let b := g.bars.getD e.a.toNat ⟨0, 0, []⟩
      let need := if e.b.toNat = 0 then s.dev.livePlaits p.gk else e.b.toNat
      let opens := need ≤ b.arrivals + 1
      Runs (.bar r e) s fun t => t.dev.mem = s.dev.mem ∧ t.dev.clusters = s.dev.clusters
        ∧ (PlaitThen r t fun p' => p'.regs = p.regs ∧ p'.preds = p.preds ∧ GoesOn e p p' ∧ p'.stall = if opens then .none else .barrier e.a.toNat)
        ∧ (∀ k q, k ≠ pkey r → s.dev.plaits.get? k = some q → t.dev.plaits.get? k = some (if opens ∧ k ∈ b.waiting then { q with stall := .none } else q))
        ∧ ((t.dev.groups.get? p.gk).bind (fun g => g.bars.get? e.a.toNat)) = if opens then none else some ⟨e.b.toNat, b.arrivals + 1, b.waiting ++ [pkey r]⟩)
    ∧ (Issuing 0x58 r e s p → p.parts e = 0 → Runs (.bar r e) s fun t => PlaitOnly r s t ∧ PlaitThen r t fun p' => Writes e p p' 0 0 0 (fun _ => []))
    ∧ (Issuing 0x59 r e s p → Runs (.mbar r e) s fun t => PlaitOnly r s t ∧ PlaitThen r t fun p' => Writes e p p' 0 0 0 (fun _ => []))
    ∧ (Issuing 0x5A r e s p → Runs (.wait r e) s fun t => PlaitOnly r s t ∧ PlaitThen r t fun p' =>
        p' = { p with pc := p'.pc, active := p'.active, stack := p'.stack, stall := if p.parts e = 0 then .none else .tokens (e.a ++ e.b) } ∧ GoesOn e p p')

/-- R53, R127, R56: BRA and CALL taken by all, by none, and divided (a mask-stack entry is pushed and the fall-through runs first); EXIT takes
its participants from the live mask for good. R55, R128: BRX whose active strands name one target goes there; whose targets differ follows
the lowest strand's and pushes one entry for the rest; a target that is not a multiple of 8 faults with MISALIGNED. -/
def Obligations.BranchCallExit : Prop :=
  (∀ r e s p,
    let target := branchTo p.pc (e.ext.setWidth 32)
    let join := branchTo p.pc (e.ext.extractLsb' 32 32)
    let fall := p.pc + insLen e
    let free (a : W64) : Prop := ∀ top ∈ p.stack.head?, a ≠ top.join
    let m := p.parts e
    let goes (p' : Plait) : Prop :=
      (m = p.active → free target → p'.pc = target ∧ p'.active = p.active ∧ p'.stack = p.stack)
      ∧ (m = 0 → free fall → p'.pc = fall ∧ p'.active = p.active ∧ p'.stack = p.stack)
      ∧ (m ≠ p.active → m ≠ 0 → fall ≠ join →
          p'.pc = fall ∧ p'.active = p.active &&& ~~~m ∧ p'.stack = ⟨join, p.active, [(target, m)]⟩ :: p.stack)
    (p.stack.length < 32 ∨ m = p.active ∨ m = 0 →
      (Issuing 0x60 r e s p → Runs (.bra r e) s fun t => PlaitOnly r s t ∧ PlaitThen r t fun p' =>
        p' = { p with pc := p'.pc, active := p'.active, stack := p'.stack, stall := .none } ∧ goes p')
      ∧ (Issuing 0x62 r e s p → Runs (.call r e) s fun t => PlaitOnly r s t ∧ PlaitThen r t fun p' => goes p'
          ∧ p' = { p with regs := p'.regs, bad := p'.bad, pc := p'.pc, active := p'.active, stack := p'.stack, stall := .none } ∧ (∀ b ∈ p'.bad, b ∈ p.bad)
          ∧ (∀ k < 32, m.getLsbD k = true → e.d ≠ 255 → p'.rd64 e.d.toNat k = p.pc + 16)
          ∧ ∀ k < 32, ∀ x < 255, ¬(m.getLsbD k = true ∧ e.d.toNat ≤ x ∧ x < e.d.toNat + 2) → p'.rd x k = p.rd x k))
    ∧ (Issuing 0x63 r e s p → Runs (.exit r e) s fun t => PlaitOnly r s t ∧ PlaitThen r t fun p' =>
        p' = { p with live := p.live &&& ~~~m, pc := p'.pc, active := p'.active, stack := p'.stack, stall := .none }
        ∧ (p.stack = [] → p'.active = p.active &&& ~~~m ∧ p'.pc = fall)))
  ∧ (∀ r e s p, Issuing 0x61 r e s p →
    let named (k : Nat) : W64 := if (p.parts e).getLsbD k then p.rd64 e.a.toNat k else p.pc + insLen e
    let first := named ((lanes p.active).headD 0)
    let with_ : W32 := maskOf ((lanes p.active).filter (fun k => named k == first))
    let join := branchTo p.pc (e.ext.extractLsb' 32 32)
    ((∀ k ∈ lanes (p.parts e), (p.rd64 e.a.toNat k).toNat % 8 = 0) →
      (with_ = p.active → (∀ top ∈ p.stack.head?, first ≠ top.join) →
        Runs (.brx r e) s fun t => PlaitOnly r s t ∧ PlaitThen r t fun p' => p' = { p with pc := first, stall := .none })
      ∧ (with_ ≠ p.active → p.stack.length < 32 → first ≠ join →
        Runs (.brx r e) s fun t => PlaitOnly r s t ∧ PlaitThen r t fun p' =>
          ∃ rest, p' = { p with pc := first, active := with_, stack := ⟨join, p.active, rest⟩ :: p.stack, stall := .none }
            ∧ (∀ k ∈ lanes p.active, named k ≠ first → ∃ m, (named k, m) ∈ rest ∧ m.getLsbD k = true)
            ∧ ∀ a ∈ rest, a.1 ≠ first))
    ∧ ((∃ k ∈ lanes (p.parts e), (p.rd64 e.a.toNat k).toNat % 8 ≠ 0) → with_ = p.active ∨ p.stack.length < 32 → Unfaulted s p →
        Runs (.brx r e) s fun t => FirstFault t p 0x22))

/-! Shorek: what faults and what waits. -/

/-- R95, R91, R92: an encoding that is not legal faults, where a strand takes part: the context's first fault record names ILLEGAL_INSTRUCTION, the plait and its
program counter, the strands, the instruction and extension words and the time, and an ACTIVE context whose faults bind to it is lost. Every reserved
opcode is such an encoding. -/
def Obligations.IllegalEncodingFaults : Prop :=
  (∀ op cmd r e s p x, ShorekRow op cmd ∨ (∃ o : BitVec 7, op = o.toNat ∧ cmd = fun r e => .undefinedEncoding r o e) →
    s.dev.plaits.get? (pkey r) = some p → s.dev.ready (pkey r) p op e = true → s.dev.fetchCause p e = none → s.dev.stopOf (pkey r) p = none →
    encOk op e p.alloc = false → (guardOk e.guard = true → p.parts e ≠ 0) → s.dev.obj.ctxs.get? p.ctx = some x → x.fault = none →
    Runs (cmd r e) s fun t => ∃ x', t.dev.obj.ctxs.get? p.ctx = some x' ∧ (x.compat = false → x.st = .active → x'.st = .lost)
      ∧ x'.fault = some ⟨0x21, false, pkTile (pkey r), pkCluster (pkey r) % 40, pkey r / 16 % 4, pkey r % 16, p.pc,
          if guardOk e.guard then p.parts e else p.active, 0, insWord op e, if e.x then e.ext else 0, s.dev.clk.now, 0⟩)
  ∧ ∀ (op : BitVec 7) e alloc,
      op.toNat ∈ [0x1E, 0x1F, 0x23, 0x24, 0x25, 0x26, 0x27, 0x2B, 0x2C, 0x2D, 0x2E, 0x2F, 0x32, 0x33, 0x34, 0x35, 0x36, 0x37, 0x38, 0x39, 0x3A, 0x3B,
        0x3C, 0x3D, 0x3E, 0x3F, 0x41, 0x42, 0x43, 0x44, 0x45, 0x46, 0x47, 0x4B, 0x4C, 0x4D, 0x4E, 0x4F, 0x56, 0x57, 0x5D, 0x5E, 0x5F, 0x64, 0x65, 0x66,
        0x67, 0x6B, 0x6C, 0x6D, 0x6E, 0x6F, 0x73, 0x74, 0x75, 0x76, 0x77, 0x78, 0x79, 0x7A, 0x7B, 0x7C, 0x7D, 0x7E, 0x7F] →
      encOk op.toNat e alloc = false

/-! Work groups, plaits, the device allocator (02 R41 to R47, R56, R91; 03 R123, R132, R133). -/

/-- R42, R45, R46: the next group of a running LAUNCH starts whole: its window starts with the arguments, its plaits stand at
the entry with every launched strand live and active and nothing in their registers; a cluster that passes to another
context is cleared first. Plaits in residence stay as they are. -/
def Obligations.WorkGroupStarts : Prop :=
  ∀ q i tile cluster s u c base,
    let ck := ckey tile cluster
    CanonicalMem s.dev → s.dev.obj.queues.get? q = some u → s.dev.cmd? q i = some c → c.opc = 1 → c.st = .running → c.stop = none → c.groupsStarted < c.nGroups →
    s.dev.usable u.part tile cluster = true → (s.dev.cluster ck).saveReq = false → s.dev.roomFor ck c = true → (∀ z ∈ s.dev.stops, z.ck ≠ ck) →
    ((s.dev.cluster ck).ctx = some u.ctx ∧ s.dev.windowAt ck c.window = some base
      ∨ (s.dev.cluster ck).ctx ≠ some u.ctx ∧ s.dev.plaitsOn ck = [] ∧ c.window ≤ 1572864 ∧ base = 0) →
    Runs (.workGroupStart q i tile cluster) s fun t =>
      (∃ gk g, t.dev.groups.get? gk = some g ∧ g = ⟨q, i, c.groupsStarted, ck, base, c.window, c.strands, []⟩
        ∧ ∀ k < c.nPlaits, ∃ pk, pkCluster pk = ck ∧ pk / 16 % 4 = k % 4 ∧ s.dev.plaits.get? pk = none ∧ t.dev.plaits.get? pk = some
            ⟨u.ctx, q, i, c.groupsStarted, gk, k, c.alloc, [], [], BitVec.ofNat 64 c.entryVa, launched c.strands k, launched c.strands k, [], 0, none, [], .none, []⟩)
      ∧ (∀ k p, s.dev.plaits.get? k = some p → t.dev.plaits.get? k = some p)
      ∧ (t.dev.cluster ck).ctx = some u.ctx
      ∧ (∀ a, (t.dev.cluster ck).clm.read a =
          if base ≤ a ∧ a < base + c.args.length then c.args.getD (a - base) 0
          else if (s.dev.cluster ck).ctx = some u.ctx then (s.dev.cluster ck).clm.read a else 0)
      ∧ (t.dev.cmd? q i).map (fun k => k.groupsStarted) = some (c.groupsStarted + 1) ∧ t.dev.mem = s.dev.mem

/-- R56, R91, R47: a plait without live strands and pending tokens is gone; nothing of a lost context stays on the clusters;
a preempted cluster's state is kept and comes back on a free cluster of the partition. Neither happens on a tile whose clock stands. -/
def Obligations.PlaitsLeaveAndReturn : Prop :=
  (∀ r s p, s.dev.plaits.get? (pkey r) = some p → p.live = 0 → p.tokens = 0 → Rising s.dev.plaits → s.dev.stopped (pkTile (pkey r)) = false → s.dev.farWrites p.ctx = false →
    Runs (.plaitRetire r) s fun t => t.dev.plaits.get? (pkey r) = none ∧ t.dev.clusters = s.dev.clusters
      ∧ ∀ k, k ≠ pkey r → (t.dev.plaits.get? k).map (fun p => { p with stall := .none }) = (s.dev.plaits.get? k).map (fun p => { p with stall := .none }))
  ∧ (∀ c s x, s.dev.obj.ctxs.get? c = some x → x.st = .lost →
    Runs (.clusterStopIssue c) s fun t => (∀ kv ∈ t.dev.plaits, kv.2.ctx ≠ c) ∧ (∀ kv ∈ t.dev.arrays, ∀ o ∈ kv.2.queue, o.by_.ctx ≠ c)
      ∧ ∀ kv ∈ t.dev.slices, ∀ o ∈ kv.2.queue, o.by_.ctx ≠ c)
  ∧ (∀ tile cluster s c,
    let ck := ckey tile cluster
    (s.dev.cluster ck).ctx = some c → (s.dev.cluster ck).saveReq = true → (∀ kv ∈ s.dev.plaitsOn ck, kv.2.tokens = 0) →
    s.dev.stopped tile = false → (∀ z ∈ s.dev.stops, z.ck ≠ ck) →
    Runs (.plaitStateSave tile cluster) s fun t =>
      (∃ z, t.dev.saved = s.dev.saved ++ [z] ∧ z.ctx = c ∧ z.clm = (s.dev.cluster ck).clm ∧ z.badClm = (s.dev.cluster ck).badClm
        ∧ z.plaits = s.dev.plaitsOn ck ∧ z.groups = s.dev.groupsOn ck
        ∧ z.arrays = (s.dev.arrays.filter (fun kv => kv.1 / 4 = ck)).map (fun kv => (kv.1, { kv.2 with shadow := [], packing := false, compared := false })))
      ∧ t.dev.plaitsOn ck = [] ∧ t.dev.groupsOn ck = [] ∧ t.dev.cluster ck = { Cluster.clear with stretch := (s.dev.cluster ck).stretch })
  ∧ ∀ tile cluster s z,
    let ck := ckey tile cluster
    s.dev.saved.find? (fun z => s.dev.usable (s.dev.partOf z.ctx) tile cluster) = some z → (s.dev.cluster ck).saveReq = false → s.dev.plaitsOn ck = [] →
    (∀ z ∈ s.dev.stops, z.ck ≠ ck) →
    Runs (.plaitStateRestore tile cluster) s fun t =>
      t.dev.cluster ck = { Cluster.clear with ctx := some z.ctx, clm := z.clm, badClm := z.badClm, stretch := (s.dev.cluster ck).stretch } ∧ z ∉ t.dev.saved
      ∧ (z.plaits.Pairwise (fun a b => a.1 % 64 ≠ b.1 % 64) → ∀ kv ∈ z.plaits,
          t.dev.plaits.get? (ck * 64 + kv.1 % 64) = some { kv.2 with gk := ck * 64 + kv.2.gk % 64 })

/-- R123: a CPY ends with its bytes in the window, or in context memory, no other byte changed and its token free. R132, R133: ALLOC waits for the
allocator, whose answer is an address, or zero; FREE drops the owner reference of an object at its address, and any
other address is an ignored sequence with cause 0x07. -/
def Obligations.CopyEndAndAllocator : Prop :=
  (∀ r tok s o p d', CanonicalMem s.dev → d'.mem.bytes.wf = true → s.dev.stopped (pkTile (pkey r)) = false →
    s.dev.cpys.find? (fun o => o.pk = pkey r && o.token = tok) = some o → s.dev.plaits.get? (pkey r) = some p →
    s.dev.prepare p.ctx (pkTile (pkey r)) (if o.toMem then .store else .load) (spansOf o.va.toNat o.len) = .ok d' → d'.plaits = s.dev.plaits → d'.clusters = s.dev.clusters →
    (∀ n < o.len / 32, d'.cpyBadClm o n = false ∧ d'.cpyBadMem p.ctx o n = false) →
    let clm := (s.dev.cluster (pkCluster o.pk)).clm
    (o.toMem = false →
      Runs (.cpyComplete r tok) s fun t =>
        (∀ a, (t.dev.cluster (pkCluster o.pk)).clm.read a = if o.off ≤ a ∧ a < o.off + o.len then d'.vbyte p.ctx (o.va.toNat + (a - o.off)) else clm.read a)
        ∧ (PlaitThen r t fun p' => p'.tokens = p.tokens &&& ~~~(1#16 <<< tok) ∧ p'.regs = p.regs) ∧ t.dev.mem.bytes = d'.mem.bytes)
    ∧ (∀ x, o.toMem = true → d'.obj.ctxs.get? p.ctx = some x → d'.rse.wgs.get? x.part = none →
      (∀ n < o.len, ∀ m < o.len, d'.phys x (o.va.toNat + n) = d'.phys x (o.va.toNat + m) → n = m) →
      Runs (.cpyComplete r tok) s fun t =>
        (∀ n < o.len, ∀ a, d'.phys x (o.va.toNat + n) = some a → t.dev.mem.bytes.read a = clm.read (o.off + n))
        ∧ (∀ a, (∀ n < o.len, d'.phys x (o.va.toNat + n) ≠ some a) → t.dev.mem.bytes.read a = d'.mem.bytes.read a)
        ∧ (PlaitThen r t fun p' => p'.tokens = p.tokens &&& ~~~(1#16 <<< tok) ∧ p'.regs = p.regs) ∧ t.dev.clusters = d'.clusters))
  ∧ ∀ r e s p,
    (∀ lo rest, Issuing 0x71 r e s p → lanes (p.parts e) = lo :: rest → Runs (.alloc r e) s fun t => PlaitOnly r s t ∧ PlaitThen r t fun p' =>
      p' = { p with pc := p'.pc, active := p'.active, stack := p'.stack, bad := p'.bad, stall := .alloc e.d.toNat (p.rd64 e.a.toNat lo) (p.parts e) } ∧ GoesOn e p p')
    ∧ (∀ d size m, s.dev.plaits.get? (pkey r) = some p → p.stall = .alloc d size m →
      (size = 0 ∨ 2 ^ 46 < size.toNat ∨ s.dev.allocObj p.ctx size.toNat none 6 true = .no →
        Runs (.allocatorAnswer r) s fun t => PlaitThen r t fun p' => p'.stall = .none ∧ (d % 2 = 0 → d < 254 → ∀ k < 32, m.getLsbD k = true → p'.rd64 d k = 0))
      ∧ (∀ h va d', 0 < size.toNat → size.toNat ≤ 2 ^ 46 → s.dev.allocObj p.ctx size.toNat none 6 true = .ok h va d' → d'.plaits = s.dev.plaits →
        Runs (.allocatorAnswer r) s fun t => t.dev.obj = d'.obj ∧ PlaitThen r t fun p' => p'.stall = .none
          ∧ (d % 2 = 0 → d < 254 → ∀ k < 32, m.getLsbD k = true → p'.rd64 d k = BitVec.ofNat 64 va))
      ∧ ∀ d', 0 < size.toNat → size.toNat ≤ 2 ^ 46 → s.dev.allocObj p.ctx size.toNat none 6 true = .wait d' →
        Runs (.allocatorAnswer r) s fun t => t = { s with dev := d' })
    ∧ ∀ lo rest, Issuing 0x72 r e s p → lanes (p.parts e) = lo :: rest →
      let va := (p.rd64 e.a.toNat lo).toNat
      let mine (kv : Nat × MObj) : Bool := kv.2.va = va && kv.2.home = p.ctx && kv.2.ownerRef && kv.2.live
      (∀ k m, s.dev.obj.mobjs.find? mine = some (k, m) → 1 < m.drv → Rising s.dev.obj.mobjs →
        Runs (.free r e) s fun t => t.dev.obj.mobjs.get? k = some { m with ownerRef := false, drv := m.drv - 1 } ∧ PlaitThen r t fun p' => p'.regs = p.regs ∧ GoesOn e p p')
      ∧ (s.dev.obj.mobjs.find? mine = none →
        Runs (.free r e) s fun t => t.dev.obj.ignoredCount = s.dev.obj.ignoredCount + 1 ∧ t.dev.obj.ignCause = 0x07 ∧ t.dev.obj.mobjs = s.dev.obj.mobjs
          ∧ PlaitThen r t fun p' => p'.regs = p.regs ∧ GoesOn e p p')

/-! Matrix arrays (04). -/

/-- R149, R155, Table 4-4: an event acts on the first accepted operation whose conditions hold: that operation's phase moves, every other
operation, every other array, cluster memory and DRAM stay. R139: where what the event reads of the window, of a bank or of a buffer holds
an uncorrectable error, the fault is recorded with the instruction that issued the operation. R173, R154, R158: what a fragment write leaves
in its weight bank, what an initial load leaves in its buffer, and how the last results add each element's block sums in order onto its
initial value, where no word read is in error. -/
def Obligations.ArrayPhaseEvents : Prop :=
  (∀ row, row ∈ phaseRows ∨ row = ⟨.mxaInitLoadEnd, canInit, AOp.init, .done, fun _ => true, fun o => initReads o.desc, fun _ _ => false⟩ → ∀ a s j o,
    (s.dev.array (arrKey a)).first row.can = some j → (s.dev.array (arrKey a)).queue[j]? = some o → s.dev.stopped (ckTile (arrKey a / 4)) = false →
    row.kind o.kind = true →
    let off := (s.dev.cluster (arrKey a / 4)).badOff o.by_.base (row.clm o)
    (off = none → row.words (s.dev.array (arrKey a)) o = false →
      Runs (row.cmd a) s fun t =>
        (∃ o', (t.dev.array (arrKey a)).queue[j]? = some o' ∧ row.phase o' = row.tgt ∧ o'.kind = o.kind ∧ o'.desc = o.desc ∧ o'.by_ = o.by_)
        ∧ (∀ n, n ≠ j → (t.dev.array (arrKey a)).queue[n]? = (s.dev.array (arrKey a)).queue[n]?)
        ∧ (∀ k, k ≠ arrKey a → t.dev.array k = s.dev.array k) ∧ t.dev.clusters = s.dev.clusters ∧ t.dev.mem = s.dev.mem ∧ t.dev.plaits = s.dev.plaits)
    ∧ (off ≠ none ∨ row.words (s.dev.array (arrKey a)) o = true → Runs (row.cmd a) s fun t => OpFaulted s t (arrKey a / 4) o.by_ (off.getD 0)))
  ∧ (∀ a s j o,
    let k := arrKey a
    let before := s.dev.array k
    CanonicalMem s.dev → before.queue[j]? = some o → s.dev.stopped (ckTile (k / 4)) = false → NoErrors s k →
    (∀ f data, before.first canWend = some j → o.kind = .mxw f data → data.length = 512 →
      Runs (.mxaWeightLoadEnd a) s fun t => ∀ n, ((t.dev.array k).bank (f / 32)).read n =
        if 512 * (f % 32) ≤ n ∧ n < 512 * (f % 32) + 512 then data.getD (n - 512 * (f % 32)) 0 else (before.bank (f / 32)).read n)
    ∧ (before.first canInit = some j → dLo o.desc ≤ 64 → Runs (.mxaInitLoadEnd a) s fun t =>
      ∀ r < dM o.desc, ∀ c < dLo o.desc, accAt ((t.dev.array k).buf (o.ctrl 7 1)) r c =
        BitVec.ofNat 32 ((s.dev.aclm k).readLE (o.by_.base + df o.desc 0x18 4 + 32 * df o.desc 0x2C 2 * r + 4 * c) 4))
    ∧ (before.first canResult = some j → dLo o.desc ≤ 64 → Runs (.mxaLastResult a) s fun t =>
      ∀ n < o.qs.length, accAt ((t.dev.array k).buf (o.ctrl 7 1)) (n / dLo o.desc) (n % dLo o.desc) =
        (o.qs.getD n []).foldl fadd32 (if dInit o.desc = 0 then 0 else accAt (before.buf (o.ctrl 7 1)) (n / dLo o.desc) (n % dLo o.desc))))

/-- R164, R168, R157: the end of a drain pass encodes the tile, or leaves a second pass where the rim shifts or the drain runs
amax-first; completion makes the writes and the status record visible in cluster memory, writes the registers of a fragment read, removes the
operation and frees its token. -/
def Obligations.DrainAndCompletion : Prop :=
  ∀ a s j o,
    let k := arrKey a
    let before := s.dev.array k
    before.queue[j]? = some o → s.dev.stopped (ckTile (k / 4)) = false →
    (before.first canDrainEnd = some j → (o.pass = 0 → badWord before.badA (o.ctrl 7 1) o.bufRanges = false) →
      let vs := if o.pass = 0 then o.region before else o.vs
      let out := drainOut o.outSpec o.amaxFirst vs
      Runs (.mxaDrainPassEnd a) s fun t => t.dev.clusters = s.dev.clusters ∧ ∃ o', (t.dev.array k).queue[j]? = some o' ∧
        if (out.recomputed || o.amaxFirst) && o.pass = 0 then o' = { o with pass := 1, vs := vs }
        else o'.drain = .done ∧ o'.pass = o.pass + 1 ∧ ∃ smp, o'.out = some { out with sampled := smp })
    ∧ (before.first canDrainEnd = some j → o.pass = 0 → badWord before.badA (o.ctrl 7 1) o.bufRanges = true →
      Runs (.mxaDrainPassEnd a) s fun t => OpFaulted s t (k / 4) o.by_ 0)
    ∧ (before.first canComplete = some j →
      Runs (.mxaOpComplete a) s fun t =>
        (∃ cycles : W64, (t.dev.cluster (k / 4)).clm = (s.dev.cluster (k / 4)).clm.apply
          ((match o.out with | some u => u.writes | none => []) ++ o.redw
            ++ (if (match o.kind with | .mxw _ _ => false | .mxr _ _ _ => false | _ => dStat o.desc) then byteWrites (o.by_.base + df o.desc 0x44 4) (statusRecord o.out cycles) else [])))
        ∧ (t.dev.array k).queue = before.queue.eraseIdx j
        ∧ ∀ p, s.dev.plaits.get? o.by_.pk = some p → ∃ p', t.dev.plaits.get? o.by_.pk = some p' ∧ p'.tokens = p.tokens &&& ~~~(1#16 <<< o.by_.token)
          ∧ match o.kind with
            | .mxr _ r m => o.regs.length = 128 →
                (r + 4 ≤ 255 → ∀ n < 32, m.getLsbD n = true → ∀ i < 4, p'.rd (r + i) n = o.regs.getD (4 * n + i) 0)
                ∧ ∀ n < 32, ∀ x < 255, ¬(m.getLsbD n = true ∧ r ≤ x ∧ x < r + 4) → p'.rd x n = p.rd x n
            | _ => p'.regs = p.regs)

/-- R149: MATMUL, LOADW and DRAIN as whole operations: the oldest operation of the array, when it is of that kind, fresh and not fused, runs
through all its events, leaves the queue and frees its token, where no word of its cluster and array is in error. R162, R163, R170, R171:
packing stops after 63 gap cycles, less those that shadow work takes in the gap; a comparison takes the oldest held shadow entry and counts
it, and one above the threshold sets the sticky alarm. -/
def Obligations.WholeArrayOperations : Prop :=
  (∀ row ∈ wholeRows, ∀ a s o rest x c sl b, (s.dev.array (arrKey a)).queue = o :: rest → o = AOp.fresh row.2 x c sl b → o.fuse = false →
    s.dev.stopped (ckTile (arrKey a / 4)) = false → NoErrors s (arrKey a) →
    Runs (row.1 a) s fun t => (t.dev.array (arrKey a)).queue = rest
      ∧ ∀ p, s.dev.plaits.get? b.pk = some p → ∃ p', t.dev.plaits.get? b.pk = some p' ∧ p'.tokens = p.tokens &&& ~~~(1#16 <<< b.token) ∧ p'.regs = p.regs)
  ∧ (∀ a s,
    let k := arrKey a
    let n := ckTile (k / 4)
    s.dev.stopped n = false →
    ((s.dev.array k).packing = true ∨ (s.dev.array k).streams = true →
      Runs (.mxaPackingStop a) s fun t => (t.dev.array k) = { s.dev.array k with packing := false, compared := false } ∧ t.dev.parts = s.dev.parts
        ∧ ∃ c < 64, (t.dev.tile n).mxa = { (s.dev.tile n).mxa with pack := ((s.dev.tile n).mxa.pack + c) % 2 ^ 64 }
          ∧ ((s.dev.array k).shadow = [] → (s.dev.array k).compared = false → c = 63))
    ∧ ∀ e rest, (s.dev.array k).shadow = e :: rest →
      Runs (.shadowCompare a) s fun t =>
        let isOver := decide (0 < cmpV (shadowErr (s.dev.tile n).mxa.shFmt e) (.fin false 1 (2 ^ (s.dev.tile n).mxa.shThresh)))
        (t.dev.array k) = { s.dev.array k with shadow := rest, compared := true } ∧ (t.dev.tile n).mxa.compared = ((s.dev.tile n).mxa.compared + 1) % 2 ^ 32
        ∧ (t.dev.tile n).mxa.alarm = ((s.dev.tile n).mxa.alarm || isOver)
        ∧ (t.dev.tile n).mxa.alarms = if isOver then min 0xFFFF ((s.dev.tile n).mxa.alarms + 1) else (s.dev.tile n).mxa.alarms)

/-! Element chains (06). -/

/-- R213, R214, Table 6-5: the next instruction of a running chain gives every element of the region its result in temporary D and leaves the
other temporaries, the inputs and the channels. R222: PERM reads source A of the element it names in its group of 32 columns; a lane out of
range gives +0, sets PERM_OOR, names the context and counts the instruction. -/
def Obligations.ChainInstructionResults : Prop :=
  (∀ row ∈ chainRows, ∀ u s c r,
    let k := sliceKey u
    s.dev.curChain k = some c → (s.dev.slice k).run = some r → r.next < cNinstr c.x → iOp (cIns c.x r.next) = row.op → s.dev.stopped (ckTile (k / 4)) = false →
    r.temps.length = r.m * r.l → (∀ t ∈ r.temps, t.length = 16) →
    Runs (row.cmd u) s fun t => ∃ r', (t.dev.slice k).run = some r' ∧ r' = { r with next := r.next + 1, temps := r'.temps } ∧ r'.temps.length = r.temps.length
      ∧ (∀ j, j ≠ k → t.dev.slice j = s.dev.slice j) ∧ t.dev.clusters = s.dev.clusters
      ∧ ∀ e < r.m * r.l, ∀ n < 16, (r'.temps.getD e []).getD n 0 =
          if n = iD (cIns c.x r.next) then
            (let w := cIns c.x r.next
             let g (sel : Nat) : W32 := operand c.x r (iImm w) e sel
             let word := c.word r (iImm w) e
             row.res (iFn w) (match iRm w with | 0 => .rne | 1 => .rtz | _ => .sto word) word (g (iA w)) (g (iB w)) (g (iC w)))
          else (r.temps.getD e []).getD n 0)
  ∧ (∀ u s c r,
    let k := sliceKey u
    s.dev.curChain k = some c → (s.dev.slice k).run = some r → r.next < cNinstr c.x → iOp (cIns c.x r.next) = 0x16 → s.dev.stopped (ckTile (k / 4)) = false →
    r.temps.length = r.m * r.l → (∀ t ∈ r.temps, t.length = 16) →
    let w := cIns c.x r.next
    let src (e : Nat) : Option Nat := permFrom r (operand c.x r (iImm w) e (iB w)) e
    Runs (.chPerm u) s fun t => (∃ r', (t.dev.slice k).run = some r' ∧ r'.next = r.next + 1
        ∧ ∀ e < r.m * r.l, (r'.temps.getD e []).getD (iD w) 0 = match src e with | some f => canon (operand c.x r (iImm w) f (iA w)) | none => 0)
      ∧ t.dev.cluster (k / 4) = if (List.range (r.m * r.l)).any (fun e => (src e).isNone)
          then { s.dev.cluster (k / 4) with permOor := true, oorCtx := c.ctx, oorCount := min 0xFFFF ((s.dev.cluster (k / 4)).oorCount + 1) } else s.dev.cluster (k / 4))

/-- R208, R224, R225, R223, R237: a standalone chain starts when its slice is free and no fused drain is ready, reads its inputs, or faults at
an uncorrectable error there, runs its program, ends its output pass, or leaves a second one where the rim shifts, and completes: its writes
are then visible and its token free. R219, R224, R226: a fused drain starts on a free slice with the buffer's region as its inputs. Its
first pass runs the chain; where the rim shifts or the drain runs amax-first, the outputs stay in the staging buffer for a second pass, else
the drain ends with them. The second pass encodes the staged values. When the drain ends the slice is free. -/
def Obligations.ChainLifeCycle : Prop :=
  (∀ u s j o,
    let k := sliceKey u
    let at_ (ph : ChPh) : Prop := ((s.dev.slice k).queue.zipIdx.find? (fun o => o.1.ph == ph)) = some (o, j) ∧ s.dev.stopped (ckTile (k / 4)) = false
    let now (t : State) (P : ChainOp → Prop) : Prop := (∃ o', (t.dev.slice k).queue[j]? = some o' ∧ o'.desc = o.desc ∧ P o') ∧ t.dev.clusters = s.dev.clusters
    let off := (s.dev.cluster (k / 4)).badOff o.by_.base (chainReads o.desc false (cM o.desc) (cN o.desc))
    (at_ .queued → (s.dev.slice k).busy = false → s.dev.fusedReady k = none →
      Runs (.chainStart u) s fun t => now t fun o' => o'.ph = .started)
    ∧ (at_ .started → off = none → Runs (.chainChannelsLoaded u) s fun t => (now t fun o' => o'.ph = .loaded)
        ∧ (t.dev.slice k).run = some (o.cctx.begin_ (s.dev.aclm k) (cM o.desc) (cN o.desc) (o.source (s.dev.aclm k))))
    ∧ (at_ .started → off ≠ none → Runs (.chainChannelsLoaded u) s fun t => OpFaulted s t (k / 4) o.by_ (off.getD 0))
    ∧ (∀ r, at_ .loaded → (s.dev.slice k).run = some r → r.next = cNinstr o.desc →
        Runs (.chainStepsEnd u) s fun t => (now t fun o' => o'.ph = .stepped ∧ o'.vs = o.cctx.sel r (dc o.desc 56 5) ∧ o'.redw = o.cctx.redWrites r o.olds)
          ∧ (t.dev.slice k).run = none)
    ∧ (at_ .stepped →
        let out := drainOut o.outSpec o.amaxFirst o.vs
        Runs (.chainOutputPassEnd u) s fun t => now t fun o' =>
          if cYwr o.desc = true ∧ out.recomputed = true ∧ o.out = none then o'.ph = .stepped ∧ o'.out = some out
          else o'.ph = .passed ∧ (cYwr o.desc = true → o'.out = some out))
    ∧ ∀ rest, (s.dev.slice k).queue = o :: rest → o.ph = .passed → s.dev.stopped (ckTile (k / 4)) = false →
        Runs (.chainComplete u) s fun t => (t.dev.slice k).queue = rest
          ∧ (∃ cycles : W64, (t.dev.cluster (k / 4)).clm = (s.dev.cluster (k / 4)).clm.apply
              ((match o.out with | some u => u.writes | none => []) ++ o.redw
                ++ (if cStat o.desc then byteWrites (o.by_.base + df o.desc 0x1C 4) (statusRecord o.out cycles) else [])))
          ∧ ∀ p, s.dev.plaits.get? o.by_.pk = some p → ∃ p', t.dev.plaits.get? o.by_.pk = some p' ∧ p'.tokens = p.tokens &&& ~~~(1#16 <<< o.by_.token))
  ∧ (∀ u s ak j o,
    let k := sliceKey u
    let ended (t : State) (vs : List W32) (P : AOp → Prop) : Prop := (t.dev.slice k).fused = none
      ∧ ∃ o' smp, (t.dev.array ak).queue[j]? = some o' ∧ o'.drain = .done ∧ o'.out = some { drainOut o.outSpec o.amaxFirst vs with sampled := smp } ∧ P o'
    s.dev.stopped (ckTile (k / 4)) = false →
    (s.dev.fusedReady k = some (ak, j, o) → (s.dev.slice k).busy = false →
      (s.dev.cluster (k / 4)).badOff o.by_.base (chainReads o.chain true (dM o.desc) (dLo o.desc)) = none → badWord (s.dev.array ak).badA (o.ctrl 7 1) o.bufRanges = false →
      Runs (.fusedDrainPassStart u) s fun t => (t.dev.slice k).fused = some ak ∧ t.dev.clusters = s.dev.clusters
        ∧ (t.dev.slice k).run = some (o.cctx.begin_ (s.dev.aclm k) (dM o.desc) (dLo o.desc) (o.region (s.dev.array ak)))
        ∧ ∃ o', (t.dev.array ak).queue[j]? = some o' ∧ o'.drain = .run)
    ∧ (s.dev.fusedOp k = some (ak, j, o) →
      (∀ r, o.pass = 0 → (s.dev.slice k).run = some r → r.next = cNinstr o.chain →
        let vs := o.cctx.sel r (dc o.chain 56 5)
        Runs (.fusedDrainPassEnd u) s fun t => (t.dev.slice k).run = none ∧ (t.dev.slice k).staging = vs ∧
          if (drainOut o.outSpec o.amaxFirst vs).recomputed = true ∨ o.amaxFirst = true
          then (t.dev.slice k).fused = some ak ∧ ∃ o', (t.dev.array ak).queue[j]? = some o' ∧ o'.drain = .run ∧ o'.pass = 1
          else ended t vs fun o' => o'.redw = o.cctx.redWrites r (s.dev.slice k).olds)
      ∧ (o.pass = 1 → (s.dev.slice k).badS = [] → Runs (.fusedDrainPassEnd u) s fun t => ended t (s.dev.slice k).staging fun o' => o'.redw = o.redw)
      ∧ (o.pass ≠ 0 → (s.dev.slice k).badS ≠ [] → Runs (.fusedDrainPassEnd u) s fun t => OpFaulted s t (k / 4) o.by_ 0)))

/-! Object commands of the submission ports (09). -/

/-- R307, R308, R328: a command written while its port is BUSY, or with a non-zero CMD[63:8], has no effect but to be counted with its cause, the
port, and bits of its arguments: of Q_COMMIT the queue and the first index, else ARG0[47:0]. -/
def Obligations.IgnoredObjectCommands : Prop :=
  ∀ i row, objRows[i]? = some row → ∀ port hi s, port < 16 →
    let v := s.dev.oport port
    let det := if i = 5 then v.arg0.toNat % 2 ^ 16 * 2 ^ 32 + v.arg1.toNat % 2 ^ 32 else v.arg0.toNat % 2 ^ 48
    let counted (cause : Nat) (ports : Tbl OPort) : State :=
      let o := { s.dev.obj with ignoredCount := s.dev.obj.ignoredCount + 1, ignCause := cause, ignSource := port, ignDetail := det, ports := ports }
      { s with dev := { s.dev with obj := o } }
    (s.dev.portBusy port = true → Runs (row port hi) s fun t => t = counted 0x08 s.dev.obj.ports)
    ∧ (s.dev.portBusy port = false → hi ≠ 0 → Runs (row port hi) s fun t => t = counted 0x01 t.dev.obj.ports
        ∧ t.dev.oport port = { s.dev.oport port with ignored := true, status := 0 } ∧ ∀ k, k ≠ port → t.dev.oport k = s.dev.oport k)

/-- R309, R325, R313: CTX_CREATE takes the lowest free slot, or answers 0xFF where none is left; CTX_DESTROY begins the teardown, whose end frees the
slot once no command is left, unless a waling slot holds an object of the context; ACK clears the fault records of a context under the fence
binding and is ignored in the native one. -/
def Obligations.ContextCommands : Prop :=
  ∀ port s,
    let v := s.dev.oport port
    let c := v.arg0.toNat
    (∀ u loc, PortReady s port → s.dev.parts.get? c = some u → c < 8 → v.arg1.toNat < 2 → v.arg3 = 0 →
      (s.dev.obj.ctxs.filter (fun kv => kv.2.part = c)).length < (s.dev.sztE c 20).toNat → firstFree s.dev.obj.ctxs 64 0 < 64 →
      s.dev.pickSub c u.lead = some loc →
      Runs (.ctxCreate port 0) s fun t =>
        let n := firstFree s.dev.obj.ctxs 64 0
        Answers t port 0 (BitVec.ofNat 64 n) 0 ∧ s.dev.obj.ctxs.get? n = none
        ∧ (∃ x, t.dev.obj.ctxs.get? n = some x ∧ x.st = .active ∧ x.compat = (v.arg1 != 0) ∧ x.part = c ∧ x.memLimit = v.arg2.toNat ∧ x.fault = none
            ∧ x.memFault = none ∧ x.pages = [] ∧ x.ptLocs = [loc])
        ∧ ∀ k, k ≠ n → t.dev.obj.ctxs.get? k = s.dev.obj.ctxs.get? k)
    ∧ (∀ u, PortReady s port → s.dev.parts.get? c = some u → c < 8 → v.arg1.toNat < 2 → v.arg3 = 0 →
      (s.dev.sztE c 20).toNat ≤ (s.dev.obj.ctxs.filter (fun kv => kv.2.part = c)).length ∨ 64 ≤ firstFree s.dev.obj.ctxs 64 0 →
      Runs (.ctxCreate port 0) s fun t => Answers t port 0 0xFF 0 ∧ t.dev.obj.ctxs = s.dev.obj.ctxs)
    ∧ (∀ x, PortReady s port → s.dev.obj.ctxs.get? c = some x → c < 64 → x.st ≠ .teardown → v.arg1 = 0 → v.arg2 = 0 → v.arg3 = 0 →
      Runs (.ctxDestroy port 0) s fun t => Answers t port 0 0 0 ∧ (t.dev.obj.ctxs.get? c).map (fun x => x.st) = some .teardown)
    ∧ (∀ n x, s.dev.obj.ctxs.get? n = some x →
      (x.st = .teardown → s.dev.cmdsOf n (fun _ => true) = [] → Rising s.dev.obj.ctxs →
        Runs (.ctxTeardownComplete n) s fun t => (∀ kv ∈ t.dev.obj.queues, kv.2.ctx ≠ n) ∧ (∀ z ∈ t.dev.saved, z.ctx ≠ n)
          ∧ if s.dev.walingHolds n = true then t.dev.obj.ctxs.get? n = some { x with kept := true } else t.dev.obj.ctxs.get? n = none)
      ∧ (x.st ≠ .teardown ∨ s.dev.cmdsOf n (fun _ => true) ≠ [] → Runs (.ctxTeardownComplete n) s fun t => t = s))
    ∧ ∀ n x (w : W64), s.dev.obj.ctxs.get? n = some x →
      (w.getLsbD 0 = false → Runs (.ack n w) s fun t => t = s) ∧ (w.getLsbD 0 = true →
      (x.compat = true → Runs (.ack n w) s fun t => t.dev.obj.ctxs.get? n = some { x with fault := none, memFault := none }
        ∧ t.dev.obj.ignoredCount = s.dev.obj.ignoredCount)
      ∧ (x.compat = false → Runs (.ack n w) s fun t => t.dev.obj.ctxs = s.dev.obj.ctxs ∧ t.dev.obj.ignoredCount = s.dev.obj.ignoredCount + 1
        ∧ t.dev.obj.ignCause = 0x08))

/-- R314 to R319: the queue commands, on a queue that is not being destroyed; R318, R326: an ABORT of a command that has not started completes it with
ABORTED, which its COMPLETION word says where that word lies in no sub-page in use and the command's objects are still referenced; of one that runs
on clusters or an engine, or of a collective under way, it waits; of a retired one it answers ALREADY_DONE. -/
def Obligations.QueueCommands : Prop :=
  ∀ port s, PortReady s port →
    let v := s.dev.oport port
    let q := v.arg0.toNat
    (∀ x, s.dev.obj.ctxs.get? q = some x → q < 256 → v.arg1.toNat < 2 ^ 52 → 6 ≤ v.arg2.toNat → v.arg2.toNat ≤ 16 → v.arg3 = 0 →
      ringOk v.arg1.toNat v.arg2.toNat = true → (s.dev.obj.queues.filter (fun kv => kv.2.part = x.part)).length < (s.dev.sztE x.part 21).toNat →
      firstFree s.dev.obj.queues 1024 0 < 1024 →
      Runs (.qCreate port 0) s fun t => Answers t port 0 (BitVec.ofNat 64 (firstFree s.dev.obj.queues 1024 0)) 0
        ∧ t.dev.obj.queues.get? (firstFree s.dev.obj.queues 1024 0) = some ⟨if x.st == .active then .active else .stopped, x.part, v.arg2.toNat, q, 0, 0, 0, v.arg1.toNat, []⟩)
    ∧ ∀ u, s.dev.obj.queues.get? q = some u → q < 1024 → u.st ≠ .destroying →
      (v.arg1 = 0 → v.arg2 = 0 → v.arg3 = 0 → (∀ kv ∈ u.cmds, kv.2.st = .retired) → Rising s.dev.obj.queues →
        Runs (.qDestroy port 0) s fun t => Answers t port 0 0 0 ∧ t.dev.obj.queues.get? q = none)
      ∧ (v.arg1 = 0 → v.arg2 = 0 → v.arg3 = 0 → (∃ i c, u.cmds.get? i = some c ∧ c.st = .running) →
        Runs (.qDestroy port 0) s fun t => Answers t port 0 0 0 ∧ (t.dev.obj.queues.get? q).map (fun u => u.st) = some .destroying)
      ∧ (∀ x, s.dev.obj.ctxs.get? u.ctx = some x → 1 ≤ v.arg1.toNat → v.arg1.toNat ≤ 256 → v.arg2 = 0 → v.arg3 = 0 →
        (x.st ≠ .active → Runs (.qReserve port 0) s fun t => Answers t port 0x10 0 0 ∧ t.dev.obj.queues = s.dev.obj.queues)
        ∧ (x.st = .active → u.st = .blocked → Runs (.qReserve port 0) s fun t => Answers t port 0x04 0 0 ∧ t.dev.obj.queues = s.dev.obj.queues))
      ∧ (∀ x, s.dev.obj.ctxs.get? u.ctx = some x → x.st = .active → u.st ≠ .blocked → 1 ≤ v.arg1.toNat → v.arg1.toNat ≤ 256 → v.arg2 = 0 → v.arg3 = 0 →
        ((u.reserved - u.head).toNat + v.arg1.toNat ≤ 2 ^ u.log2 →
          Runs (.qReserve port 0) s fun t => Answers t port 0 (u.reserved.setWidth 64) 0
            ∧ t.dev.obj.queues.get? q = some { u with reserved := u.reserved + v.arg1.setWidth 32 })
        ∧ (2 ^ u.log2 < (u.reserved - u.head).toNat + v.arg1.toNat →
          Runs (.qReserve port 0) s fun t => Answers t port 0x03 0 0 ∧ t.dev.obj.queues = s.dev.obj.queues))
      ∧ (∀ x, s.dev.obj.ctxs.get? u.ctx = some x → x.st ≠ .teardown → v.arg1.toNat < 2 ^ 32 → v.arg2 = 1 → v.arg3 = 0 →
        s.dev.badIn (u.entryAddr v.arg1.toNat) 128 = false →
        let e := Cmd.fresh (BitVec.ofNat 1024 (leNat (s.dev.dramRead (u.entryAddr v.arg1.toNat) 128)))
        (s.dev.commitCause u (v.arg1.setWidth 32) e = 0 → u.st ≠ .stopped →
          Runs (.qCommit port 0) s fun t => Answers t port 0 1 0 ∧ t.dev.cmd? q v.arg1.toNat = some e)
        ∧ (s.dev.commitCause u (v.arg1.setWidth 32) e = 0 → u.st = .stopped →
          Runs (.qCommit port 0) s fun t => Answers t port 0 1 0 ∧ ∀ k, t.dev.cmd? q v.arg1.toNat = some k → k.st = .retired)
        ∧ (s.dev.commitCause u (v.arg1.setWidth 32) e ≠ 0 → u.st ≠ .stopped →
          Runs (.qCommit port 0) s fun t => Answers t port 0 0 0 ∧ t.dev.obj.ignoredCount = s.dev.obj.ignoredCount + 1
            ∧ t.dev.obj.ignCause = s.dev.commitCause u (v.arg1.setWidth 32) e ∧ t.dev.obj.queues = s.dev.obj.queues))
      ∧ (u.st = .blocked → v.arg1 = 0 → v.arg2 = 0 → v.arg3 = 0 →
        Runs (.qResume port 0) s fun t => Answers t port 0 0 0 ∧ t.dev.obj.queues.get? q = some { u with st := .active })
      ∧ (u.st = .blocked → v.arg1 = 1 → v.arg2 = 0 → v.arg3 = 0 → Rising u.cmds →
        Runs (.qResume port 0) s fun t => Answers t port 0 0 0 ∧ ∃ u', t.dev.obj.queues.get? q = some u' ∧ u'.st = .active
          ∧ ∀ kv ∈ u'.cmds, kv.2.st ≠ .queued ∧ kv.2.st ≠ .waiting ∧ kv.2.st ≠ .ready)
      ∧ ∀ c, u.cmds.get? v.arg1.toNat = some c → v.arg1.toNat < 2 ^ 32 → v.arg2 = 0 → v.arg3 = 0 →
        (v.arg1.setWidth 32 - u.head).toNat < (u.committed - u.head).toNat →
        let word := u.entryAddr v.arg1.toNat + 0x78
        (c.st ≠ .retired → c.st ≠ .running → c.opc ≠ 4 ∨ c.st ≠ .admitted →
          Runs (.abort port 0) s fun t => Answers t port 1 0 0
            ∧ (CanonicalMem s.dev → (∀ b < 8, s.dev.mem.used.get? ((word + b) / 65536) = none) → (∀ h ∈ c.objs, ∀ m, s.dev.obj.mobjs.get? (h % 2 ^ 20) = some m → 0 < m.drv) →
              t.dev.dramRead word 8 = leBytes 8 (2 ^ 63 + 1)))
        ∧ (c.st = .running ∧ c.opc ≠ 4 ∧ (s.dev.hasPlaits q v.arg1.toNat = true ∨ s.dev.onEngine q v.arg1.toNat = true) ∨ c.opc = 4 ∧ (c.st = .admitted ∨ c.st = .running) →
          Runs (.abort port 0) s fun t => (t.dev.oport port).busy = true ∧ ∃ c', t.dev.cmd? q v.arg1.toNat = some c' ∧ c'.st = c.st
            ∧ c'.stop = if c.opc = 4 then c.stop else some (c.stop.getD 1))
        ∧ (c.st = .retired → Runs (.abort port 0) s fun t => Answers t port 2 0 0 ∧ t.dev.obj.queues = s.dev.obj.queues)

/-- R322 to R324: the commands of memory objects. -/
def Obligations.MemoryObjectCommands : Prop :=
  ∀ port s, PortReady s port →
    let v := s.dev.oport port
    let h := v.arg0.toNat
    let slot := h % 2 ^ 20
    (∀ k va d', h < 256 → 1 ≤ v.arg1.toNat → v.arg1.toNat ≤ 2 ^ 46 → v.arg2 = 0 → v.arg3.toNat < 8 →
      s.dev.allocObj h v.arg1.toNat none v.arg3.toNat false = .ok k va d' → s.dev.obj.ctxs.get? h ≠ none →
      Runs (.moCreate port 0) s fun t => Answers t port 0 (BitVec.ofNat 64 k) (BitVec.ofNat 64 va)
        ∧ ∃ m, t.dev.obj.mobjs.get? (k % 2 ^ 20) = some m ∧ m.gen = k / 2 ^ 20 ∧ m.owner = h ∧ m.size = v.arg1.toNat ∧ m.va = va ∧ m.perm = v.arg3.toNat
            ∧ m.drv = 1 ∧ m.cmd = 0 ∧ m.live = true ∧ m.maps = [⟨h, va, v.arg3.toNat⟩])
    ∧ (h < 256 → 1 ≤ v.arg1.toNat → v.arg1.toNat ≤ 2 ^ 46 → v.arg2 = 0 → v.arg3.toNat < 8 → s.dev.obj.ctxs.get? h ≠ none →
      (s.dev.allocObj h v.arg1.toNat none v.arg3.toNat false = .no →
        Runs (.moCreate port 0) s fun t => Answers t port 0 0 0 ∧ t.dev.obj.mobjs = s.dev.obj.mobjs)
      ∧ ∀ d', s.dev.allocObj h v.arg1.toNat none v.arg3.toNat false = .wait d' →
        Runs (.moCreate port 0) s fun t => (t.dev.oport port).busy = true ∧ (t.dev.oport port).retry = some 8 ∧ t.dev.mem = d'.mem)
    ∧ ∀ m, s.dev.obj.mobjs.get? slot = some m → m.gen = h / 2 ^ 20 → h < 2 ^ 32 →
      (m.live = true → m.drv < 65535 → v.arg1 = 0 → v.arg2 = 0 → v.arg3 = 0 →
        Runs (.moRetain port 0) s fun t => Answers t port 0 (BitVec.ofNat 64 (m.drv + 1)) 0 ∧ t.dev.obj.mobjs.get? slot = some { m with drv := m.drv + 1 })
      ∧ (v.arg1 = 0 → v.arg2 = 0 → v.arg3 = 0 → Rising s.dev.obj.mobjs →
        (1 < m.drv → Runs (.moRelease port 0) s fun t => Answers t port 0 (BitVec.ofNat 64 (m.drv - 1)) 0
          ∧ t.dev.obj.mobjs.get? slot = some { m with drv := m.drv - 1 })
        ∧ (m.drv = 1 → m.cmd = 0 → Runs (.moRelease port 0) s fun t => Answers t port 0 0 0 ∧ t.dev.obj.mobjs.get? slot = none)
        ∧ (m.drv = 0 → Runs (.moRelease port 0) s fun t => t.dev.obj.mobjs = s.dev.obj.mobjs ∧ t.dev.obj.ignCause = 0x07
          ∧ t.dev.obj.ignoredCount = s.dev.obj.ignoredCount + 1))
      ∧ (∀ x k d', m.live = true → s.dev.obj.ctxs.get? v.arg1.toNat = some x → v.arg1.toNat < 256 → x.part = m.part → v.arg3.toNat < 8 →
        (∀ a ∈ m.maps, a.ctx ≠ v.arg1.toNat) → v.arg3.toNat &&& m.perm = v.arg3.toNat → (if v.arg2 = 0 then lowestRange x (objPages m.size) = some k else vaOk x v.arg2.toNat (objPages m.size) = true ∧ k = v.arg2.toNat / 2 ^ 21) →
        s.dev.mapObj v.arg1.toNat slot k (objPages m.size) v.arg3.toNat = .ok d' →
        Runs (.moMap port 0) s fun t => Answers t port 0 0 (BitVec.ofNat 64 (k * 2 ^ 21)) ∧ ∃ x', t.dev.obj.ctxs.get? v.arg1.toNat = some x'
          ∧ ∀ j < objPages m.size, x'.pages.get? (k + j) = some ⟨v.arg3.getLsbD 2, v.arg3.getLsbD 1, v.arg3.getLsbD 0, slot, j⟩)
      ∧ (∀ x, m.live = true → s.dev.obj.ctxs.get? v.arg1.toNat = some x → v.arg1.toNat < 256 → x.part = m.part → v.arg2 = 0 → v.arg3 = 0 →
        (∃ a ∈ m.maps, a.ctx = v.arg1.toNat) → ceilDiv (ptBytes (x.pages.filter (fun kv => kv.2.obj != slot))) 65536 ≤ x.ptLocs.length →
        Runs (.moUnmap port 0) s fun t => Answers t port 0 0 0
          ∧ ∃ x', t.dev.obj.ctxs.get? v.arg1.toNat = some x' ∧ x'.pages = x.pages.filter (fun kv => kv.2.obj != slot))
      ∧ (v.arg1 = 0 → v.arg2 = 0 → v.arg3 = 0 →
        Runs (.moQuery port 0) s fun t => t = { s with dev := { s.dev with obj := { s.dev.obj with ports := t.dev.obj.ports } } } ∧
          ∃ r : W64, Answers t port 0 r (BitVec.ofNat 64 m.va) ∧ r.extractLsb' 48 16 = BitVec.ofNat 16 m.drv ∧ r.extractLsb' 16 32 = BitVec.ofNat 32 m.cmd
            ∧ r.getLsbD 15 = m.ownerRef ∧ r.getLsbD 14 = m.live ∧ r.extractLsb' 11 3 = BitVec.ofNat 3 m.perm ∧ r.extractLsb' 0 6 = BitVec.ofNat 6 m.owner)

/-- R320, R321: the commands of fences: a signal raises VALUE and never lowers it, and a failed fence keeps its value. -/
def Obligations.FenceCommands : Prop :=
  ∀ port s, PortReady s port →
    let v := s.dev.oport port
    let h := v.arg0.toNat
    let slot := h % 2 ^ 14
    (∀ x, s.dev.obj.ctxs.get? h = some x → h < 256 → v.arg2 = 0 → v.arg3 = 0 →
      (s.dev.obj.fences.filter (fun kv => kv.2.part = x.part)).length < (s.dev.sztE x.part 22).toNat → firstFree s.dev.obj.fences 16384 0 < 16384 →
      let n := firstFree s.dev.obj.fences 16384 0
      let gen := s.dev.obj.fenceGen.getD n 1
      Runs (.fCreate port 0) s fun t => Answers t port 0 (BitVec.ofNat 64 (gen * 2 ^ 14 + n)) 0
        ∧ t.dev.obj.fences.get? n = some ⟨gen, x.part, h, v.arg1, 0, false, false, 0⟩)
    ∧ ∀ f, s.dev.obj.fences.get? slot = some f → f.gen = h / 2 ^ 14 → f.dead = false → h < 2 ^ 32 →
      (v.arg1 = 0 → v.arg2 = 0 → v.arg3 = 0 → Rising s.dev.obj.fences →
        Runs (.fDestroy port 0) s fun t => Answers t port 0 0 0 ∧ t.dev.obj.fences.get? slot = if f.refs = 0 then none else some { f with dead := true })
      ∧ (v.arg1.toNat < 2 → v.arg2 = 0 → v.arg3 = 0 →
        Runs (.fExport port 0) s fun t => Answers t port 0 0 0 ∧ t.dev.obj.fences.get? slot = some { f with exported := v.arg1 != 0 })
      ∧ (∀ x, s.dev.obj.ctxs.get? v.arg1.toNat = some x → v.arg1.toNat < 256 → x.st ≠ .teardown → f.part = x.part → v.arg3 = 0 →
        (f.owner ≠ v.arg1.toNat → Runs (.fSignal port 0) s fun t => t.dev.obj.fences = s.dev.obj.fences ∧ t.dev.obj.ignCause = 0x06
          ∧ t.dev.obj.ignoredCount = s.dev.obj.ignoredCount + 1)
        ∧ (f.owner = v.arg1.toNat →
        Runs (.fSignal port 0) s fun t => Answers t port 0 0 0 ∧ t.dev.obj.fences.get? slot =
          some { f with value := if f.status = 0 then (if f.value < v.arg2 then v.arg2 else f.value) else f.value }))
      ∧ (v.arg1 = 0 → v.arg2 = 0 → v.arg3 = 0 →
        Runs (.fQuery port 0) s fun t => t = { s with dev := { s.dev with obj := { s.dev.obj with ports := t.dev.obj.ports } } } ∧
          ∃ r : W64, Answers t port 0 f.value r ∧ r.extractLsb' 0 8 = BitVec.ofNat 8 f.status ∧ r.getLsbD 8 = f.exported
            ∧ r.extractLsb' 16 6 = BitVec.ofNat 6 f.owner ∧ r.extractLsb' 32 32 = BitVec.ofNat 32 f.refs)

/-! Queued commands (09 R315, R318, R320; 10 R337, R338). -/

/-- R318, R320, Table 9-7: a command that may leave QUEUED waits on its fence, becomes READY (and may be admitted at once), or retires where the fence
has failed; the fence of a waiting command is evaluated again; a COPY that ends has moved its bytes and completes OK, where its objects are
still referenced. -/
def Obligations.CommandsLeaveQueueAndEnd : Prop :=
  ∀ q i s u c, s.dev.obj.queues.get? q = some u → s.dev.cmd? q i = some c →
    let now (t : State) : Option CmdSt := (t.dev.cmd? q i).map (fun k => k.st)
    let ready (t : State) : Prop := now t = some .ready ∨ now t = some .admitted
    let gone (t : State) : Prop := now t = none ∨ now t = some .retired
    (∀ p, u.mayLeave i c = true → s.dev.parts.get? u.part = some p → c.pinned = false → c.cost ≤ p.budgetFor p.rnd.period 0 c.clsOf →
      (c.wait = false ∨ s.dev.waitRes c = .satisfied → Runs (.cmdLeaveQueued q i) s ready)
      ∧ (c.wait = true → s.dev.waitRes c = .waiting → Runs (.cmdLeaveQueued q i) s fun t => now t = some .waiting)
      ∧ ∀ code, c.wait = true → s.dev.waitRes c = .failed code → Runs (.cmdLeaveQueued q i) s gone)
    ∧ (∀ p, c.st = .waiting → s.dev.parts.get? u.part = some p → c.pinned = false → c.cost ≤ p.budgetFor p.rnd.period 0 c.clsOf →
      (s.dev.waitRes c = .satisfied → Runs (.cmdWaitSatisfied q i) s ready)
      ∧ (s.dev.waitRes c = .waiting → Runs (.cmdWaitSatisfied q i) s fun t => now t = some .waiting)
      ∧ ∀ code, s.dev.waitRes c = .failed code → Runs (.cmdWaitSatisfied q i) s gone)
    ∧ ∀ d1 d', c.opc = 3 → c.st = .running → c.stop = none →
      let rs := rngOf .load (c.pay 0 8) (c.pay 16 8) ++ rngOf .store (c.pay 8 8) (c.pay 16 8)
      s.dev.engWaits u.ctx (s.dev.leadOf u.part) rs = none → d1 = s.dev.engLoads u.ctx (s.dev.leadOf u.part) rs →
      d1.copyBad u.ctx (c.pay 0 8) (c.pay 8 8) (c.pay 16 8) = none →
      d1.engWrite u.ctx (s.dev.leadOf u.part) (c.pay 8 8) (d1.vread u.ctx (c.pay 0 8) (c.pay 16 8)) = d' → d'.mem.bytes.wf = true →
      d'.obj.queues = s.dev.obj.queues → StillReferenced d' c →
      Runs (.copyComplete q i) s fun t => t.dev.dramRead (u.entryAddr i + 0x78) 8 = leBytes 8 (2 ^ 63)
        ∧ ∀ a, (a < u.entryAddr i + 0x78 ∨ u.entryAddr i + 0x80 ≤ a) → t.dev.mem.bytes.read a = d'.mem.bytes.read a

/-- R315, 08 R290: an ADMITTED command that is dispatched in the order of its queue runs: a LAUNCH with its arguments read, a COPY with its pages
pinned, a COLL with its run in its group and its JOIN sent, an UPDATE with its descriptor and hyperparameters; a SYNC completes OK at once, and
so does an UPDATE that its gate skips. -/
def Obligations.DispatchStartsCommands : Prop :=
  ∀ q i s u c, s.dev.obj.queues.get? q = some u → s.dev.cmd? q i = some c → c.st = .admitted → c.stop = none → u.undispatched i = false →
    let n := s.dev.obj.dispatched + 1
    let d0 := Dev.updCmd { s.dev with obj := { s.dev.obj with dispatched := n } } q i (fun k => { k with seq := n })
    let lead := s.dev.leadOf u.part
    let runs (d' : Dev) (k : Cmd) (t : State) : Prop := t.dev.cmd? q i = some k ∧ t.dev.mem = d'.mem ∧ t.dev.plaits = d'.plaits
    (∀ row ∈ ([(1, .launch), (2, .update), (3, .copy), (4, .coll), (5, .sync)] : List (Nat × (Nat → Nat → Instr))), c.opc = row.1 →
      Runs (.cmdDispatch q i) s fun t => exec (row.2 q i) s = .next t)
    ∧ (∀ d1 d' pins, c.opc = 1 → c.fits = true → d0.pinAll u.ctx lead (rngOf .load c.argVa c.argBytes) = .ok d1 pins → d1.obj.queues = d0.obj.queues →
      d1.engWaits u.ctx lead (rngOf .load c.argVa c.argBytes) = none → d1.vbad u.ctx c.argVa c.argBytes = false →
      d1.engLoads u.ctx lead (rngOf .load c.argVa c.argBytes) = d' →
      Runs (.launch q i) s (runs d' { c with seq := n, st := .running, pins := pins, args := d'.vread u.ctx c.argVa c.argBytes }))
    ∧ (∀ d' pins, c.opc = 3 → c.pay 0 8 % 32 = 0 → c.pay 8 8 % 32 = 0 → c.pay 16 8 % 32 = 0 →
      d0.pinAll u.ctx lead (rngOf .load (c.pay 0 8) (c.pay 16 8) ++ rngOf .store (c.pay 8 8) (c.pay 16 8)) = .ok d' pins →
      d'.obj.queues = d0.obj.queues →
      Runs (.copy q i) s (runs d' { c with seq := n, st := .running, pins := pins }))
    ∧ (c.opc = 5 → CanonicalMem s.dev → StillReferenced s.dev c →
      Runs (.sync q i) s fun t => t.dev.dramRead (u.entryAddr i + 0x78) 8 = leBytes 8 (2 ^ 63) ∧ t.dev.plaits = s.dev.plaits)
    ∧ (∀ d1 d2 d3 d' pins1 pins2 x p, c.opc = 2 → s.dev.parts.get? u.part = some p →
      d0.pinAll u.ctx p.lead (rngOf .load (c.pay 0 8) 0x90) = .ok d1 pins1 → d1.engWaits u.ctx p.lead (rngOf .load (c.pay 0 8) 0x90) = none →
      d1.engLoads u.ctx p.lead (rngOf .load (c.pay 0 8) 0x90) = d2 → d2.vbad u.ctx (c.pay 0 8) 0x90 = false →
      d2.vread u.ctx (c.pay 0 8) 0x90 = x → (updCheck x (c.pay 0 8) (d2.fmtOk u.part 7)).1 = 0 →
      (if uEmb x then d2.prepare u.ctx p.lead .load (spansOf (uIdx x) (4 * uCount x)) else .ok d2) = .ok d3 →
      (uEmb x = true → d3.vbad u.ctx (uIdx x) (4 * uCount x) = false) → d3.pinAll u.ctx p.lead (d3.updRanges u.ctx x) = .ok d' pins2 →
      (uLog x = true → (d0.wg u.part).armed = true → (d0.wg u.part).logRoom (d0.logPromised u.part) (uLogBytes x) = true) →
      (uStat x = true → d'.engWaits u.ctx p.lead (rngOf .store (uStatVa x) 32) = none) → d'.obj.queues = d0.obj.queues →
      let t0 := if ud x 0x58 8 = 0 then p.lsc.step.toNat + 1 else ud x 0x58 8
      let g := p.upd.groups.getD (uc x 14 6) UpdGroup.reset
      let hyper := (if uPg x then [g.eta, g.beta, g.lambda] else c.hyper.take 3) ++ [BitVec.ofNat 32 t0, BitVec.ofNat 32 (t0 / 2 ^ 32)]
      ((p.lsc.gate p.rnd.opened c.opened).1 = false →
        Runs (.update q i) s (runs d' { c with seq := n, st := .running, pins := pins1 ++ pins2, desc := x, hyper := hyper }))
      ∧ ((p.lsc.gate p.rnd.opened c.opened).1 = true → uStat x = false → uLog x = false → d'.mem.bytes.wf = true → StillReferenced d' c →
        Runs (.update q i) s fun t => t.dev.dramRead (u.entryAddr i + 0x78) 8 = leBytes 8 (2 ^ 63)
          ∧ (t.dev.tile p.lead).ue.skipped = ((d'.tile p.lead).ue.skipped + 1) % 2 ^ 32))
    ∧ ∀ d1 d2 d3 pins1 pins2 x gk, c.opc = 4 → c.pay 0 8 % 32 = 0 → d0.pinAll u.ctx lead (rngOf .load (c.pay 0 8) 64) = .ok d1 pins1 →
      d1.engWaits u.ctx lead (rngOf .load (c.pay 0 8) 64) = none → d1.engLoads u.ctx lead (rngOf .load (c.pay 0 8) 64) = d2 →
      d2.vbad u.ctx (c.pay 0 8) 64 = false → d2.vread u.ctx (c.pay 0 8) 64 = x → d2.groupOf u.part (ud x 0x28 2) = some gk →
      let w := BitVec.ofNat 64 (ud x 0 8)
      let g := d2.group gk
      let ps := (List.range g.size).filter (fun r => d2.groupMember g r / 2 ^ 15 % 2 = 0)
      let m := ps.length
      let me := placeOf ps g.rank
      let root := decide (ud x 0x2A 2 = g.rank)
      let count := if ccOpc w = 4 then 0 else ud x 0x18 8
      let digest := collDigest w count (ud x 0x2A 2)
      (collCheck x m me root).1 = 0 → g.runs.length < 4 →
      d2.pinAll u.ctx lead (rngOf .load (ud x 0x08 8) (srcBytes w root count) ++ rngOf .store (ud x 0x10 8) (dstBytes w count m me)
        ++ (if ccStat w then rngOf .store (ud x 0x20 8) 32 else [])) = .ok d3 pins2 →
      let r : CollRun := ⟨q, i, g.seq.toNat, w, BitVec.ofNat 64 (ud x 0x08 8), BitVec.ofNat 64 (ud x 0x10 8), count, BitVec.ofNat 64 (ud x 0x20 8), ud x 0x2A 2,
        digest, false, d3.clk.now, [(g.rank, digest.toNat)], [], false, 0, [], [], [], false, [], 0⟩
      let d4 := (d3.updCmd q i (fun k => { k with st := .running, pins := pins1 ++ pins2, desc := x })).updGroup gk (fun g => { g with runs := g.runs ++ [r], seq := g.seq + 1 })
      Runs (.coll q i) s fun t => t = { s with dev :=
        if (ccOpc w = 3 && !((d4.live g r).contains r.root)) then d4.collEnd gk r.seq 0x32 else ((d4.sendJoin g r).pump gk r.seq).replayEarly gk }

/-! Update commands (07 R245 to R265). -/

/-- R247, R255, R257: an UPDATE whose engines run, with nothing dispatched before it left on them, ends with every block of its descriptor applied in
ascending order, its rows counted, its status record and log entry written where asked for, and completes OK; one that is stopped retires. -/
def Obligations.UpdateApplies : Prop :=
  ∀ q i s u c, s.dev.obj.queues.get? q = some u → s.dev.cmd? q i = some c → c.opc = 2 → c.st = .running →
    let k := c.updCtx
    let lead := ((s.dev.parts.get? u.part).map Part.lead).getD 0
    let old := s.dev.oldWrite u.part c.round
    let ents := if uEmb k.x then s.dev.updEnts u.ctx k.x k.ring k.t else []
    let bs := updBlocks k.x ents
    s.dev.updBehind u.part lead u.ctx c = false → s.dev.engWaits u.ctx lead (s.dev.updRanges u.ctx k.x) = none →
    (c.stop = none → (((s.dev.parts.get? u.part).map (fun p => p.tiles)).getD []).any s.dev.ueStopped = false →
      (∀ b ∈ bs, s.dev.blkBad u.ctx k.x b = none) →
      let r := s.dev.applyBlocks u.ctx k old lead (fun _ => none) bs
      let d1 := r.1.rowCounts u.ctx k old lead ents r.2.2
      (uStat k.x = true → d1.vbadPartial u.ctx (uStatVa k.x) 32 = false) →
      let d2 := if uStat k.x then d1.engWriteAs old u.ctx lead (uStatVa k.x)
        (updStatus false k.t r.2.1 (ents.filter (fun e => e.dup)).length (ents.filter (fun e => e.bad)).length) else d1
      let d' := if uLog k.x then d2.logUpd u.part c 2 ((if uEmb k.x then d2.vread u.ctx (uIdx k.x) (4 * uCount k.x) else []) ++ signStream k.x r.2.1.signs) else d2
      d'.mem.bytes.wf = true → d'.obj.queues = s.dev.obj.queues → StillReferenced d' c →
      Runs (.updateComplete q i) s fun t => t.dev.dramRead (u.entryAddr i + 0x78) 8 = leBytes 8 (2 ^ 63)
        ∧ ∀ a, (a < u.entryAddr i + 0x78 ∨ u.entryAddr i + 0x80 ≤ a) → t.dev.mem.bytes.read a = d'.mem.bytes.read a)
    ∧ (c.stop ≠ none → Runs (.updateComplete q i) s fun t => ∀ k, t.dev.cmd? q i = some k → k.st = .retired)

/-! Rounds and partitions (10). -/

/-- R331 to R333, R341: a tick closes the round at its closing tick and opens the next one with the held registers in force; the monitor
runs at most once a round; a stretch moves the closing tick by the largest one asked for, but not the end of a formation or aligned round
(R332; that these take none is the model's reading, log 38), and slows the clock of a partition that is early by a factor of 16/64 to 1. -/
def Obligations.RoundTickAndStretch : Prop :=
  ∀ p s u, s.dev.parts.get? p = some u →
    (s.dev.rstc.coreStep = false → u.drain = 0 →
      Runs (.roundTick p) s fun t => t.dev.clk.now = max s.dev.clk.now (u.rnd.opened + u.rnd.len + u.rnd.stretch) ∧ ∃ u', t.dev.parts.get? p = some u'
        ∧ u'.rnd.opened = u.rnd.opened + u.rnd.len + u.rnd.stretch ∧ u'.rnd.index = u.rnd.indexHeld.getD (u.rnd.index + 1) ∧ u'.rnd.period = u.rnd.periodHeld
        ∧ u'.rnd.ctrl = u.rnd.ctrlHeld ∧ u'.rnd.stretch = 0 ∧ u'.rnd.recv = 0 ∧ u'.upd.cur = u.upd.held ∧ u'.tiles = u.tiles)
    ∧ (u.rnd.monitored = false → u.rnd.fixed = false → u.rnd.ctrl.getLsbD 32 = true →
      Runs (.roundMonitorCheck p) s fun t => t.dev.clk.now = max s.dev.clk.now (u.rnd.opened + 8 * u.rnd.len / 10)
        ∧ ∃ u', t.dev.parts.get? p = some u' ∧ u'.rnd.monitored = true ∧ u.rnd.recv ≤ u'.rnd.recv ∧ u'.rnd.stretch = u.rnd.stretch ∧ u'.rnd.opened = u.rnd.opened)
    ∧ (u.rnd.applied = false →
      Runs (.stretchApply p) s fun t => t.dev.clk.now = max s.dev.clk.now (u.rnd.opened + 9 * u.rnd.len / 10) ∧ ∃ slow,
        (let s := if u.rnd.fixed then 0 else u.rnd.recv
         let n := if s = 0 then u.rnd.rounds else (u.rnd.rounds + 1) % 2 ^ 32
         let r := { u.rnd with applied := true, stretch := s, slow := slow, rounds := n }
         t.dev.parts.get? p = some { u with rnd := r }) ∧ 16 ≤ slow ∧ slow ≤ 64
          ∧ ((if u.rnd.fixed then 0 else u.rnd.recv) = 0 ∨ u.rnd.ctrl.getLsbD 33 = false → slow = 64))

/-- R350, R351: a switch to a record that fails a check is refused with the cause; a valid one drains the affected partitions; a drained
partition whose work has ended is dissolved with everything it holds; then the target's partitions are formed. -/
def Obligations.PartitionSwitch : Prop :=
  (∀ (v : W64) s,
    let n := bits v 16 3
    let body := s.otp.record (0x10 + n)
    let ents := (List.range 8).map (recEntry (body.getD []))
    s.dev.otpc.pending = false → n < 7 →
    (recordCause n body ≠ 0 → Runs (.overlayRequest v) s fun t =>
      t = { s with dev := { s.dev with otpc := { s.dev.otpc with refused := true, cause := recordCause n body, target := n } } })
    ∧ (∀ p u, recordCause n body = 0 → s.dev.parts.get? p = some u → affected ents p u = true →
      Runs (.overlayRequest v) s fun t => t.dev.otpc.pending = true ∧ t.dev.otpc.target = n ∧ t.dev.otpc.ents = ents
        ∧ t.dev.parts.get? p = some { u with drain := max 1 u.drain }))
  ∧ (∀ p s u, s.dev.parts.get? p = some u → 2 ≤ u.drain → s.dev.cmdsIn p Cmd.inflight = [] → (u.drain = 2 → s.dev.quiet p = true) → Rising s.dev.parts → Rising s.dev.mem.used →
    Runs (.partitionDissolve p) s fun t => t.dev.parts.get? p = none ∧ t.dev.hid.layoutGen = s.dev.hid.layoutGen + 1
      ∧ (∀ kv ∈ t.dev.obj.ctxs, kv.2.part ≠ p) ∧ (∀ kv ∈ t.dev.obj.queues, kv.2.part ≠ p) ∧ (∀ kv ∈ t.dev.obj.fences, kv.2.part ≠ p)
      ∧ (∀ kv ∈ t.dev.obj.mobjs, kv.2.part ≠ p) ∧ ∀ kv ∈ t.dev.mem.used, kv.2 ≠ p)
  ∧ ∀ s, s.dev.otpc.pending = true → s.dev.ptc.psState = 0 → (∀ kv ∈ s.dev.parts, affected s.dev.otpc.ents kv.1 kv.2 = false) →
    Runs .partitionForm s fun t => t.dev.otpc.pending = false ∧ t.dev.hid.overlay = s.dev.otpc.target
      ∧ ∀ p e, s.dev.otpc.ents[p]? = some e → e.tileMask ≠ 0 → (∀ n ∈ maskTiles e.tileMask, s.dev.tileOk n = true) →
        ∃ u, t.dev.parts.get? p = some u ∧ (s.dev.parts.get? p = none → u.ent = e ∧ u.tiles = maskTiles e.tileMask ∧ u.drain = 0)

/-! The memory system (08). -/

/-- R281 to R283, R300, R363: migration takes a place on the target tile, and its end, where nothing waits for sub-pages, switches the sub-page there
with its bytes unchanged, what the stack stores at the old place left as it is; page-out sends a cold sub-page, encrypted where its partition
encrypts, to a free slot of a far entry; an unanswered request goes out once more. -/
def Obligations.MigrationAndPageOut : Prop :=
  ∀ p s u, s.dev.parts.get? p = some u →
    (∀ m k tile tl loc, u.memp.migQ = (m, k, tile) :: tl → s.dev.canMigrate p (m, k) = true → s.dev.pickSub p tile = some loc → stackOf loc / 2 = tile →
      Runs (.migrationStart p) s fun t => t.dev.osub (m, k) = { s.dev.osub (m, k) with st := .migrating, target := loc } ∧ t.dev.mem.used.get? loc = some p
        ∧ t.dev.mem.bytes = s.dev.mem.bytes ∧ (t.dev.parts.get? p).map (fun u => (u.memp.migQ, u.memp.migRun)) = some (tl, u.memp.migRun ++ [(m, k)]))
    ∧ (∀ o tl, u.memp.migRun = o :: tl → (s.dev.osub o).st = .migrating → s.dev.badIn ((s.dev.osub o).loc * 65536) 65536 = false → CanonicalMem s.dev →
      (s.dev.osub o).target ≠ (s.dev.osub o).loc → NothingWaits s.dev → Rising s.dev.mem.used →
      Runs (.migrationComplete p) s fun t =>
        t.dev.osub o = { s.dev.osub o with st := .local, loc := (s.dev.osub o).target }
        ∧ (∀ b < 65536, t.dev.mem.bytes.read ((s.dev.osub o).target * 65536 + b) = s.dev.mem.bytes.read ((s.dev.osub o).loc * 65536 + b))
        ∧ (∀ a, a / 65536 ≠ (s.dev.osub o).target → if a / 65536 = (s.dev.osub o).loc then t.dev.rawByte a = s.dev.rawByte a else t.dev.mem.bytes.read a = s.dev.mem.bytes.read a)
        ∧ (t.dev.parts.get? p).map (fun u => (u.memp.migRun, u.memp.countMig)) = some (tl, (u.memp.countMig + 1) % 2 ^ 64))
    ∧ (∀ j slot o c rest, 100 * s.dev.localFree p < bits u.memp.pag 8 8 * ((s.dev.sztE p 15).toNat / 65536) → u.memp.pag.getLsbD 31 = true →
      freeFarSlot u.memp = some (j, slot) → s.dev.coldSubs p = (o, c) :: rest → s.dev.badIn (c.loc * 65536) 65536 = false →
      (∃ m, s.dev.obj.mobjs.get? o.1 = some m) →
      Runs (.pageOutStart p) s fun t => t.dev.osub o = { s.dev.osub o with st := .outbound, lender := j, target := slot } ∧ t.dev.mem.bytes = s.dev.mem.bytes
        ∧ ∃ r, t.dev.fab.reqs.get? s.dev.fab.nextTag = some r ∧ r.part = p ∧ r.entry = j ∧ r.why = .pageOut o.1 o.2 ∧ r.pkt.ty = 0x12
            ∧ r.pkt.data = s.dev.toFar p j slot 0 (s.dev.dramRead (c.loc * 65536) 65536))
    ∧ ∀ tag r, s.dev.fab.reqs.get? tag = some r →
      (r.resent = false → Runs (.memReqRetry tag) s fun t => t.dev.fab.reqs.get? tag = some { r with resent := true } ∧ t.dev.mem = s.dev.mem)
      ∧ (r.resent = true → (∀ p j, r.why ≠ .lend p j) → Runs (.memReqRetry tag) s fun t => t = s)

/-- R293, R296, R297, R299: what a scrub pass counts and corrects where no quarter is beyond correction, the end of a row repair, the refresh band and
issue limit of a temperature, whose falling leaves a band two degrees below its edge, and the end of a retraining window and of its write-back
where nothing waits for sub-pages. -/
def Obligations.StackControllerEvents : Prop :=
  ∀ tile k s, k < 2 →
    let c := s.dev.sc (2 * tile + k)
    let now (t : State) : Sc := t.dev.sc (2 * tile + k)
    (∀ errs, c.scrubEn = true → c.st = .active →
      let d := errs.foldl (fun (d : Dev) e => d.strikeStack tile k e) s.dev
      let here (q : Nat) : Bool := q / 1024 / stackPages = 2 * tile + k
      d.mem.bad.filter here = [] →
      Runs (.scrubPass tile k errs) s fun t => (now t).scrubPasses = (c.scrubPasses + 1) % 2 ^ 16 ∧ (now t).rowErrs = []
        ∧ (now t).corrected % 2 ^ 32 = (c.corrected + (d.mem.soft.filter here).length) % 2 ^ 32 ∧ (now t).uncorrectable = c.uncorrectable
        ∧ t.dev.mem.soft = d.mem.soft.filter (fun q => !here q) ∧ t.dev.mem.bytes = s.dev.mem.bytes)
    ∧ (c.scrubEn = false ∨ c.st ≠ .active → ∀ errs, Runs (.scrubPass tile k errs) s fun t => t = s)
    ∧ (∀ i, Runs (.rowRepairComplete tile k i) s fun t => now t = { c with repairing := c.repairing.filter (fun j => j != i) } ∧ t.dev.mem = s.dev.mem)
    ∧ (∀ temp : Int,
      let band (x : Int) : Nat := if x < 85 then 0 else if x ≤ 95 then 1 else if x ≤ 105 then 2 else 3
      let b := if band temp < c.band then min c.band (band (temp + 2)) else band temp
      Runs (.dramBandEval tile k temp) s fun t => (now t).tempC = temp ∧ (now t).refresh = min 2 b ∧ (now t).band = b
        ∧ ((s.dev.tile tile).trip.trip = false → (b < 2 → (now t).limit = 1000) ∧ (3 ≤ b → (now t).limit = 500)
            ∧ (b = 2 → 95 ≤ temp → temp ≤ 105 → ((now t).limit : Int) = 1000 - 50 * (temp - 95)))
        ∧ ((s.dev.tile tile).trip.trip = true → (now t).limit = 500))
    ∧ (c.st = .retrain → NothingWaits s.dev → Runs (.retrainWindowEnd tile k) s fun t => t.dev.mem = s.dev.mem ∧
        now t = { c with st := if (ownerOf s.dev.parts tile).isSome && !s.dev.rstc.coreStep then .active else .selfRefresh, writeback := true })
    ∧ (c.writeback = true → NothingWaits s.dev →
        Runs (.steeringWritebackDone tile k) s fun t => now t = { c with steered := [], writeback := false } ∧ t.dev.mem = s.dev.mem)

/-- R287, R288, Tables 8-23 to 8-25: arming and draining far entries, arming and releasing lend entries within the pool, and what the probe
shows of a mapped address. -/
def Obligations.FarLendAndProbe : Prop :=
  ∀ p j s u (v : W64), s.dev.parts.get? p = some u →
    let f := u.memp.far.getD j Far.reset
    let l := u.memp.lend.getD j Lend.reset
    let n := bits v 0 32
    let far (t : State) : Option Far := (t.dev.parts.get? p).bind (fun u => u.memp.far.get? j)
    let lend (t : State) : Option Lend := (t.dev.parts.get? p).bind (fun u => u.memp.lend.get? j)
    let lent := ((u.memp.lend.filter (fun kv => kv.1 != j && (kv.2.active || kv.2.armed))).map (fun kv => kv.2.subpages)).foldl (· + ·) 0
    (j < 16 → v.getLsbD 40 = true → f.st = 0 ∨ f.st = 3 → f.armed = false → f.asked = false →
      (65536 * (farSum u.memp j + n) ≤ (s.dev.sztE p 16).toNat →
        Runs (.farArm p j v) s fun t => far t = some { f with subpages := n, armed := true, used := [] } ∧ t.dev.obj = s.dev.obj)
      ∧ ((s.dev.sztE p 16).toNat < 65536 * (farSum u.memp j + n) →
        Runs (.farArm p j v) s fun t => t.dev.obj.ignoredCount = s.dev.obj.ignoredCount + 1 ∧ t.dev.obj.ignCause = 0x09 ∧ ∀ g, far t = some g → g.armed = false))
    ∧ (v.getLsbD 41 = true → f.st = 1 → u.memp.far.get? j = some f →
      Runs (.farDrain p j v) s fun t => ∃ g, far t = some g ∧ (g.st = 2 ∨ g.st = 0 ∧ g.used = []) ∧ g.module = f.module ∧ g.base = f.base)
    ∧ (j < 16 → v.getLsbD 40 = true → l.active = false → 65536 * (lent + n) ≤ u.ent.lendPool →
      Runs (.lendArm p j v) s fun t => lend t = some { l with subpages := n, part := bits v 32 3, armed := true } ∧ t.dev.obj = s.dev.obj)
    ∧ (v.getLsbD 41 = true → u.memp.lend.get? j = some l →
      Runs (.lendRelease p j v) s fun t => lend t =
        some (if l.active = true ∧ l.taken = true then { l with release := true } else { l with active := false, armed := false, release := false }))
    ∧ ∀ x g, v.getLsbD 31 = true → s.dev.obj.ctxs.get? (bits v 0 6) = some x → x.part = p → u.memp.probeVa.toNat < 2 ^ 56 →
      x.pages.get? (subNo u.memp.probeVa / 32) = some g →
      Runs (.mempProbe p v) s fun t => ∃ u', t.dev.parts.get? p = some u' ∧ u'.memp.probeDone = true ∧ u'.memp.probeHit = true ∧ u'.memp.probeCtx = bits v 0 6
        ∧ u'.memp.pe0 = g.lo ∧ u'.memp.spe = (s.dev.sub x (subNo u.memp.probeVa)).entry ∧ t.dev.obj = s.dev.obj

/-! The fabric (11). -/

/-- R368, R369, R372: a packet that may not come in changes nothing; one that passes straight through goes on out of the opposite port, another that
is not for here is routed, one for a partition that does not exist is discarded and counted. -/
def Obligations.PacketsNotDelivered : Prop :=
  ∀ row ∈ pktRows, ∀ p k s, k.ty = row.1 →
    (s.dev.mayArrive p k.ty = false → Runs (row.2 p k) s fun t => t = s)
    ∧ (s.dev.mayArrive p k.ty = true → s.dev.fate k = .through → Runs (row.2 p k) s fun t =>
        let hops := if k.flags.getLsbD 0 then k.hops - 1 else k.hops + 1
        let h := s.dev.fab.port (p ^^^ 1)
        t.dev.fab.port (p ^^^ 1) = { h with txq := h.txq ++ [⟨vcOf k.ty, Pkt.cls k, true, 0, { k with hops := hops }⟩] }
        ∧ (∀ q, q ≠ p ^^^ 1 → t.dev.fab.port q = s.dev.fab.port q)
        ∧ t = { s with dev := { s.dev with fab := { (taken s.dev p k).fab with ports := t.dev.fab.ports } } })
    ∧ (s.dev.mayArrive p k.ty = true → s.dev.fate k = .routed → Runs (row.2 p k) s fun t => t = { s with dev := (taken s.dev p k).route true (some p) k })
    ∧ (s.dev.mayArrive p k.ty = true → s.dev.fate k = .here → toPartition k.ty = true → s.dev.parts.get? k.destPart = none →
        Runs (row.2 p k) s fun t =>
          (t.dev.fab.port p).misdelivered = (if p < 6 then ((s.dev.fab.port p).misdelivered + 1) % 2 ^ 32 else (s.dev.fab.port p).misdelivered)
          ∧ (∀ q, q ≠ p → t.dev.fab.port q = s.dev.fab.port q)
          ∧ t = { s with dev := { s.dev with fab := { (taken s.dev p k).fab with ports := t.dev.fab.ports } } })

/-- R341, R364, R366, R367, R370, R377, 15 R490: what HELLO, LINK_STATE, STRETCH, PROBE, PROBE_ACK, LANE_CHANGE and MGMT do where they are
delivered. -/
def Obligations.LinkPackets : Prop :=
  ∀ p k s,
    let h := s.dev.fab.port p
    let d := taken s.dev p k
    (Delivered s 0x01 p k → p < 6 → Runs (.hello p k) s fun t =>
      let g := t.dev.fab.port p
      let ren := decide (k.arg 4 1 = 1)
      let same := decide (k.arg 1 1 = s.dev.fab.dx ∧ k.arg 2 1 = s.dev.fab.dy ∧ k.arg 3 1 = s.dev.fab.dz)
      g.peerId = k.srcMod ∧ g.peerPort = k.arg 0 1 % 16 ∧ g.peerFwd = !ren
      ∧ g.st = (if h.st = .hello then (if h.toDegraded then .degraded else .up) else h.st)
      ∧ g.miswired = (if h.st = .hello then decide (k.arg 0 1 ≠ p ^^^ 1) else h.miswired)
      ∧ g.dimMismatch = (if s.dev.fab.routeEn = true ∧ ren = true then !same else if same then false else h.dimMismatch)
      ∧ (k.srcMod ≠ 0xFFF → ∃ e, t.dev.fab.map.get? k.srcMod = some e ∧ e.fwdOnly = !ren)
      ∧ (k.srcMod = 0xFFF → s.dev.fab.routeEn = true → s.dev.hid.moduleId ≠ 0xFFF →
          t.dev.fab.map.get? (s.dev.fab.nb s.dev.hid.moduleId (p / 2) (p % 2 = 1)) = some ⟨0x3F, true, 0⟩)
      ∧ (∀ q, q ≠ p → (t.dev.fab.port q).st = (s.dev.fab.port q).st) ∧ t.dev.parts = s.dev.parts ∧ t.dev.mem = s.dev.mem)
    ∧ (Delivered s 0x02 p k → k.arg 0 2 ≠ s.dev.hid.moduleId → k.arg 0 2 ≠ 0xFFF → (∀ e, s.dev.fab.map.get? (k.arg 0 2) = some e → e.seq < k.arg 3 4) →
      Runs (.linkState p k) s fun t =>
        t.dev.fab.map.get? (k.arg 0 2) = some ⟨BitVec.ofNat 6 (k.arg 2 1), ((s.dev.fab.map.get? (k.arg 0 2)).map (fun e => e.fwdOnly)).getD false, k.arg 3 4⟩
        ∧ t.dev.fab.recompute = true
        ∧ (∀ q < 6, (t.dev.fab.port q).txq.length = (s.dev.fab.port q).txq.length + (if q ≠ p ∧ (s.dev.fab.port q).on = true then 1 else 0))
        ∧ (∀ m, m ≠ k.arg 0 2 → t.dev.fab.map.get? m = s.dev.fab.map.get? m))
    ∧ (∀ u, Delivered s 0x03 p k → s.dev.parts.get? k.destPart = some u →
      Runs (.stretch p k) s fun t =>
        let r := u.rnd
        let r' := if Rounds.syncGroup r.ctrl = 0xFFFF ∨ Rounds.syncGroup r.ctrl ≠ k.arg 0 2 then r
          else if r.index.toNat ≠ k.arg 2 8 then { r with mismatch := min 0xFF (r.mismatch + 1) }
          else if r.applied then { r with late := min 0xFF (r.late + 1) } else { r with recv := max r.recv (k.arg 10 4) }
        t.dev.parts.get? k.destPart = some { u with rnd := r' } ∧ ∀ q, q ≠ k.destPart → t.dev.parts.get? q = s.dev.parts.get? q)
    ∧ (Delivered s 0x04 p k → Runs (.probe p k) s fun t => t.dev = d.send 0x05 k.srcMod k.srcPart 0 k.tag k.args [])
    ∧ (Delivered s 0x05 p k → Rising s.dev.fab.silent → Runs (.probeAck p k) s fun t =>
        t.dev.fab.silent.get? k.srcMod = none ∧ k.srcMod ∉ t.dev.fab.lost
        ∧ (∀ q u j f, t.dev.parts.get? q = some u → u.memp.far.get? j = some f → f.module = k.srcMod → f.st ≠ 0 → f.heard = true)
        ∧ t.dev.fab.ports = s.dev.fab.ports ∧ t.dev.obj = s.dev.obj ∧ t.dev.mem = s.dev.mem)
    ∧ (Delivered s 0x06 p k → k.arg 0 1 < 9 → k.arg 1 1 < 9 → Runs (.laneChange p k) s fun t =>
        t.dev = d.updPort p (fun h => { h with laneRx := some (k.arg 0 1, k.arg 1 1, k.arg 2 2) }))
    ∧ (Delivered s 0x07 p k → Runs (.mgmt p k) s fun t =>
        t.dev = { d with fab := { d.fab with mgmtRx := s.dev.fab.mgmtRx ++ [(k.srcMod, k.inl ++ k.data)] } })

/-- R363, 08 R283, R284, R287, R288: requests at the lender, and their answers at the borrower. -/
def Obligations.MemoryPackets : Prop :=
  ∀ p k s,
    let d := taken s.dev p k
    let a := k.arg 0 8 % 2 ^ 52
    let n := k.arg 8 4
    let base := k.arg 1 8 / 65536 % 2 ^ 36
    let cnt := k.arg 9 4
    let hit (l : Lend) : Bool := l.active && l.borrower = k.srcMod && l.part = k.srcPart && l.base = base && (cnt = 0 || l.subpages = cnt)
    let okN := n % 32 = 0 ∧ 32 ≤ n ∧ n ≤ 65536
    (Delivered s 0x10 p k →
      (∀ e, s.dev.lendFor k.srcMod k.srcPart a n = some e → okN → s.dev.badIn a n = false →
        Runs (.readReq p k) s fun t => t.dev = (Dev.loadAt a n d).send 0x11 k.srcMod 0 0 k.tag (mkArgs [(8, k.arg 0 8), (4, n), (1, 0)]) (s.dev.dramRead a n)
          ∧ t.dev.mem = s.dev.mem ∧ t.dev.parts = s.dev.parts ∧ t.dev.obj = s.dev.obj)
      ∧ (s.dev.lendFor k.srcMod k.srcPart a n = none ∨ ¬okN →
        Runs (.readReq p k) s fun t => t.dev = (d.refuse a).send 0x11 k.srcMod 0 0 k.tag (mkArgs [(8, k.arg 0 8), (4, n), (1, 1)]) [] ∧ t.dev.mem = s.dev.mem)
      ∧ (∀ e, s.dev.lendFor k.srcMod k.srcPart a n = some e → okN → s.dev.badIn a n = true →
        Runs (.readReq p k) s fun t => t.dev = ((Dev.loadAt a n d).refuse a).send 0x11 k.srcMod 0 0 k.tag (mkArgs [(8, k.arg 0 8), (4, n), (1, 1)]) []
          ∧ t.dev.mem = s.dev.mem))
    ∧ (Delivered s 0x12 p k →
      (∀ e, s.dev.lendFor k.srcMod k.srcPart a n = some e → okN → k.data.length = n → s.dev.badPartial a n = false → CanonicalMem s.dev →
        Runs (.writeReq p k) s fun t => t.dev = (d.dramWrite a k.data).send 0x13 k.srcMod 0 0 k.tag (mkArgs [(1, 0)]) []
          ∧ (∀ b < n, t.dev.mem.bytes.read (a + b) = k.data.getD b 0) ∧ (∀ x, (x < a ∨ a + n ≤ x) → t.dev.mem.bytes.read x = s.dev.mem.bytes.read x))
      ∧ (s.dev.lendFor k.srcMod k.srcPart a n = none ∨ ¬okN ∨ k.data.length ≠ n ∨ s.dev.badPartial a n = true →
        Runs (.writeReq p k) s fun t => t.dev = (d.refuse a).send 0x13 k.srcMod 0 0 k.tag (mkArgs [(1, 1)]) [] ∧ t.dev.mem = s.dev.mem))
    ∧ (Delivered s 0x14 p k → ∀ q j u l, s.dev.parts.findSome? (fun kv => (kv.2.memp.lend.find? (fun x => hit x.2)).map (fun x => (kv.1, x.1))) = some (q, j) →
        s.dev.parts.get? q = some u → u.memp.lend.get? j = some l →
        Runs (.lendReq p k) s fun t => ∃ d' : Dev, t.dev = d'.send 0x15 k.srcMod 0 0 k.tag (mkArgs [(1, 0)]) [] ∧ d'.fab = d.fab ∧ d'.mem = s.dev.mem
          ∧ (d'.parts.get? q).bind (fun u => u.memp.lend.get? j) =
              some (if cnt ≠ 0 then { l with taken := true } else if l.release then { l with active := false, taken := false, release := false } else { l with taken := false }))
    ∧ ∀ r u, s.dev.fab.reqs.get? k.tag.toNat = some r → s.dev.parts.get? r.part = some u → (∀ kv ∈ u.memp.far, kv.2.st ≠ 2) → Rising s.dev.fab.reqs →
      k.tag.toNat < s.dev.fab.nextTag → NothingWaits s.dev →
      let gone (t : State) : Prop := t.dev.fab.reqs.get? k.tag.toNat = none
      (∀ c o j, Delivered s 0x11 p k → r.why = .pageIn c o j → (s.dev.osub (o, j)).st = .inbound → k.arg 12 1 = 0 → k.data.length = 65536 → CanonicalMem s.dev →
        let x := s.dev.osub (o, j)
        Runs (.readResp p k) s fun t => gone t ∧ t.dev.osub (o, j) = { x with st := .local, loc := x.target }
          ∧ (∀ b < 65536, t.dev.mem.bytes.read (x.target * 65536 + b) = (s.dev.fromFar r.part x.lender x.loc 0 k.data).getD b 0)
          ∧ (∀ y, y / 65536 ≠ x.target → t.dev.mem.bytes.read y = s.dev.mem.bytes.read y)
          ∧ (t.dev.parts.get? r.part).map (fun u => u.memp.countIn) = some ((u.memp.countIn + 1) % 2 ^ 64))
      ∧ (∀ m j b, Delivered s 0x11 p k → r.why = .direct m j b → k.arg 12 1 = 0 → (s.dev.osub (m, j)).st = .far →
        let x := s.dev.osub (m, j)
        Runs (.readResp p k) s fun t => gone t ∧ t.dev.mem.direct = s.dev.mem.direct ++ [((m, j, b), s.dev.fromFar r.part x.lender x.loc b k.data)]
          ∧ t.dev.mem.bytes = s.dev.mem.bytes)
      ∧ (∀ c m j b, Delivered s 0x13 p k → r.why = .directW c m j b → Runs (.writeAck p k) s fun t => gone t ∧ t.dev.mem = s.dev.mem ∧ t.dev.obj = s.dev.obj)
      ∧ (∀ o j, Delivered s 0x13 p k → r.why = .pageOut o j → (s.dev.osub (o, j)).st = .outbound → CanonicalMem s.dev → Rising s.dev.mem.used →
        let x := s.dev.osub (o, j)
        farAddr ((u.memp.far.get? x.lender).getD Far.reset) x.target 0 = r.pkt.arg 0 8 →
        (k.arg 0 1 = 0 → Runs (.writeAck p k) s fun t => gone t ∧ t.dev.osub (o, j) = { x with st := .far, loc := x.target }
          ∧ (∀ y, if y / 65536 = x.loc then t.dev.rawByte y = s.dev.rawByte y else t.dev.mem.bytes.read y = s.dev.mem.bytes.read y)
          ∧ (t.dev.parts.get? r.part).map (fun u => u.memp.countOut) = some ((u.memp.countOut + 1) % 2 ^ 64))
        ∧ (k.arg 0 1 ≠ 0 → Runs (.writeAck p k) s fun t => gone t ∧ t.dev.osub (o, j) = { x with st := .local } ∧ t.dev.mem.bytes = s.dev.mem.bytes))
      ∧ ∀ j f, Delivered s 0x15 p k → r.why = .lend r.part j → u.memp.far.get? j = some f → f.asked = true →
        Runs (.lendAck p k) s fun t => gone t ∧ ∃ g, (t.dev.parts.get? r.part).bind (fun u => u.memp.far.get? j) = some g
          ∧ g.asked = false ∧ g.st = (if k.arg 0 1 = 0 then 1 else 3) ∧ g.heard = (k.arg 0 1 = 0 || f.heard) ∧ g.module = f.module ∧ g.base = f.base ∧ g.subpages = f.subpages

/-- R379, R382, R386, R387, R390, 12 R414: what the packets of a collective do to a run of an ACTIVE group. -/
def Obligations.CollectivePackets : Prop :=
  ∀ p k s g r,
    let d := taken s.dev p k
    let G := s.dev.group g
    let b := k.inl ++ k.data
    CollFrom s k g r →
    (∀ run, Delivered s 0x20 p k → k.arg 10 4 = (s.dev.groupDigest G).toNat → leNat ((b.drop 4).take 2) = 0 → G.runs.find? (fun x => x.seq = k.arg 6 4) = some run →
      G.epoch.toNat = k.arg 2 4 → leNat (b.take 4) = run.digest.toNat →
      Runs (.join p k) s fun t => t.dev = (((d.updGroup g (fun x => { x with heard := (k.srcMod :: x.heard).eraseDups })).updRun g (k.arg 6 4) (fun x =>
        { x with joined := if x.joined.any (fun j => j.1 = r) then x.joined else (r, leNat (b.take 4)) :: x.joined })).pump g (k.arg 6 4)).replayEarly g)
    ∧ (Delivered s 0x20 p k → G.runs = [] → k.arg 10 4 ≠ (s.dev.groupDigest G).toNat → Runs (.join p k) s fun t => (t.dev.group g).st = 2 ∧ t.dev.obj = s.dev.obj)
    ∧ (∀ run, G.epoch.toNat = k.arg 4 4 → k.arg 8 4 < G.seq.toNat → s.dev.run? g (k.arg 8 4) = some run →
      let step := k.arg 2 2
      (Delivered s 0x21 p k → run.t ≤ step % 2 ^ 15 → (∀ x ∈ run.got, ¬(x.1 = step % 2 ^ 15 ∧ x.2.1 = step / 2 ^ 15 ∧ x.2.2.1 = k.arg 12 4)) →
        Runs (.chunk p k) s fun t => t.dev = (((d.sendMember G r 0x22 k.args []).updRun g (k.arg 8 4) (fun x =>
          { x with got := x.got ++ [(step % 2 ^ 15, step / 2 ^ 15, k.arg 12 4, b)] })).pump g (k.arg 8 4)).replayEarly g)
      ∧ (Delivered s 0x22 p k → G.early = [] → Runs (.chunkAck p k) s fun t => t.dev.group g = { G with runs := G.runs.map (fun x =>
          if x.seq = k.arg 8 4 then { x with sent := x.sent.filter (fun y => !(y.1 = r && y.2.1 = step && y.2.2.1 = k.arg 12 4)) } else x) }
          ∧ t.dev.mem = s.dev.mem ∧ t.dev.obj = s.dev.obj ∧ t.dev.fab.ports = s.dev.fab.ports))
    ∧ (∀ run, G.epoch.toNat = k.arg 2 4 → k.arg 6 4 < G.seq.toNat → s.dev.run? g (k.arg 6 4) = some run →
      (Delivered s 0x23 p k → Runs (.done p k) s fun t => t.dev =
        ((d.updRun g (k.arg 6 4) (fun x => { x with dones := if x.dones.any (fun y => y.1 = r) then x.dones else (r, k.arg 10 1 = 1) :: x.dones })).pump g (k.arg 6 4)).replayEarly g)
      ∧ (Delivered s 0x24 p k → k.arg 10 1 ≠ 1 → Runs (.withdraw p k) s fun t => t.dev =
        (((d.updRun g (k.arg 6 4) (fun x => { x with withdrawn := r :: x.withdrawn })).collRestart g (fun n => n = k.arg 6 4)).pumpAll g).replayEarly g))

/-- R388, R389, Table 11-18, 12 Table 12-13: arming a group slot, releasing it, rejoining it, and the two timeouts of its collectives. -/
def Obligations.GroupControl : Prop :=
  ∀ g s (v : W64),
    let G := s.dev.group g
    (g < 64 → v.getLsbD 4 = true → G.st ≠ 1 → 1 ≤ G.size → G.size ≤ 4096 → bits v 52 12 < G.size →
      carveOk (bits v 5 47 * 32) (4 * G.size) = true → s.dev.badIn (bits v 5 47 * 32) (4 * G.size) = false →
      Runs (.groupArm g v) s fun t =>
        t.dev.group g = { G with rank := bits v 52 12, table := bits v 5 47, st := 1, release := false, seq := 0, epoch := 0, digested := [], heard := [], runs := [], early := [] }
        ∧ (∀ j, j ≠ g → t.dev.group j = s.dev.group j) ∧ t = { s with dev := { s.dev with cole := t.dev.cole } })
    ∧ (g < 64 → v.getLsbD 1 = true → (G.st = 1 ∨ carveOk (bits v 5 47 * 32) 4 = true) → Runs (.groupRelease g v) s fun t =>
        t.dev.group g = (if G.st ≠ 1 then ({ G with rank := bits v 52 12, table := bits v 5 47 } : Group).freed
          else if G.runs = [] then G.freed else { G with release := true }) ∧ (∀ j, j ≠ g → t.dev.group j = s.dev.group j) ∧ t = { s with dev := { s.dev with cole := t.dev.cole } })
    ∧ (v.getLsbD 63 = true → bits v 0 6 = g → G.st = 1 → bits v 16 12 = G.rank → G.rank < G.size →
      Runs (.rejoin v) s fun t => (t.dev.group g).epoch = s.dev.cole.rejoinHi.extractLsb' 32 32 ∧ (t.dev.group g).seq = s.dev.cole.rejoinHi.extractLsb' 0 32 ∧ t.dev.mem = s.dev.mem)
    ∧ (v.getLsbD 63 = true → bits v 0 6 = g → G.st = 1 → bits v 16 12 < G.size → bits v 16 12 ≠ G.rank → s.dev.groupMember G (bits v 16 12) / 2 ^ 15 % 2 = 1 →
      G.early = [] → CanonicalMem s.dev →
      Runs (.rejoin v) s fun t => t.dev.dramRead (G.table * 32 + 4 * bits v 16 12) 4 = leBytes 4 (bits v 32 15) ∧ (t.dev.group g).epoch = G.epoch + 1)
    ∧ (∀ x, G.timeoutMs ≠ 0 → s.dev.run? g x.seq = some x →
      G.runs.find? (fun y => !y.running && !(s.dev.live G y).all (fun m => y.joined.any (fun j => j.1 = m))) = some x →
      Runs (.collJoinTimeout g) s fun t => t.dev.cole.timeouts = min 0xFFFF (s.dev.cole.timeouts + 1) ∧ t.dev.cole.completed = (s.dev.cole.completed + 1) % 2 ^ 32
        ∧ t.dev.run? g x.seq = none)
    ∧ ∀ x, G.runs = [x] → x.sent ≠ [] →
      Runs (.collChunkTimeout g) s fun t => t.dev.cole.timeouts = min 0xFFFF (s.dev.cole.timeouts + 1) ∧ t.dev.cole.completed = (s.dev.cole.completed + 1) % 2 ^ 32
        ∧ (t.dev.group g).runs = []

/-- R358, R361, R362: a frame that is refused is asked for again and counted, eight in a row take the port DOWN; one in order is acknowledged;
one out of order changes nothing of what has been received. -/
def Obligations.FrameReception : Prop :=
  ∀ p fr u s,
    let h := s.dev.fab.port p
    let w := BitVec.ofNat 128 (leNat (fr.drop 4096))
    let bad := u = true ∨ (crc32 (fr.take 4108)).toNat ≠ bits w 96 32
    p < 6 → s.dev.blockUp p = true → h.on = true ∨ h.st = .hello → fr.length = 4112 →
    (bad → h.refusals + 1 < 8 ∨ h.st = .hello → Runs (.frameRx p fr u) s fun t =>
      let g := t.dev.fab.port p
      g.nak = true ∧ g.refusals = h.refusals + 1 ∧ g.uncorr = (if u then min 0xFFFF (h.uncorr + 1) else h.uncorr) ∧ g.rxGood = h.rxGood ∧ g.st = h.st
        ∧ t.dev.fab.inbox = s.dev.fab.inbox ∧ t.dev.mem = s.dev.mem)
    ∧ (bad → 8 ≤ h.refusals + 1 → h.on = true → Runs (.frameRx p fr u) s fun t => (t.dev.fab.port p).st = .down ∧ (t.dev.fab.port p).downs = min 0xFFFF (h.downs + 1)
        ∧ t.dev.fab.recompute = true)
    ∧ (¬bad → bits w 80 16 = (h.rxGood + 1) % 65536 → Runs (.frameRx p fr u) s fun t =>
        let g := t.dev.fab.port p
        g.rxGood = bits w 80 16 ∧ g.nak = false ∧ g.refusals = 0 ∧ g.st = h.st ∧ t.dev.mem = s.dev.mem ∧ t.dev.obj = s.dev.obj)
    ∧ (¬bad → bits w 80 16 ≠ (h.rxGood + 1) % 65536 → Runs (.frameRx p fr u) s fun t =>
        let g := t.dev.fab.port p
        g.rxGood = h.rxGood ∧ g.nak = h.nak ∧ g.rx = h.rx ∧ g.parts = h.parts ∧ t.dev.fab.inbox = s.dev.fab.inbox ∧ t.dev.parts = s.dev.parts ∧ t.dev.mem = s.dev.mem)

/-- R356, R364 to R368, Table 11-5: what moves a hoop port from state to state, and how a lane moves to the spare and comes back. R366, R370,
R376, R377, Table 11-15: the fabric's timers, the loss of a peer, recomputed routes, the lock of fabric time, and the write of
HP0_FABRIC_CTRL. -/
def Obligations.PortsAndLanes : Prop :=
  (∀ p s,
    let h := s.dev.fab.port p
    let now (t : State) : HPort := t.dev.fab.port p
    let others (t : State) : Prop := ∀ q, q ≠ p → (t.dev.fab.port q).st = (s.dev.fab.port q).st ∧ (t.dev.fab.port q).good = (s.dev.fab.port q).good
    let down (t : State) : Prop := (now t).st = .down ∧ (now t).downs = min 0xFFFF (h.downs + 1) ∧ (now t).replay = [] ∧ t.dev.fab.recompute = true ∧ others t
    let moved (k : Nat) (t : State) : Prop :=
      (now t).good = h.good &&& ~~~(1#9 <<< k) ∧ (now t).spare = 9 ∧ (now t).laneMoves = (h.laneMoves + 1) % 2 ^ 16 ∧ (now t).st = h.st ∧ (now t).width = h.width
      ∧ (∃ n, (now t).laneEvt = some (k, h.spare, n)) ∧ others t
    (∀ v : W64, p < 6 → hpCtrlOk v = true →
      (v.getLsbD 31 = false → Runs (.portEnable p v) s fun t => (now t).st = .idleHold ∧ (now t).en = false ∧ (now t).width = 0 ∧ others t)
      ∧ (v.getLsbD 31 = true → h.st = .idleHold → h.idle = false → Runs (.portEnable p v) s fun t => (now t).st = .training ∧ (now t).en = true ∧ others t)
      ∧ (v.getLsbD 31 = true → h.st ≠ .idleHold ∨ h.idle = true → Runs (.portEnable p v) s fun t => t.dev = s.dev.updPort p (fun h => h.withCtrl v))
      ∧ (v.getLsbD 31 = true → v.getLsbD 28 = true → h.canMove (bits v 24 4) = true → Runs (.retrain p v) s fun t => moved (bits v 24 4) t ∧ (now t).en = true
          ∧ (now t).laneThresh = bits v 0 16))
    ∧ (∀ m : BitVec 9, h.st = .training → 4 ≤ (lanesOf m).length → s.dev.blockUp p = true →
      Runs (.portTrained p m) s fun t => (now t).st = .hello ∧ (now t).good = m ∧ (now t).width = (if 8 ≤ (lanesOf m).length then 8 else 4)
        ∧ (now t).toDegraded = decide ((lanesOf m).length < 8) ∧ (now t).rxGood = 0xFFFF ∧ others t)
    ∧ (h.st = .training → Runs (.portTrainTimeout p) s fun t => t.dev = s.dev.updPort p (fun h => { h with st := .training, good := 0, width := 0 }))
    ∧ (h.st = .down → s.dev.blockUp p = true → Runs (.portDownRetry p) s fun t => t.dev = s.dev.updPort p (fun h => { h with st := .training, good := 0, width := 0 }))
    ∧ (h.on = true → Runs (.controlWordTimeout p) s down)
    ∧ (∀ k < 9, h.good.getLsbD k = true →
      let left := (lanesOf (h.good &&& ~~~(1#9 <<< k))).length
      (h.spareAuto = true → h.canMove k = true → Runs (.laneLockLoss p k) s (moved k))
      ∧ (h.spareAuto = false ∨ h.canMove k = false → h.on = true → h.spare ≠ k → 4 ≤ left →
        Runs (.laneLockLoss p k) s fun t => (now t).st = .degraded ∧ (now t).width = 4 ∧ (now t).good = h.good &&& ~~~(1#9 <<< k) ∧ others t)
      ∧ (h.spareAuto = false ∨ h.canMove k = false → h.on = true → h.spare ≠ k → left < 4 → Runs (.laneLockLoss p k) s fun t => (now t).st = .down ∧ others t))
    ∧ (∀ counts k, (List.range 9).find? (fun j => decide (h.laneThresh < counts.getD j 0) && h.canMove j) = some k → h.spareAuto = true →
      Runs (.laneThreshCheck p counts) s (moved k))
    ∧ ∀ k < 9, h.good.getLsbD k = false → h.on = true →
      (h.width = 8 → Runs (.laneRetrainDone p k) s fun t => (now t).good = h.good ||| (1#9 <<< k) ∧ (now t).spare = k ∧ (now t).st = h.st ∧ (now t).width = 8 ∧ others t)
      ∧ (h.width ≠ 8 → 8 ≤ (lanesOf (h.good ||| (1#9 <<< k))).length →
        Runs (.laneRetrainDone p k) s fun t => (now t).good = h.good ||| (1#9 <<< k) ∧ (now t).st = .up ∧ (now t).width = 8 ∧ others t)
      ∧ (h.width ≠ 8 → (lanesOf (h.good ||| (1#9 <<< k))).length < 8 →
        Runs (.laneRetrainDone p k) s fun t => (now t).good = h.good ||| (1#9 <<< k) ∧ (now t).st = h.st ∧ (now t).width = h.width ∧ others t))
  ∧ ((∀ p s, (s.dev.fab.port p).on = true → Runs (.helloTimer p) s fun t =>
      t.dev = (s.dev.sendDirected p 0x01 1 0 (mkArgs [(1, p), (1, s.dev.fab.dx), (1, s.dev.fab.dy), (1, s.dev.fab.dz), (1, if s.dev.fab.routeEn then 1 else 0), (1, s.dev.fab.priority)]) []).newFrame p)
  ∧ (∀ s, Runs .linkStateTimer s fun t => t.dev.fab.linkSeq = s.dev.fab.linkSeq + 1 ∧ ∀ p < 6,
      let a := mkArgs [(2, s.dev.hid.moduleId), (1, s.dev.fab.downMap), (4, s.dev.fab.linkSeq + 1)]
      let k : Pkt := ⟨2, 1, 0xFFF, BitVec.ofNat 16 s.dev.hid.moduleId, 1, 0, a, [], []⟩
      let h := s.dev.fab.port p
      t.dev.fab.port p = (if h.on then { h with txq := h.txq ++ [⟨3, 0, false, 0, k⟩] } else h))
  ∧ (∀ s, s.dev.fab.recompute = true → Runs .routeRecompute s fun t => t.dev.fab.recompute = false ∧ t.dev.fab.routeGen = (s.dev.fab.routeGen + 1) % 2 ^ 32
      ∧ t.dev.fab.unreachable = min 0xFFFF (s.dev.fab.positions.filter (fun m => m != s.dev.hid.moduleId && m != 0xFFF && !s.dev.fab.reachable s.dev.hid.moduleId m)).length)
  ∧ (∀ s, (∀ m ∈ s.dev.peers, s.dev.fab.silent.getD m 0 < 4) → Runs .probeTimer s fun t => t.dev.fab.probeNo = s.dev.fab.probeNo + 1
      ∧ (∀ m ∈ s.dev.peers, t.dev.fab.silent.getD m 0 = s.dev.fab.silent.getD m 0 + 1) ∧ t.dev.obj = s.dev.obj ∧ t.dev.parts = s.dev.parts ∧ t.dev.mem = s.dev.mem)
  ∧ (∀ m q u j f s, s.dev.parts.get? q = some u → u.memp.far.get? j = some f → f.module = m → f.heard = true → f.st = 1 ∨ f.st = 2 →
      Runs (.probeTimeout m) s fun t => t.dev.fab.lostCount = min 0xFFFF (s.dev.fab.lostCount + 1) ∧ m ∈ t.dev.fab.lost
        ∧ ((t.dev.parts.get? q).bind (fun u => u.memp.far.get? j)).map (fun f => f.st) = some 3)
  ∧ (∀ s, s.dev.fab.st = 1 → s.dev.fab.upstream ≠ 0xF → Runs .fabricTimeLock s fun t => t = { s with dev := { s.dev with fab := { s.dev.fab with st := 2 } } })
  ∧ ∀ (v : W64) s,
      let dx := bits v 0 5
      let dy := bits v 5 5
      let dz := bits v 10 5
      let m := s.dev.hid.moduleId
      let out := dx ≤ coord m 0 ∨ dy ≤ coord m 1 ∨ dz ≤ coord m 2
      (1 ≤ dx ∧ dx ≤ 16 ∧ 1 ≤ dy ∧ dy ≤ 16 ∧ 1 ≤ dz ∧ dz ≤ 16 → Runs (.fabricCtrlWrite v) s fun t =>
        t.dev.fab.routeEn = decide (v.getLsbD 31 = true ∧ ¬out) ∧ t.dev.fab.dx = dx ∧ t.dev.fab.dy = dy ∧ t.dev.fab.dz = dz
        ∧ t.dev.obj.ignoredCount = s.dev.obj.ignoredCount + (if v.getLsbD 31 = true ∧ out then 1 else 0))
      ∧ (¬(1 ≤ dx ∧ dx ≤ 16 ∧ 1 ≤ dy ∧ dy ≤ 16 ∧ 1 ≤ dz ∧ dz ≤ 16) → Runs (.fabricCtrlWrite v) s fun t =>
        t.dev.fab = s.dev.fab ∧ t.dev.obj.ignoredCount = s.dev.obj.ignoredCount + 1 ∧ t.dev.obj.ignCause = 0x09))

/-! The resilience engine (12). -/

/-- R401 to R405, R410 to R412, R414, R417, R419, R426: what the STATE packets of a member do at an armed slot. -/
def Obligations.WalingPackets : Prop :=
  ∀ p k s w r,
    let d := taken s.dev p k
    let q := k.destPart
    StateFrom s k w r →
    let round := k.arg 6 8
    let round' := k.arg 7 8
    let now (t : State) : Wg := t.dev.wg q
    (Delivered s 0x30 p k →
      let r' := k.arg 10 1
      let w' := { w with heard := (k.srcMod :: w.heard).eraseDups }
      (k.arg 6 4 ≠ (s.dev.wgDigest w).toNat → Runs (.whello p k) s fun t => now t = { w with st := 4 })
      ∧ (k.arg 6 4 = (s.dev.wgDigest w).toNat → w.rebuildMask.getLsbD w.rank = false → w.rebuildMask.getLsbD r' = false → Runs (.whello p k) s fun t =>
          now t = (if w.digested.contains r' then w' else { w' with digested := r' :: w.digested }) ∧ t.dev.mem = s.dev.mem)
      ∧ (k.arg 6 4 = (s.dev.wgDigest w).toNat → r' ≠ w.rank → w.rebuildMask.getLsbD r' = true → CanonicalMem s.dev → Runs (.whello p k) s fun t =>
          (now t).rebuildMask = w.rebuildMask &&& ~~~(1#16 <<< r') ∧ (now t).heard = w'.heard ∧ (now t).st = w.st
          ∧ t.dev.dramRead (w.table * 2 ^ 20 + 4 * r') 4 = leBytes 4 (s.dev.member w r' % 2 ^ 15)))
    ∧ (Delivered s 0x24 p k → k.arg 10 1 = 1 → r ≠ w.rank → w.lostMask.getLsbD r = false → w.release = false → w.snap = none → Runs (.withdraw p k) s fun t =>
        (now t).lostMask = w.lostMask ||| (1#16 <<< r) ∧ (now t).rebuildMask = w.rebuildMask &&& ~~~(1#16 <<< r) ∧ (now t).epoch = w.epoch + 1
        ∧ (now t).st = if w.np < popcount16 ((w.lostMask ||| (1#16 <<< r)) ||| (w.rebuildMask &&& ~~~(1#16 <<< r))) then 4 else w.st)
    ∧ (Delivered s 0x31 p k → w.st = 1 → w.snap = none → w.lostMask = 0 → w.rebuildMask = 0 →
      (w.leader = w.rank → Runs (.snapReq p k) s fun t => now t = { w with snap := some ⟨round + 1, false, false, [], [], false, []⟩ })
      ∧ (w.leader ≠ w.rank → Runs (.snapReq p k) s fun t => now t = w ∧ t.dev = d))
    ∧ (∀ u, Delivered s 0x32 p k → s.dev.parts.get? q = some u →
      (u.rnd.index.toNat ≤ round → w.snap = none → Runs (.snapAt p k) s fun t => now t = { w with snap := some ⟨round, false, false, [], [], false, []⟩ })
      ∧ (round < u.rnd.index.toNat → Runs (.snapAt p k) s fun t => t.dev = d.sendRank q w r 0x33 [(8, round)] []))
    ∧ (∀ sn, w.snap = some sn → w.release = false →
      let dropped (t : State) : Prop := (now t).snap = none ∧ (now t).snapAt = [] ∧ (now t).st = (if w.st = 2 then 1 else w.st) ∧ (now t).base = w.base
        ∧ t.dev.rse.aborted = min 0xFFFF (s.dev.rse.aborted + 1)
      (Delivered s 0x33 p k → sn.round = round → w.leader = w.rank → Runs (.snapLate p k) s dropped)
      ∧ (Delivered s 0x36 p k → k.arg 6 1 = 2 → sn.round = round' → Runs (.snapAbort p k) s dropped)
      ∧ (Delivered s 0x36 p k → k.arg 6 1 = 1 → sn.round = round' → sn.frozen = true → Runs (.snapCommit p k) s fun t =>
          (now t).base = w.snapAt ∧ (now t).snapAt = [] ∧ (now t).side = 1 - w.side ∧ (now t).baseRound = BitVec.ofNat 64 round' ∧ (now t).snap = none
          ∧ (now t).logEnts = w.logEnts.filter (fun e => decide (round' < e.round)) ∧ (now t).holdEnts = w.holdEnts.filter (fun e => decide (round' < e.2.round))
          ∧ t.dev.rse.committed = (s.dev.rse.committed + 1) % 2 ^ 24)
      ∧ (Delivered s 0x36 p k → k.arg 6 1 = 0 → sn.round = round' → Runs (.snapDone p k) s fun t =>
          t.dev = (d.updWg q (fun w => { w with snap := some { sn with dones := (r :: sn.dones).eraseDups } })).leaderCommit q)
      ∧ (∀ x, Delivered s 0x34 p k → w.holds (k.arg 6 4) = some x → k.arg 6 4 < w.stripes → k.arg 10 1 < 16 → (w.dataRanks (k.arg 6 4)).contains r = true →
          (k.arg 6 4, r, k.arg 10 1) ∉ sn.pieces →
          let va := w.parityAt (1 - w.side) (k.arg 6 4) x + 65536 * k.arg 10 1
          let term := if x then scaleBytes (gfPow (w.dataIdx (k.arg 6 4) r)) k.data else k.data
          let bad := s.dev.vbad w.context va 65536
          (bad = false → Runs (.ship p k) s fun t => ∃ d' : Dev, t.dev = d'.snapCheck q
            ∧ (d'.wg q).snap = some { sn with pieces := (k.arg 6 4, r, k.arg 10 1) :: sn.pieces }
            ∧ d'.mem = (s.dev.engWrite w.context (s.dev.leadOf q) va (xorBytes (s.dev.vreadNew w.context va 65536) term)).mem)
          ∧ (bad = true → Runs (.ship p k) s fun t => t.dev = d.loseUncorr w.context))
      ∧ (Delivered s 0x35 p k → Runs (.shipAck p k) s fun t =>
          t.dev = (d.updWg q (fun w => { w with snap := some { sn with unacked := sn.unacked.filter (fun u => u != (k.arg 6 4, r)) } })).snapCheck q))
    ∧ (Delivered s 0x38 p k → k.arg 6 1 ≠ w.rank → (∀ x ∈ w.holdPart, ¬(x.1 = k.arg 6 1 ∧ x.2.1 = round')) →
      (k.data.length < entryLen k.data → Runs (.logData p k) s fun t => now t = { w with holdPart := w.holdPart ++ [(k.arg 6 1, round', k.data)] } ∧ t.dev.mem = s.dev.mem)
      ∧ (entryLen k.data ≤ k.data.length → (∀ x ∈ w.holdEnts, ¬(x.1 = k.arg 6 1 ∧ x.2.seq = round')) → Runs (.logData p k) s fun t =>
          let e := k.data.take (entryLen k.data)
          (now t).holdEnts = w.holdEnts ++ [(k.arg 6 1, ⟨round', leNat ((e.drop 8).take 8), (e.getD 0 0).toNat, w.holdPos, e.length, []⟩)]
          ∧ (now t).holdPos = w.holdPos + e.length))
    ∧ (∀ rb, Delivered s 0x38 p k → k.arg 6 1 = w.rank → w.rebuild = some rb →
      (k.data.length = 16 → Runs (.logData p k) s fun t => t.dev.mem = s.dev.mem
        ∧ now t = { w with rebuild := some { rb with asked := rb.asked.filter (fun x => x != r) }, baseRound := BitVec.ofNat 64 (leNat (k.data.take 8)), t := max w.t (leNat (k.data.drop 8)) })
      ∧ (k.data.length ≠ 16 → rb.fetch.get? r = none → k.data.length < entryLen k.data → Runs (.logData p k) s fun t => t.dev.mem = s.dev.mem
        ∧ now t = { w with rebuild := some { rb with fetch := rb.fetch.set r (round', k.data) } }))
    ∧ (Delivered s 0x39 p k → Runs (.logAck p k) s fun t => now t = { w with logEnts := w.logEnts.map (fun e =>
        if k.arg 6 1 = w.rank && e.seq = round' && !e.acked.contains r then { e with acked := r :: e.acked } else e) } ∧ t.dev.mem = s.dev.mem)
    ∧ (Delivered s 0x3A p k → (∀ e ∈ w.holdEnts, s.dev.ringBad w.context (Wg.ringVa w.hold) (Wg.ringBytes w.hold) e.2.off e.2.len = false) → Runs (.logFetch p k) s fun t => t.dev = d.logFetchIn q (k.arg 6 1) round' (leNat (k.inl.take 8)) k.srcMod k.srcPart
        ∧ t.dev.rse = s.dev.rse ∧ t.dev.mem = s.dev.mem ∧ t.dev.obj = s.dev.obj)
    ∧ (Delivered s 0x3B p k →
      let st := k.arg 6 4
      let c := k.arg 11 1
      (k.tag.toNat ≠ w.rank → (w.chainRanks st k.tag.toNat c).contains w.rank = true → s.dev.contribBad w st c (k.arg 10 1) = true →
        Runs (.rebuildPart p k) s fun t => t.dev = d.loseUncorr w.context)
      ∧ (k.tag.toNat ≠ w.rank → (w.chainRanks st k.tag.toNat c).contains w.rank = true → s.dev.contribBad w st c (k.arg 10 1) = false → Runs (.rebuildPart p k) s fun t =>
        let next := ((w.chainRanks st k.tag.toNat c).find? (fun r => decide (w.rank < r))).getD k.tag.toNat
        let m := s.dev.member w next
        t.dev = d.send 0x3B (memMod m) (memPart m) q k.tag (w.args [(4, st), (1, k.arg 10 1), (1, c)]) (xorBytes k.data (s.dev.contribution w st c (k.arg 10 1))))
      ∧ ∀ rb, k.tag.toNat = w.rank → w.rebuild = some rb → w.rstate = 1 → st < w.stripes → k.arg 10 1 < 16 → (st, k.arg 10 1) ∉ rb.solved →
          let parts := (st, k.arg 10 1, c, k.data) :: rb.parts.filter (fun y => !(y.1 = st && y.2.1 = k.arg 10 1 && y.2.2.1 = c))
          let all := (w.chainsOf st w.rank).all (fun c => parts.any (fun y => y.1 = st && y.2.1 = k.arg 10 1 && y.2.2.1 = c))
          Runs (.rebuildPart p k) s fun t => (now t).rebuild = (if all
            then some { rb with parts := parts.filter (fun y => !(y.1 = st && y.2.1 = k.arg 10 1)), solved := (st, k.arg 10 1) :: rb.solved }
            else some { rb with parts := parts }))
    ∧ (Delivered s 0x3C p k →
      let x := k.arg 6 1
      let j : Journal := ⟨w.walingId, x, k.arg 7 2, k.arg 9 1 = 1⟩
      Runs (.journal p k) s fun t => t.dev.rse.journals = s.dev.rse.journals.filter (fun j => !(j.walingId = w.walingId && j.rank = x)) ++ [j]
        ∧ (k.arg 9 1 = 1 → now t = w ∧ t.dev.mem = s.dev.mem)
        ∧ (k.arg 9 1 ≠ 1 → (now t).rebuildMask = w.rebuildMask ||| (1#16 <<< x)))

/-- R394 to R396, R398, R402, R416 to R419, R424: the register writes of a waling slot, the start of shipping, replay, the estimate of the risk, and
the errors that come with it (log 98). -/
def Obligations.WalingCommands : Prop :=
  ∀ p (v : W64) s,
    let w := s.dev.wg p
    let now (t : State) : Wg := t.dev.wg p
    (let w' := w.withCtrl v
     let areas : List (Nat × Nat) := [(Wg.ringVa w'.log, Wg.ringBytes w'.log), (Wg.ringVa w'.hold, Wg.ringBytes w'.hold), (Wg.ringVa w'.parityVa, 2 * w'.np * w'.width * 2 ^ 20)]
     ∀ u x prot ar, v.getLsbD 4 = true → w.st = 0 → s.dev.parts.get? p = some u → 4 ≤ w'.size → w'.size ≤ 16 → s.dev.badIn (w'.table * 2 ^ 20) (4 * w'.size) = false →
      s.dev.obj.ctxs.get? w'.context = some x → x.part = p → x.st = .active → w'.rank < w'.size → w'.shardUnits ≠ 0 → w'.units ≤ w'.shardUnits →
      s.dev.rangesSubs w'.context (w'.regs.map (fun r => (r.1, r.2 * 2 ^ 20))) = some prot → s.dev.rangesSubs w'.context areas = some ar →
      2 * prot.length ≤ s.dev.localFree p →
      Runs (.walingArm p v) s fun t => (now t).st = 1 ∧ (now t).prot = prot ∧ (now t).areas = ar ∧ (now t).poolLeft = 2 * prot.length
        ∧ (now t).refs = ((prot ++ ar).eraseDups.map (fun o => o.1)).eraseDups ∧ (now t).epoch = (if v.getLsbD 5 then w.epoch else 0) ∧ (now t).rank = bits v 38 4)
    ∧ (p < 8 → v.getLsbD 3 = true → w.st ≠ 0 → Runs (.walingRelease p v) s fun t => now t = if w.busy then { w with release := true } else w.freed)
    ∧ (let r := bits v 16 4
       v.getLsbD 31 = true → w.armed = true → w.lostMask.getLsbD r = true → CanonicalMem s.dev → Runs (.subst p v) s fun t =>
        t.dev.dramRead (w.table * 2 ^ 20 + 4 * r) 4 = leBytes 4 (bits v 0 15 + 2 ^ 16)
        ∧ (now t).lostMask = w.lostMask &&& ~~~(1#16 <<< r) ∧ (now t).rebuildMask = w.rebuildMask ||| (1#16 <<< r) ∧ (now t).epoch = w.epoch + 1
        ∧ (now t).prot = w.prot ∧ (now t).base = w.base ∧ (now t).logEnts = w.logEnts)
    ∧ (v.getLsbD 2 = true → w.armed = true → w.rebuildMask.getLsbD w.rank = true → Runs (.rebuildGo p v) s fun t =>
        now t = { w with st := 3, rstate := 1, stripesDone := 0, base := [], logPos := 0, logEnts := [], logSeq := 0, t := 0, poolLeft := (now t).poolLeft, rebuild := some ⟨[], [], [], w.holders.filter (fun r => !w.missing.contains r)⟩ } ∧ (w.base = [] → (now t).poolLeft = w.poolLeft ∧ t.dev.mem = s.dev.mem))
    ∧ (s.dev.replayReady p w = true → w.release = false → Runs (.rebuildReplay p) s fun t =>
        (now t).rstate = 0 ∧ (now t).rebuild = none ∧ (now t).st = w.st ∧ (now t).logEnts = w.logEnts
        ∧ t.dev.mem = (((w.logEnts.filter (fun e => e.ty = 2 && decide (e.round ≤ w.t))).foldl (fun l e => insEnt e l) []).foldl (fun d e => d.replayEntry p w e) s.dev).mem)
    ∧ (v.getLsbD 3 = true → w.st = 3 → w.rstate = 0 → CanonicalMem s.dev → Runs (.joined p v) s fun t =>
        now t = { w with st := 1, joining := false, rebuildMask := w.rebuildMask &&& ~~~(1#16 <<< w.rank) }
        ∧ t.dev.dramRead (w.table * 2 ^ 20 + 4 * w.rank) 4 = leBytes 4 (s.dev.member w w.rank % 2 ^ 15))
    ∧ (∀ sn, w.snap = some sn → sn.frozen = true → sn.drained = false → s.dev.cmdsIn p (fun c => c.opc = 2 && c.inflight && decide (c.round ≤ sn.round)) = [] →
      s.dev.ctxLost w.context = false → (∀ o ∈ w.prot, (s.dev.osub o).st ≠ .far ∧ (s.dev.osub o).st ≠ .inbound ∧ (s.dev.osub o).st ≠ .migrating) →
      (∀ e ∈ w.snapAt, s.dev.badIn (e.2 * 65536) 65536 = false) →
      Runs (.snapDrainStart p) s fun t => ∃ d' : Dev, t.dev = d'.snapCheck p ∧ d'.mem = s.dev.mem ∧ ∃ s', d'.wg p = { w with snap := some s' } ∧ s'.drained = true
        ∧ s'.round = sn.round ∧ s'.pieces = sn.pieces ∧ ∀ st h, (st, h) ∈ s'.unacked ↔ st < w.stripes ∧ w.rank ∈ w.dataRanks st ∧ w.unitOf st w.rank < w.shardUnits
          ∧ (h = w.pRank st ∨ w.qRank st = some h))
    ∧ (∀ c, Runs (.riskEstimate c) s fun t =>
        let x := t.dev.riskSample
        let o := (s.dev.rse.hist.getLast?).getD x
        let k := s.dev.rse.riskCtrl
        let rise := (x.temps.zip o.temps).foldl (fun (m : Int) y => max m (y.1 - y.2)) 0
        t.dev.rse.risk = min 65535 (bits k 0 8 * min 255 (x.e - o.e) + bits k 8 8 * min 255 (x.l - o.l) + bits k 16 8 * min 255 (x.d - o.d) + bits k 24 8 * min 255 rise.toNat)
        ∧ t.dev.rse.hist = (x :: s.dev.rse.hist).take 100 ∧ t.dev.rse.wgs = s.dev.rse.wgs ∧ t.dev.mem.bytes = s.dev.mem.bytes
        ∧ (c.struck = [] → t.dev.mem = s.dev.mem)
        ∧ (∀ a b n, c.struck = [.clm a b n] → a < 8 → b < 40 → n < 393216 → n ∈ (t.dev.cluster (ckey a b)).badClm)
        ∧ ∀ y r k q, c.struck = [.reg y r k] → k < 32 → s.dev.plaits.get? (pkey y) = some q → r < q.alloc → ∃ q', t.dev.plaits.get? (pkey y) = some q' ∧ 32 * r + k ∈ q'.bad)
    ∧ (let c := bits v 9 6
       p < 8 → c < 40 → bits v 16 8 ≠ 0 → Runs (.swap p v) s fun t =>
        let x := s.dev.tile p
        t.dev.tile p = { x with spare := { x.spare with corrThresh := bits v 16 8, cluster := c }, maint := if v.getLsbD 15 then x.maint ++ [.swap c] else x.maint }
        ∧ (∀ n, n ≠ p → t.dev.tile n = s.dev.tile n) ∧ t = { s with dev := { s.dev with tiles := t.dev.tiles } })

/-! Power and resets (13, 14). -/

/-- R434, R436, R438, R440, R441, R447 to R451: an interval of the controller without a firmware hold, droop, the write of the cap, the
writes of TARGET, the entry into a power state, its exit, and the wake from PS3. -/
def Obligations.PowerEvents : Prop :=
  let rest (x y : ScSt) : ScSt := if x = .failed ∨ x = .off ∨ x = .retrain then x else y
  (∀ (m : PtcMeas) s, s.dev.rstc.held = .no → s.dev.ptc.psState ≠ 3 → s.dev.ptc.fwHold = 0 →
    let c := s.dev.ptc
    let limit := min c.capW (min (82 * m.vinMv / 1000) (if c.ibcOk = 0xF#4 then 3600 else 2700))
    let clamp : Prop := 115 ≤ m.hubC ∨ (c.clamp = true ∧ 105 ≤ m.hubC)
    Runs (.ptcInterval m) s fun t =>
      t.dev.ptc.limitW = limit ∧ t.dev.ptc.pinW = m.pinW ∧ (t.dev.ptc.clamp = true ↔ clamp) ∧ (clamp → t.dev.ptc.kCap = 16)
      ∧ (¬clamp → limit < m.pinW → t.dev.ptc.kCap = max 16 (c.kCap - 2))
      ∧ (¬clamp → m.pinW * 100 < limit * (100 - c.hyst) → t.dev.ptc.kCap = min 64 (c.kCap + 1))
      ∧ (¬clamp → m.pinW ≤ limit → limit * (100 - c.hyst) ≤ m.pinW * 100 → t.dev.ptc.kCap = c.kCap)
      ∧ (∀ k < 8,
        let x := (s.dev.tile k).trip
        let logic := m.logicC.getD k x.logicC
        let dram := max (s.dev.tile k).sc0.tempC (s.dev.tile k).sc1.tempC
        (t.dev.tile k).trip.trip = (if x.trip then decide (¬(logic ≤ 95 ∧ dram ≤ 95)) else decide (115 ≤ logic ∨ 105 < dram))
        ∧ (t.dev.tile k).trip.kTherm = (if (c.throttleC : Int) < logic then max 16 (x.kTherm - 2) else if logic < (c.throttleC : Int) - 3 then min 64 (x.kTherm + 1) else x.kTherm))
      ∧ t.dev.mem = s.dev.mem ∧ t.dev.obj = s.dev.obj ∧ t.dev.parts = s.dev.parts)
  ∧ (∀ tile c mv s, tile < 8 → c < 40 → s.dev.ptc.droopMv ≤ mv → Runs (.droopDetect tile c mv) s fun t =>
      let x := s.dev.ptc.droopMv
      let n := if 2 * mv < 3 * x then 1 else if mv < 2 * x then 2 else if 2 * mv < 5 * x then 3 else 4
      let old := (s.dev.cluster (ckey tile c)).stretch
      (t.dev.cluster (ckey tile c)).stretch = max old n ∧ t.dev.ptc.droops = (if old = 0 then (s.dev.ptc.droops + 1) % 2 ^ 32 else s.dev.ptc.droops)
      ∧ ∀ k, k ≠ ckey tile c → t.dev.cluster k = s.dev.cluster k)
  ∧ (∀ tile c s, c < 40 → (s.dev.cluster (ckey tile c)).stretch ≠ 0 → Runs (.droopRelax tile c) s fun t =>
      (t.dev.cluster (ckey tile c)) = { s.dev.cluster (ckey tile c) with stretch := (s.dev.cluster (ckey tile c)).stretch - 1 } ∧ t.dev.ptc = s.dev.ptc)
  ∧ (∀ (v : W64) s,
      let ok : Prop := 1200 ≤ bits v 0 16 ∧ bits v 0 16 ≤ 3600 ∧ 1 ≤ bits v 16 8 ∧ bits v 16 8 ≤ 10
      (ok → Runs (.capWWrite v) s fun t => t = { s with dev := { s.dev with ptc := { s.dev.ptc with capW := bits v 0 16, hyst := bits v 16 8 } } })
      ∧ (¬ok → Runs (.capWWrite v) s fun t => IgnoredWrite s t 0x09 0x00200008))
  ∧ (∀ row ∈ ([(0, .psTargetPs0), (1, .psTargetPs1), (2, .psTargetPs2), (3, .psTargetPs3)] : List (Nat × (W64 → Instr))), ∀ (v : W64) s,
      let refused : Prop := s.dev.otpc.pending = true ∨ s.dev.ptc.psPending = true ∨ (row.1 = 3 ∧ s.dev.parts ≠ [])
        ∨ (row.1 = 2 ∧ ((∃ u ∈ s.dev.parts, ∃ l ∈ u.2.memp.lend, l.2.active = true) ∨ ∃ w ∈ s.dev.rse.wgs, w.2.st ≠ 0))
      (s.dev.ptc.psState = 3 → Runs (row.2 v) s fun t => t = s)
      ∧ (s.dev.ptc.psState ≠ 3 → refused → Runs (row.2 v) s fun t => IgnoredWrite s t 0x09 0x00200038)
      ∧ (s.dev.ptc.psState ≠ 3 → ¬refused → Runs (row.2 v) s fun t => t.dev.ptc.psTarget = row.1 ∧ t.dev.ptc.wakeAddr = bits v 2 7 ∧ t.dev.ptc.psState = s.dev.ptc.psState
        ∧ t.dev.ptc.psPending = decide (row.1 ≠ 0 ∧ row.1 ≠ s.dev.ptc.psState) ∧ t = { s with dev := { s.dev with ptc := t.dev.ptc } }))
  ∧ (∀ s, s.dev.ptc.psPending = true → (∀ u ∈ s.dev.parts, u.1 ∈ s.dev.ptc.ticked) → (∀ u ∈ s.dev.parts, s.dev.cmdsIn u.1 Cmd.inflight = []) →
      (s.dev.ptc.psTarget = 1 → Runs .psEntryComplete s fun t => t.dev.ptc = { s.dev.ptc with psPending := false, psState := 1 } ∧ t.dev.obj = s.dev.obj ∧ t.dev.mem = s.dev.mem)
      ∧ (s.dev.ptc.psTarget = 2 → Runs .psEntryComplete s fun t => t.dev.ptc = { s.dev.ptc with psPending := false, psState := 2 } ∧ t.dev.obj = s.dev.obj ∧ t.dev.mem = s.dev.mem
        ∧ ∀ k < 8, (t.dev.tile k).sc0.st = rest (s.dev.tile k).sc0.st .selfRefresh ∧ (t.dev.tile k).sc1.st = rest (s.dev.tile k).sc1.st .selfRefresh)
      ∧ (s.dev.ptc.psTarget = 3 → s.dev.ptc.wake = false → Runs .psEntryComplete s fun t => t.dev.ptc.psState = 3
        ∧ t.dev.rstc = { Rstc.reset with sysCount := s.dev.rstc.sysCount, coreCount := s.dev.rstc.coreCount, level := s.dev.rstc.level, source := s.dev.rstc.source, history := s.dev.rstc.history, held := .ps3 }
        ∧ t.dev.ptc.wakeAddr = s.dev.ptc.wakeAddr ∧ t.dev.ptc.hubUj = s.dev.ptc.hubUj ∧ t.dev.parts = [] ∧ t.dev.fab.ports = [] ∧ t.dev.flash = s.dev.flash ∧ t.otp = s.otp)
      ∧ (s.dev.ptc.psTarget = 3 → s.dev.ptc.wake = true → Runs .psEntryComplete s fun t => AfterPor s t 5 .no))
  ∧ (∀ s, s.dev.ptc.psTarget = 0 → s.dev.ptc.psPending = false → s.dev.ptc.psState = 1 ∨ s.dev.ptc.psState = 2 → Runs .psExitComplete s fun t =>
      t.dev.ptc.psState = 0 ∧ t.dev.parts = s.dev.parts ∧ t.dev.obj = s.dev.obj ∧ t.dev.mem = s.dev.mem
      ∧ (s.dev.ptc.psState = 2 → ∀ u ∈ s.dev.parts, ∀ k ∈ u.2.tiles,
        (t.dev.tile k).sc0.st = rest (s.dev.tile k).sc0.st .active ∧ (t.dev.tile k).sc1.st = rest (s.dev.tile k).sc1.st .active))
  ∧ ∀ s, (s.dev.ptc.psState = 3 → s.dev.rstc.held = .ps3 → Runs (.ps3Wake s.dev.ptc.wakeAddr) s fun t => AfterPor s t 5 .no)
    ∧ (s.dev.ptc.psState ≠ 3 → s.dev.ptc.psPending = true → s.dev.ptc.psTarget = 3 → Runs (.ps3Wake s.dev.ptc.wakeAddr) s fun t =>
        t = { s with dev := { s.dev with ptc := { s.dev.ptc with wake := true } } })

/-- R429, R430, R444, R453 to R460, R479, R501: the sources of POR, SYSRST and CORERST, a narrower request during a wider reset, the ends of a
hold, the watchdog write, the block holds and releases, a lost PLL lock. -/
def Obligations.ResetEvents : Prop :=
  (∀ mv us s, PorTaken s → (mv < 40000 → 100 < us → Runs (.inputUndervoltage mv us) s fun t => AfterPor s t 1 .needPower)
      ∧ (60000 < mv → 10 < us → Runs (.inputOvervoltage mv us) s fun t => AfterPor s t 2 .needPower))
  ∧ (∀ k c s, PorTaken s → 125 ≤ c → k ≤ 8 → Runs (.criticalShutdown k c) s fun t => AfterPor s t 3 .needInPg ∧ t.dev.ptc.thermTrip = true)
  ∧ (∀ k s, k < 4 → s.dev.ptc.ibcOk.getLsbD k = true → s.dev.rstc.held ≠ .needPower → s.dev.rstc.held ≠ .needInPg → s.dev.ptc.psState ≠ 3 →
      (s.dev.ptc.ibcOk = 0xF#4 → Runs (.ibcFail k) s fun t => t = { s with dev := { s.dev with ptc := { s.dev.ptc with ibcOk := s.dev.ptc.ibcOk &&& ~~~(1#4 <<< k), ibcFaults := min 0xFF (s.dev.ptc.ibcFaults + 1) } } })
      ∧ (s.dev.ptc.ibcOk ≠ 0xF#4 → Runs (.ibcFail k) s fun t => AfterPor s t 4 .needInPg ∧ t.dev.ptc.thermTrip = true))
  ∧ (∀ s, s.dev.rstc.held = .needPower → Runs .powerUp s fun t => t.dev.rstc = { s.dev.rstc with held := .no } ∧ t.dev.ptc = { s.dev.ptc with thermTrip := false } ∧ t.dev.obj = s.dev.obj)
  ∧ (∀ s, (PorTaken s → Runs .inPgDeassert s fun t => AfterPor s t 6 .needPower)
      ∧ (s.dev.rstc.held = .needInPg → Runs .inPgDeassert s fun t => t.dev.rstc = { s.dev.rstc with held := .needPower, history := s.dev.rstc.history ||| BitVec.ofNat 15 (2 ^ 6) }))
  ∧ (∀ s, SysTaken s →
      (∀ ns, 1000 ≤ ns → Runs (.sysRstNLow ns) s fun t => AfterSys s t 7 .sysRstN)
      ∧ (∀ v : W64, v.getLsbD 0 = false → bits v 24 8 = 0xA5 → Runs (.rstcCtrlSysrst v) s fun t => AfterSys s t 8 .no)
      ∧ (s.dev.boot.romStarted = true → s.dev.otpc.opt.wdtSec ≠ 0 → Runs .secWatchdogExpire s fun t => AfterSys s t 9 .no)
      ∧ (s.dev.dbg.level = 2 → Runs (.debugResetRequest false) s fun t => AfterSys s t 0xA .no)
      ∧ (∀ k, k = 17 ∨ k = 18 → Runs (.pllLockLost k) s fun t => AfterSys s t 0xD .no))
  ∧ (∀ s, CoreTaken s →
      (∀ v : W64, v.getLsbD 1 = false → bits v 24 8 = 0xA5 → Runs (.rstcCtrlCorerst v) s fun t => AfterCore s t 0xB)
      ∧ (s.dev.narbyWdtOn = true → Runs .narbyWatchdogExpire s fun t => AfterCore s t 0xC)
      ∧ (s.dev.boot.handover = true → Runs .handoverTimeout s fun t => AfterCore s t 0xC)
      ∧ (s.dev.dbg.level = 2 → Runs (.debugResetRequest true) s fun t => AfterCore s t 0xA))
  ∧ (∀ s, s.dev.ptc.psState ≠ 3 → s.dev.rstc.busyLevel = some .sys ∨ s.dev.rstc.busyLevel = some .por → ∀ ns, 1000 ≤ ns → Runs (.sysRstNLow ns) s fun t =>
      t = { s with dev := { s.dev with rstc := { s.dev.rstc with history := s.dev.rstc.history ||| BitVec.ofNat 15 (2 ^ 7) } } })
  ∧ (∀ (v : W64) s, bits v 24 8 ≠ 0xA5 → (Runs (.rstcCtrlSysrst v) s fun t => IgnoredWrite s t 0x09 0x00100008) ∧ Runs (.rstcCtrlCorerst v) s fun t => IgnoredWrite s t 0x09 0x00100008)
  ∧ (∀ s, s.dev.rstc.held = .sysRstN → Runs .sysRstNRelease s fun t => t = { s with dev := { s.dev with rstc := { s.dev.rstc with held := .no } } })
  ∧ (∀ (v : W64) s,
      let n := bits v 0 16
      (n = 0 ∨ (100 ≤ n ∧ n ≤ 60000) → Runs (.kick v) s fun t => t = { s with dev := { s.dev with rstc := { s.dev.rstc with narbyMs := n } } })
      ∧ (¬(n = 0 ∨ (100 ≤ n ∧ n ≤ 60000)) → Runs (.kick v) s fun t => IgnoredWrite s t 0x09 0x00100018))
  ∧ (∀ k s, (k < 17 → k ∉ s.dev.rstc.unlocked → Runs (.pllLockLost k) s fun t =>
        t = { s with dev := { s.dev with rstc := { s.dev.rstc with unlocked := k :: s.dev.rstc.unlocked, pllFault := true } } })
      ∧ (19 ≤ k → k < 25 → Runs (.pllLockLost k) s fun t => t.dev.rstc = { s.dev.rstc with stable := s.dev.rstc.stable &&& ~~~(1#9 <<< (k - 19)), pllFault := true }))
  ∧ (∀ (v : W64) s,
      let h : BitVec 9 := v.extractLsb' 0 9
      (s.dev.rstc.hold &&& ~~~h &&& ~~~s.dev.rstc.stable = 0 → Runs (.blockHoldWrite v) s fun t =>
        t.dev.rstc = { s.dev.rstc with hold := h, pllFault := s.dev.rstc.pllFault && !v.getLsbD 24 })
      ∧ (s.dev.rstc.hold &&& ~~~h &&& ~~~s.dev.rstc.stable ≠ 0 → Runs (.blockHoldWrite v) s fun t => IgnoredWrite s t 0x0B 0x00100010))
  ∧ ∀ b s, s.dev.rstc.held = .no →
      (b < 9 → s.dev.boot.romStarted = true → Runs (.blockRelease b) s fun t => t.dev.rstc = { s.dev.rstc with stable := s.dev.rstc.stable ||| (1#9 <<< b) })
      ∧ (b = 9 → s.dev.rstc.coreStep = true → Runs (.blockRelease b) s fun t => t.dev.rstc = { s.dev.rstc with coreStep := false, busyLevel := none })
      ∧ (16 ≤ b → Runs (.blockRelease b) s fun t => ∀ k, k ∈ t.dev.rstc.unlocked ↔ k ∈ s.dev.rstc.unlocked ∧ k ≠ b - 16)

/-- R461, R462, R469 to R473, R511: start-up from the fuse map to the Narby OS: each event takes its step once its time has come. -/
def Obligations.BootEvents : Prop :=
  (∀ s, s.dev.rstc.held = .no → s.dev.otpc.fuseDone = false → Runs .fuseMapApply s fun t =>
      t = { s with dev := { s.dev with otpc := { s.dev.otpc with fuse := (s.otp.record 0x01).map (fun b => BitVec.ofNat 1024 (leNat b)), fuseDone := true } } })
  ∧ (∀ s, s.dev.rstc.held = .no → s.dev.otpc.optDone = false →
      let inForce (t : State) (o : OptBytes) : Prop := t.dev.otpc.opt = o ∧ t.dev.otpc.optDone = true ∧ t.dev.ptc.wakeAddr = o.smbusAddr ∧ t.dev.sb.addr = o.smbusAddr
        ∧ t.dev.rstc.narbyMs = o.wdtNarby ∧ t.dev.fab.priority = o.timePriority ∧ ∀ p < 6, t.dev.fab.port p = { s.dev.fab.port p with en := o.hoopEn.getLsbD p }
      (∀ b, s.otp.record 0x02 = some b → optOk b = true → Runs .optionBytesRead s fun t => inForce t (optOf b) ∧ t.dev.otpc.optValid = true)
      ∧ ((∀ b, s.otp.record 0x02 = some b → optOk b = false) → Runs .optionBytesRead s fun t => inForce t OptBytes.absent ∧ t.dev.otpc.optValid = false))
  ∧ (∀ s, s.dev.rstc.held = .no → s.dev.boot.romStarted = false → s.dev.otpc.optDone = true →
      let good (x : Nat) : Prop := ∃ b, dirFind s.dev.flash x = some b ∧ compReason s.otp (fun y => y = x) b = 0
      (∀ x, 1 ≤ x → x ≤ 9 → (∀ y, 1 ≤ y → y < x → good y) → ¬good x → Runs .bootRomStart s fun t => t.dev.boot.romStarted = true ∧ t.dev.boot.stage = 1 ∧ t.dev.boot.failType = x
        ∧ t.dev.boot.failReason = (match dirFind s.dev.flash x with | some b => compReason s.otp (fun y => y = x) b | none => 1) ∧ t.otp = s.otp)
      ∧ ((∀ x, 1 ≤ x → x ≤ 9 → good x) → Runs .bootRomStart s fun t => t.dev.boot.romStarted = true ∧ t.dev.boot.stage = 2 ∧ t.otp.idKey = true
        ∧ (∀ x, 1 ≤ x → x ≤ 9 → ∃ b, dirFind s.dev.flash x = some b ∧ t.dev.secm.comps.get? x = some (compOf b))
        ∧ ∀ k < 8, (t.dev.tile k).sc0.st = .training ∧ (t.dev.tile k).sc1.st = .training))
  ∧ (∀ s, s.dev.boot.stage = 1 → Runs .recoveryRetry s fun t => t.dev.boot = { s.dev.boot with block := 0, image := [] }
      ∧ ∀ a, t.dev.flash.read a = if a < 4096 then 0 else s.dev.flash.read a)
  ∧ (∀ s, s.dev.rstc.held = .no → s.dev.boot.phyPower = false → Runs .hoopPhyPower s fun t => t.dev.boot = { s.dev.boot with phyPower := true }
      ∧ ∀ p < 6, t.dev.fab.port p = if (s.dev.fab.port p).st = .off then { s.dev.fab.port p with st := .idleHold } else s.dev.fab.port p)
  ∧ (∀ s, s.dev.boot.phyPower = true → s.dev.boot.idleReleased = false → Runs .hoopIdleRelease s fun t => t.dev.boot = { s.dev.boot with idleReleased := true }
      ∧ ∀ p < 6,
        let h := s.dev.fab.port p
        (s.dev.blockUp p = false → t.dev.fab.port p = h)
        ∧ (s.dev.blockUp p = true → h.st = .idleHold → h.en = true → t.dev.fab.port p = { h with idle := false, st := .training, good := 0, width := 0 }))
  ∧ (∀ s, s.dev.boot.romStarted = true → Runs .pciePerstRelease s fun t => t = { s with dev := { s.dev with boot := { s.dev.boot with perst := false } } })
  ∧ (∀ fails s, s.dev.boot.stage = 2 → s.dev.boot.romStarted = true → s.dev.boot.dramTrained = false → Runs (.dramTrainingDone fails) s fun t =>
      t.dev.boot = { s.dev.boot with dramTrained := true }
      ∧ (∀ k < 8, (t.dev.tile k).sc0.st = (if 2 * k ∈ fails then .failed else .selfRefresh) ∧ (t.dev.tile k).sc1.st = (if 2 * k + 1 ∈ fails then .failed else .selfRefresh))
      ∧ ∀ x ∈ [7, 8, 9], ∀ b, dirFind s.dev.flash x = some b → carveOk (compLoad b) (compBody b).length = true → t.dev.secm.places.get? x = some (compLoad b, (compBody b).length))
  ∧ (∀ (f : SelfTest) s, s.dev.boot.dramTrained = true → s.dev.boot.selfTested = false →
      let n := s.dev.otpc.opt.bootOverlay
      let body := s.otp.record (0x10 + n)
      Runs (.selfTestDone f) s fun t => t.dev.boot.selfTested = true ∧ (∀ k ∈ f.tiles, (t.dev.tile k).avail = false)
        ∧ (recordCause n body ≠ 0 → t.dev.otpc.cause = recordCause n body ∧ t.dev.hid.overlay = s.dev.hid.overlay)
        ∧ (recordCause n body = 0 → t.dev.hid.overlay = n ∧ t.dev.otpc.ents = (List.range 8).map (recEntry (body.getD []))))
  ∧ (∀ (q : ProbeDatagram) s, s.dev.mgmt.osOwner = false → s.dev.boot.romStarted = true → q.dstPort = 28400 → q.payload.length = 16 → s.dev.blockUp 6 = true →
      let n := if s.dev.mgmt.second = s.dev.clk.now / 1000000000 then s.dev.mgmt.replies else 0
      (n < 1000 → Runs (.statusProbe q) s fun t => t.dev.mgmt.replies = n + 1 ∧ t.dev.mgmt.dropRom = s.dev.mgmt.dropRom
        ∧ ∃ l, t.dev.out.get? 0x20 = some l ∧ l.length = 32 ∧ l.getD 0 0 = BitVec.ofNat 8 s.dev.boot.probeStage ∧ l.getD 1 0 = BitVec.ofNat 8 s.dev.boot.failReason)
      ∧ (1000 ≤ n → Runs (.statusProbe q) s fun t => t.dev.mgmt.dropRom = min 0xFFFF (s.dev.mgmt.dropRom + 1) ∧ t.dev.out = s.dev.out))
  ∧ ∀ s, s.dev.boot.dramTrained = true → s.dev.rstc.coreStep = false → s.dev.boot.stage ≠ 1 →
      (s.dev.boot.restarting = false ∨ s.dev.narbyBad s.otp false = none → Runs .narbyOsRunning s fun t => t.dev.boot.stage = 3 ∧ t.dev.boot.narby = true ∧ t.dev.boot.restarting = false
        ∧ t.dev.mgmt.osOwner = true ∧ t.dev.obj = { s.dev.obj with held := false })
      ∧ (∀ x, s.dev.boot.restarting = true → s.dev.narbyBad s.otp false = some x → Runs .narbyOsRunning s fun t =>
          t.dev.boot.stage = 1 ∧ t.dev.boot.failType = x.1 ∧ t.dev.boot.failReason = x.2)

/-- R463 to R468, R477 to R479: the commands of the security processor: a word with other bits set is ignored, before the firmware runs nothing
happens; each command's effect where it is accepted, and reasons of refusals. -/
def Obligations.SecurityCommands : Prop :=
  (∀ row ∈ ([.loadComponent, .commitSvn, .otpWrite, .keyInstall, .keyRevoke, .flashImage, .handover] : List (W64 → Instr)), ∀ v s,
      (bits v 8 56 ≠ 0 → Runs (row v) s fun t => IgnoredWrite s t 0x09 0x00300020)
      ∧ (bits v 8 56 = 0 → s.dev.boot.stage < 2 → Runs (row v) s fun t => t = s))
  ∧ (∀ (v : W64) s, bits v 8 56 = 0 → 2 ≤ s.dev.boot.stage →
    let a0 := s.secArg 0
    let a1 := s.secArg 1
    (carveOk a0 a1 = false → Runs (.loadComponent v) s fun t => SecmDone t 9 ∧ t.dev.secm.comps = s.dev.secm.comps ∧ t.dev.secm.next = s.dev.secm.next ∧ t.otp = s.otp)
    ∧ (SecReadable s a0 a1 →
      let b := s.dev.dramRead a0 a1
      let x := compReason s.otp (fun y => decide (1 ≤ y) && decide (y ≤ 9)) b
      (x ≠ 0 → Runs (.loadComponent v) s fun t => SecmDone t x ∧ t.dev.secm.comps = s.dev.secm.comps ∧ t.dev.secm.next = s.dev.secm.next ∧ t.dev.secm.meas = s.dev.secm.meas ∧ t.otp = s.otp)
      ∧ (x = 0 → Runs (.loadComponent v) s fun t => SecmDone t 0 ∧ t.otp = s.otp
        ∧ (leAt b 0 2 = 2 → t.dev.secm.comps.get? 2 = some (compOf b))
        ∧ (leAt b 0 2 ∈ [5, 6, 7, 8, 9] → t.dev.secm.next.get? (leAt b 0 2) = some (compOf b))
        ∧ (leAt b 0 2 ∈ [2, 4, 5, 6] → t.dev.secm.meas.getD 15 0 = Config.sha256 (leBytes 32 (s.dev.secm.meas.getD 15 0).toNat ++ leBytes 32 (compOf b).digest.toNat))
        ∧ (leAt b 0 2 ∈ [7, 8, 9] → t.dev.secm.nextPlaces.get? (leAt b 0 2) = some (a0 + 1024, leAt b 8 8))))
    ∧ (∀ c, 1 ≤ a0 → a0 ≤ 9 → s.dev.secm.comps.get? a0 = some c → Runs (.commitSvn v) s fun t => SecmDone t 0
        ∧ t.otp.counters.getD a0 0 = max (s.otp.counters.getD a0 0) (min 64 c.svn) ∧ (∀ k, k ≠ a0 → t.otp.counters.getD k 0 = s.otp.counters.getD k 0)
        ∧ t.otp.slots = s.otp.slots ∧ t.otp.keys = s.otp.keys)
    ∧ (s.dev.secm.comps.get? a0 = none → Runs (.commitSvn v) s fun t => SecmDone t 6 ∧ t.otp = s.otp)
    ∧ (a0 = 1 ∨ a0 = 2 → SecReadable s a1 (otpLen a0) → (s.authorised 3 (s.secArg 2) (fun _ => true)).2 ≠ 0 →
      Runs (.otpWrite v) s fun t => SecmDone t (s.authorised 3 (s.secArg 2) (fun _ => true)).2 ∧ t.otp = s.otp)
    ∧ (a0 = 1 ∨ a0 = 2 ∨ (0x10 ≤ a0 ∧ a0 ≤ 0x16) → SecReadable s a1 (otpLen a0) → (a0 ≤ 2 → (s.authorised 3 (s.secArg 2) (fun _ => true)).2 = 0) →
      let b := s.dev.dramRead a1 (otpLen a0)
      (otpBodyOk a0 b = false → Runs (.otpWrite v) s fun t => SecmDone t 7 ∧ t.otp = s.otp)
      ∧ (otpBodyOk a0 b = true → s.otp.unused a0 = none → Runs (.otpWrite v) s fun t => SecmDone t 4 ∧ t.otp = s.otp)
      ∧ (∀ g, otpBodyOk a0 b = true → s.otp.unused a0 = some g → Runs (.otpWrite v) s fun t => SecmDone t 0 ∧ t.otp.slots.get? (4 * a0 + g) = some (otpSlot a0 g b)
        ∧ (∀ k, k ≠ 4 * a0 + g → t.otp.slots.get? k = s.otp.slots.get? k) ∧ t.otp.keys = s.otp.keys ∧ t.otp.counters = s.otp.counters))
    ∧ (SecReadable s a0 388 →
      let used (k : Nat) : Bool := ((s.otp.keys.get? k).map (fun x => x.programmed)).getD false
      ((s.authorised 4 a1 (fun _ => true)).2 ≠ 0 → Runs (.keyInstall v) s fun t => SecmDone t (s.authorised 4 a1 (fun _ => true)).2 ∧ t.otp = s.otp)
      ∧ ((s.authorised 4 a1 (fun _ => true)).2 = 0 →
        (∀ k < 4, used k = false → (∀ j < k, used j = true) → Runs (.keyInstall v) s fun t => SecmDone t 0
          ∧ (∃ y, t.otp.keys.get? k = some y ∧ y.hash = Config.sha256 (s.dev.dramRead a0 388) ∧ y.programmed = true) ∧ (∀ j, j ≠ k → t.otp.keys.get? j = s.otp.keys.get? j)
          ∧ t.otp.slots = s.otp.slots ∧ t.otp.counters = s.otp.counters)
        ∧ ((∀ k < 4, used k = true) → Runs (.keyInstall v) s fun t => SecmDone t 4 ∧ t.otp = s.otp)))
    ∧ ((∀ j < 4, j ≠ a0 → s.otp.keyUsable j = false) → Runs (.keyRevoke v) s fun t => SecmDone t 8 ∧ t.otp = s.otp)
    ∧ (∀ x j, j < 4 → j ≠ a0 → s.otp.keyUsable j = true → (s.authorised 5 a1 (fun k => k != a0)).2 = 0 → s.otp.keys.get? a0 = some x → Runs (.keyRevoke v) s fun t => SecmDone t 0
        ∧ t.otp.keys.get? a0 = some { x with revoked := true } ∧ (∀ k, k ≠ a0 → t.otp.keys.get? k = s.otp.keys.get? k) ∧ t.otp.slots = s.otp.slots ∧ t.otp.counters = s.otp.counters)
    ∧ (SecReadable s a0 a1 →
      let m := Mem.ofBytes (s.dev.dramRead a0 a1)
      let why (x : Nat) : Nat := ((dirFind m x).map (fun b => compReason s.otp (fun y => y = x) b)).getD 1
      ((∀ x, 1 ≤ x → x ≤ 9 → why x = 0) → Runs (.flashImage v) s fun t => SecmDone t 0 ∧ t.dev.flash = m ∧ t.dev.mem = s.dev.mem)
      ∧ (∀ x, 1 ≤ x → x ≤ 9 → why x ≠ 0 → (∀ y, 1 ≤ y → y < x → why y = 0) → Runs (.flashImage v) s fun t => SecmDone t (why x) ∧ t.dev.flash = s.dev.flash))
    ∧ (carveOk a0 1 = false → Runs (.handover v) s fun t => SecmDone t 9 ∧ t.dev.boot = s.dev.boot)
    ∧ (∀ x, carveOk a0 1 = true → s.dev.narbyBad s.otp true = some x → Runs (.handover v) s fun t => SecmDone t x.2 ∧ t.dev.boot = s.dev.boot)
    ∧ (carveOk a0 1 = true → s.dev.narbyBad s.otp true = none → Runs (.handover v) s fun t => SecmDone t 0 ∧ t.dev.boot.stage = 4 ∧ t.dev.boot.handover = true ∧ t.dev.boot.handoverRec = a0
        ∧ t.dev.boot.narby = false ∧ t.dev.mgmt.osOwner = false ∧ t.dev.obj.held = true ∧ t.dev.rstc.wdtOff = true ∧ t.dev.mem = s.dev.mem))
  ∧ ∀ s, Runs .secmNonceRead s fun t => t.dev.secm.nonce = Config.free256 s.dev.clk.free ∧ t.dev.clk.free = s.dev.clk.free + 1
      ∧ t.dev.out.get? 0x30 = some (leBytes 8 (bits t.dev.secm.nonce 0 64)) ∧ t.dev.mem = s.dev.mem

/-! Management, storage and debug ports (15). -/

/-- R475, R476, R489: each SPDM request in sequence gets its response and moves the connection of its path; one out of sequence gets an
ERROR and changes nothing of the connection. The response's layout is the protocol's (log 65). -/
def Obligations.SpdmRequests : Prop :=
  ∀ row ∈ ([(0, 1, 0x04, .getVersion, fun _ _ => [0x12]), (1, 2, 0x61, .getCapabilities, fun _ _ => []), (2, 3, 0x63, .negotiateAlgorithms, fun _ _ => []),
      (3, 0, 0x01, .getDigests, fun s _ => leBytes 32 (Config.sha256 s.otp.chain).toNat), (3, 0, 0x02, .getCertificate, fun s _ => s.otp.chain),
      (3, 0, 0x03, .challenge, fun _ t => Config.identitySign t),
      (3, 0, 0x60, .getMeasurements, fun s t => (s.measBlocks.flatMap (fun x => leBytes 1 x.1 ++ leBytes 32 x.2.toNat))
        ++ Config.identitySign (t ++ s.measBlocks.flatMap (fun x => leBytes 1 x.1 ++ leBytes 32 x.2.toNat)))]
      : List (Nat × Nat × Nat × (Nat → List W8 → Instr) × (State → List W8 → List W8))),
    ∀ path req s, path < 2 → 2 ≤ s.dev.boot.stage → s.dev.blockUp (6 + path) = true →
      let c := s.dev.secm.spdm.getD path ⟨0, []⟩
      let now (t : State) : Spdm := t.dev.secm.spdm.getD path ⟨0, []⟩
      (c.st < row.1 → Runs (row.2.2.2.1 path req) s fun t => t.dev.out.get? (0x31 + path) = some (Config.spdmResponse 0x7F req []) ∧ now t = c ∧ t.otp = s.otp)
      ∧ (row.1 ≤ c.st → Runs (row.2.2.2.1 path req) s fun t =>
        t.dev.out.get? (0x31 + path) = some (Config.spdmResponse row.2.2.1 req (row.2.2.2.2 s (c.transcript ++ req)))
        ∧ (now t).st = (if row.2.1 = 0 then c.st else row.2.1) ∧ (∀ k, k ≠ path → t.dev.secm.spdm.get? k = s.dev.secm.spdm.get? k)
        ∧ t.dev.mem = s.dev.mem ∧ t.otp = s.otp)

/-- R24, R481 to R501: frames of the management port by class, MCTP packets, platform events, PCIe requests and its link, the debug port, and the
accesses of the Narby cores to the carve-out. -/
def Obligations.ManagementPaths : Prop :=
  (∀ (fr : MgmtFrame) s, s.dev.blockUp 6 = true → s.dev.mgmt.link = true → 14 ≤ fr.bytes.length → fr.bytes.length ≤ 9216 → ethType fr.bytes ≠ 0x8100 →
      (s.dev.frameClass fr.bytes = .svc → Runs (.mgmtFrameRx fr) s fun t => t.dev.mgmt = if frameBytes s.dev.mgmt.svc + fr.bytes.length ≤ 2 ^ 20
        then { s.dev.mgmt with svc := s.dev.mgmt.svc ++ [fr.bytes] } else { s.dev.mgmt with dropSvc := min 0xFFFF (s.dev.mgmt.dropSvc + 1) })
      ∧ (s.dev.frameClass fr.bytes = .os → Runs (.mgmtFrameRx fr) s fun t => t.dev.mgmt = if frameBytes s.dev.mgmt.os + fr.bytes.length ≤ 7 * 2 ^ 20
        then { s.dev.mgmt with os := s.dev.mgmt.os ++ [fr.bytes] } else { s.dev.mgmt with dropOs := (s.dev.mgmt.dropOs + 1) % 2 ^ 32 }))
  ∧ (∀ (k : List W8) s, s.dev.ptc.psState ≠ 3 →
      (s.dev.blockUp 7 = false → Runs (.mctpPacket k) s fun t => t.dev.sb = { s.dev.sb with nacks := min 0xFFFF (s.dev.sb.nacks + 1) } ∧ t.dev.out = s.dev.out)
      ∧ (s.dev.blockUp 7 = true → leAt k 0 1 / 2 = s.dev.sb.addr →
        (k.length < 10 ∨ pec k.dropLast ≠ k.getLastD 0 → Runs (.mctpPacket k) s fun t => t.dev.sb = { s.dev.sb with pecErr := (s.dev.sb.pecErr + 1) % 2 ^ 32 } ∧ t.dev.out = s.dev.out)
        ∧ (pec k.dropLast = k.getLastD 0 → 10 ≤ k.length →
          (leAt k 8 1 % 128 = 1 → s.dev.boot.narby = false → Runs (.mctpPacket k) s fun t => t.dev.out.get? 0x33 = some (Config.mctpReply 0 k []) ∧ t.dev.ptc = s.dev.ptc)
          ∧ (leAt k 8 1 % 128 = 1 → s.dev.boot.narby = true → leAt k 10 1 % 64 = 2 → leAt k 11 1 = 0x31 → 1200 ≤ leAt k 15 2 → leAt k 15 2 ≤ 3600 → 1 ≤ s.dev.ptc.hyst → s.dev.ptc.hyst ≤ 10 →
            Runs (.mctpPacket k) s fun t => t.dev.ptc = { s.dev.ptc with capW := leAt k 15 2 } ∧ t.dev.out.get? 0x33 = some (Config.mctpReply 2 k []))
          ∧ (leAt k 8 1 % 128 = 5 → s.dev.boot.stage < 2 → Runs (.mctpPacket k) s fun t => t.dev.out.get? 0x33 = some (Config.mctpReply 0 k []) ∧ t.dev.secm = s.dev.secm)
          ∧ (leAt k 8 1 % 128 = 5 → 2 ≤ s.dev.boot.stage → leAt ((k.drop 9).dropLast) 1 1 = 0x84 → Runs (.mctpPacket k) s fun t => exec (.getVersion 1 ((k.drop 9).dropLast)) s = .next t))))
  ∧ (∀ (k : List W8) s, s.dev.ptc.psState = 3 → s.dev.rstc.held = .ps3 → leAt k 0 1 / 2 = s.dev.ptc.wakeAddr → Runs (.mctpPacket k) s fun t => AfterPor s t 5 .no)
  ∧ (∀ req s, s.dev.blockUp 7 = true → Runs (.pollForPlatformEventMessage req) s fun t =>
      t.dev.out.get? 0x33 = some (if s.dev.boot.narby then Config.mctpReply 5 req s.dev.eventEntries else Config.mctpReply 0 req []) ∧ t.dev.evt = s.dev.evt)
  ∧ (∀ up s, Runs (.mgmtLinkChange up) s fun t => t = { s with dev := { s.dev with mgmt := { s.dev.mgmt with link := up && s.dev.blockUp 6 } } })
  ∧ (∀ (r : PcieReq) s, s.dev.blockUp 8 = true → s.dev.pcie.speed ≠ 0 →
      let a := r.addr.toNat
      let n := if r.write then r.data.length else r.len
      let served : Prop := ∃ w < 16, s.dev.pcie.serves w a n r.write = true
      (¬served → Runs (.pcieInboundRequest r) s fun t => t.dev.pcie = { s.dev.pcie with ur := (s.dev.pcie.ur + 1) % 2 ^ 32 } ∧ t.dev.mem = s.dev.mem ∧ t.dev.out.get? 0x35 = some [])
      ∧ (served → r.write = true → s.dev.badPartial a n = false → CanonicalMem s.dev → Runs (.pcieInboundRequest r) s fun t => t.dev.dramRead a n = r.data
        ∧ ∀ x, ¬(a ≤ x ∧ x < a + n) → t.dev.mem.bytes.read x = s.dev.mem.bytes.read x)
      ∧ (served → r.write = false → s.dev.badIn a n = false → Runs (.pcieInboundRequest r) s fun t => t.dev.out.get? 0x35 = some (s.dev.dramRead a n) ∧ t.dev.mem = s.dev.mem))
  ∧ (∀ width speed s, s.dev.blockUp 8 = true → s.dev.boot.perst = false → width ∈ [1, 2, 4, 8] → 1 ≤ speed → speed ≤ 5 → Runs (.pcieLinkUp width speed) s fun t =>
      t = { s with dev := { s.dev with pcie := { s.dev.pcie with width := width, speed := speed } } })
  ∧ (∀ s, s.dev.pcie.speed ≠ 0 → Runs .pcieLinkDown s fun t => t.dev.pcie = { s.dev.pcie with width := 0, speed := 0, downs := min 0xFFFF (s.dev.pcie.downs + 1) } ∧ t.dev.mem = s.dev.mem)
  ∧ (∀ s, s.dev.otpc.opt.debugPolicy = 0 → s.dev.dbg.lockedOut = false →
      (s.dev.rstc.held = .no → Runs .unlockCapture s fun t => t.dev.dbg = { s.dev.dbg with nonce := Config.free256 s.dev.clk.free } ∧ t.dev.clk.free = s.dev.clk.free + 1)
      ∧ ∀ k, s.dev.rstc.held = .no → s.dev.boot.romStarted = true →
        let level := leAt k 0 1
        let ok : Prop := (level = 1 ∨ level = 2) ∧ authOk s.otp (leBytes 1 level ++ leBytes 15 0) s.dev.dbg.nonce (fun _ => true) k = true
        (ok → Runs (.debugUnlock k) s fun t => t.dev.dbg = { s.dev.dbg with level := level } ∧ t.dev.mem = s.dev.mem)
        ∧ (¬ok → Runs (.debugUnlock k) s fun t => t.dev.dbg = { s.dev.dbg with fails := min 0xFF (s.dev.dbg.fails + 1), lockedOut := decide (8 ≤ min 0xFF (s.dev.dbg.fails + 1)) }))
  ∧ (∀ core halt s, s.dev.dbg.level ≠ 0 → core < 16 → Runs (.debugCoreHalt core halt) s fun t => (core ∈ t.dev.dbg.halted ↔ halt = true)
      ∧ (∀ k, k ≠ core → (k ∈ t.dev.dbg.halted ↔ k ∈ s.dev.dbg.halted)) ∧ t.dev.dbg.level = s.dev.dbg.level)
  ∧ (∀ (r : CsAccess) off s, r.carveOut = true → r.addr.toNat = csrBase + off → r.addr.toNat < 2 ^ 52 → s.dev.csReady r true = true →
      (r.write = false → r.len = 4 ∨ r.len = 8 → off % r.len = 0 → off / 8 * 8 ≠ 0x300040 → Runs (.controlSoftwareAccess r) s fun t =>
        t = { s with dev := s.dev.coreData r.core (((leBytes 8 (s.regRead (off / 8 * 8)).toNat).drop (off % 8)).take r.len) })
      ∧ (r.write = false → ¬(r.len = 4 ∨ r.len = 8) ∨ off % r.len ≠ 0 → Runs (.controlSoftwareAccess r) s fun t =>
        t.dev.out.get? (0x40 + r.core) = some (List.replicate r.len 0) ∧ t.dev.obj.ignoredCount = s.dev.obj.ignoredCount + 1 ∧ t.dev.obj.ignCause = 0x0A)
      ∧ (r.write = true → Runs (.controlSoftwareAccess r) s fun t => exec (.registerWrite off (8 * r.data.length) (BitVec.ofNat 64 (leNat r.data))) s = .next t))
  ∧ (∀ (r : CsAccess) s, r.core = 16 → s.dev.hubOn = true → s.dev.dbg.level = 2 → s.dev.boot.dramTrained = true → r.carveOut = true →
      let a := r.addr.toNat
      (r.write = false → a + r.len ≤ 16 * stackPages * 65536 → s.dev.badIn a r.len = false → Runs (.controlSoftwareAccess r) s fun t =>
        t.dev.out.get? 0x50 = some (s.dev.rawRead a r.len) ∧ t.dev.mem = s.dev.mem)
      ∧ (r.write = true → a + r.data.length ≤ 16 * stackPages * 65536 → s.dev.badPartial a r.data.length = false → CanonicalMem s.dev →
        (∀ x, a ≤ x → x < a + r.data.length → s.dev.locKey (x / 65536) = none) → Runs (.controlSoftwareAccess r) s fun t =>
        t.dev.dramRead a r.data.length = r.data ∧ ∀ x, ¬(a ≤ x ∧ x < a + r.data.length) → t.dev.mem.bytes.read x = s.dev.mem.bytes.read x))
  ∧ ∀ (r : CsAccess) s, r.core < 16 → s.dev.boot.dramTrained = true → s.dev.rstc.coreStep = false → r.core ∉ s.dev.dbg.halted → r.carveOut = true →
      let a := r.addr.toNat
      (r.write = true → carveOk a r.data.length = true → s.dev.badPartial a r.data.length = false → CanonicalMem s.dev → Runs (.controlSoftwareAccess r) s fun t =>
        t.dev.dramRead a r.data.length = r.data ∧ ∀ x, ¬(a ≤ x ∧ x < a + r.data.length) → t.dev.mem.bytes.read x = s.dev.mem.bytes.read x)
      ∧ (r.write = false → carveOk a r.len = true → s.dev.badIn a r.len = false → Runs (.controlSoftwareAccess r) s fun t =>
        t.dev.out.get? (0x40 + r.core) = some (s.dev.dramRead a r.len) ∧ t.dev.mem = s.dev.mem)
      ∧ (r.write = false → carveOk a r.len = true → s.dev.badIn a r.len = true → Runs (.controlSoftwareAccess r) s fun t => t.dev.out.get? (0x60 + r.core) = some [2] ∧ t.dev.mem = s.dev.mem)

/-- R7 to R10, R238, R307: a write of a wrong width or alignment, and of a partition register where no partition is led, are ignored and counted; one that
reaches no writable bit changes nothing; registers of several blocks as their tables give them, both halves of a register, and CMD, which is
the object command that its opcode names. -/
def Obligations.RegisterWrites : Prop :=
  (∀ off width (v : W64) s, (width ≠ 32 ∧ width ≠ 64) ∨ off % (width / 8) ≠ 0 → Runs (.registerWrite off width v) s fun t => IgnoredWrite s t 0x0A off)
  ∧ (∀ off width (v : W64) s, width = 32 ∨ width = 64 → off % (width / 8) = 0 →
      (∀ n, partReg (off / 8 * 8) = some n → (∀ u ∈ s.dev.parts, u.2.lead ≠ n) → Runs (.registerWrite off width v) s fun t => IgnoredWrite s t 0x0C off)
      ∧ (partReg (off / 8 * 8) = none → ((regMask (off / 8 * 8)).rw ||| (regMask (off / 8 * 8)).act) &&& halfMask off width = 0 → Runs (.registerWrite off width v) s fun t => t = s))
  ∧ (∀ (v : W64) s, (s.dev.hid.lock = false → Runs (.registerWrite 0x10 64 v) s fun t => t = { s with dev := { s.dev with hid := { s.dev.hid with moduleId := bits v 0 12, lock := v.getLsbD 12 } } })
      ∧ (s.dev.hid.lock = true → Runs (.registerWrite 0x10 64 v) s fun t => IgnoredWrite s t 0x09 0x10)
      ∧ (Runs (.registerWrite 0x8000 64 v) s fun t => t = { s with dev := { s.dev with evt := { s.dev.evt with en := v.getLsbD 31, core := bits v 0 4 } } })
      ∧ (Runs (.registerWrite 0x00100000 64 v) s fun t => t = { s with dev := { s.dev with rstc := { s.dev.rstc with history := s.dev.rstc.history &&& ~~~(v.setWidth 15) } } })
      ∧ (85 ≤ bits v 0 8 → bits v 0 8 ≤ 105 → Runs (.registerWrite 0x00200018 64 v) s fun t => t = { s with dev := { s.dev with ptc := { s.dev.ptc with throttleC := bits v 0 8 } } })
      ∧ (bits v 0 8 < 85 ∨ 105 < bits v 0 8 → Runs (.registerWrite 0x00200018 64 v) s fun t => IgnoredWrite s t 0x09 0x00200018)
      ∧ ∀ k < 4, Runs (.registerWrite (0x00300000 + 8 * k) 64 v) s fun t => t.dev.secm = { s.dev.secm with args := s.dev.secm.args.set k v } ∧ t.dev.obj = s.dev.obj)
  ∧ (∀ c k (v : W64) s, c < 16 → k < 4 → s.dev.portBusy c = false →
      let reg := 0x04001000 + 0x40 * c + 8 * k
      let arg (p : OPort) : W64 := if k = 0 then p.arg0 else if k = 1 then p.arg1 else if k = 2 then p.arg2 else p.arg3
      let others (t : State) : Prop := (∀ j, j ≠ c → t.dev.oport j = s.dev.oport j) ∧ t.dev.obj.ctxs = s.dev.obj.ctxs ∧ t.dev.obj.ignoredCount = s.dev.obj.ignoredCount ∧ t.dev.mem = s.dev.mem
      (Runs (.registerWrite reg 64 v) s fun t => arg (t.dev.oport c) = v ∧ others t)
      ∧ (Runs (.registerWrite reg 32 v) s fun t => arg (t.dev.oport c) = ((arg (s.dev.oport c)).extractLsb' 32 32 ++ v.extractLsb' 0 32 : BitVec 64) ∧ others t)
      ∧ (Runs (.registerWrite (reg + 4) 32 v) s fun t => arg (t.dev.oport c) = (v.extractLsb' 0 32 ++ (arg (s.dev.oport c)).extractLsb' 0 32 : BitVec 64) ∧ others t))
  ∧ (∀ c i row (v : W64) s, c < 16 → objRows[i]? = some row → bits v 0 8 = i + 1 → Runs (.registerWrite (0x04001020 + 0x40 * c) 64 v) s fun t =>
      Runs (row c (v.extractLsb' 8 56)) s fun t' => t.dev.obj.ports = t'.dev.obj.ports ∧ t.dev.obj.ctxs = t'.dev.obj.ctxs ∧ t.dev.obj.queues = t'.dev.obj.queues
        ∧ t.dev.obj.mobjs = t'.dev.obj.mobjs ∧ t.dev.obj.fences = t'.dev.obj.fences ∧ t.dev.mem = t'.dev.mem)
  ∧ ∀ n p u (v : W64) s, n < 8 → s.dev.parts.get? p = some u → u.lead = n → (∀ x ∈ s.dev.parts, x.2.lead = n → x.1 = p) →
      let m := bits v 0 32
      let ok : Prop := 250000 ≤ m ∧ m ≤ 4000000000 ∧ m % 1000 = 0
      (ok → Runs (.registerWrite (0x10080000 + 0x1000000 * n) 64 v) s fun t => t.dev.parts.get? p = some { u with rnd := { u.rnd with periodHeld := m } }
        ∧ ∀ q, q ≠ p → t.dev.parts.get? q = s.dev.parts.get? q)
      ∧ (¬ok → Runs (.registerWrite (0x10080000 + 0x1000000 * n) 64 v) s fun t => IgnoredWrite s t 0x09 (0x10080000 + 0x1000000 * n))

/-! Rules stated whole. -/

/-- R58, R59: region entry records the active mask as the entry mask and region exit closes the region; entry inside a region, exit
outside one and a group-wide instruction outside one fault with ILLEGAL_INSTRUCTION; entry of a divided plait with PLAIT_DIVERGED. -/
def Obligations.RegionRules : Prop :=
  ∀ r e s p,
    (Issuing 0x5B r e s p →
      (p.region = none → p.stack = [] → p.active = p.live → Runs (.rgnEnter r e) s fun t => PlaitOnly r s t ∧ PlaitThen r t fun p' =>
        p' = { p with region := some p.active, pc := p.pc + insLen e, stall := .none })
      ∧ (Unfaulted s p → p.active ≠ 0 → p.region = none → p.stack ≠ [] ∨ p.active ≠ p.live → Runs (.rgnEnter r e) s fun t => FirstFault t p 0x20)
      ∧ (Unfaulted s p → p.active ≠ 0 → p.region ≠ none → Runs (.rgnEnter r e) s fun t => FirstFault t p 0x21))
    ∧ (Issuing 0x5C r e s p →
      (p.region ≠ none → Runs (.rgnExit r e) s fun t => PlaitOnly r s t ∧ PlaitThen r t fun p' =>
        p' = { p with region := none, pc := p'.pc, active := p'.active, stack := p'.stack, stall := .none } ∧ GoesOn e p p')
      ∧ (Unfaulted s p → p.active ≠ 0 → p.region = none → Runs (.rgnExit r e) s fun t => FirstFault t p 0x21))
    ∧ ∀ row ∈ ([(0x51, .mxg), (0x52, .mxw), (0x53, .mxr)] : List (Nat × (PlaitRef → Enc → Instr))), Issuing row.1 r e s p → Unfaulted s p → p.region = none → p.parts e ≠ 0 →
        p.tokens.getLsbD (e.aux.toNat % 16) = false → (s.dev.array (arrayOf (pkey r) e)).queue.length < 8 → Runs (row.2 r e) s fun t => FirstFault t p 0x21

/-- R57: with 32 entries on the mask stack, a divergent branch faults with ILLEGAL_INSTRUCTION; with fewer it pushes its entry. -/
def Obligations.MaskStackHolds32 : Prop :=
  ∀ r e s p,
    let m := p.parts e
    let pushed (t : State) : Prop := ∃ top, (t.dev.plaits.get? (pkey r)).map (fun p' => p'.stack) = some (top :: p.stack)
    (∀ row ∈ ([(0x60, .bra), (0x62, .call)] : List (Nat × (PlaitRef → Enc → Instr))), Issuing row.1 r e s p → m ≠ p.active → m ≠ 0 →
      p.pc + insLen e ≠ branchTo p.pc (e.ext.extractLsb' 32 32) → p.active &&& ~~~m ≠ 0 →
      (p.stack.length < 32 → Runs (row.2 r e) s pushed) ∧ (32 ≤ p.stack.length → Unfaulted s p → Runs (row.2 r e) s fun t => FirstFault t p 0x21))
    ∧ (Issuing 0x61 r e s p →
      let named (k : Nat) : W64 := if m.getLsbD k then p.rd64 e.a.toNat k else p.pc + insLen e
      (∃ j ∈ lanes p.active, ∃ k ∈ lanes p.active, named j ≠ named k) → 32 ≤ p.stack.length → Unfaulted s p → Runs (.brx r e) s fun t => FirstFault t p 0x21)

/-- R34: every entry of a size table reads zero while the partition's bit of HID_LAYOUT.PART_VALID reads zero. -/
def Obligations.SizeTableZeroWhileAbsent : Prop :=
  ∀ (s : State) p o, p < 8 → o < 0x100 → o % 8 = 0 → Rising s.dev.parts → (s.regRead 0x18).getLsbD p = false → s.regRead (0x1000 + 0x100 * p + o) = 0

/-! The whole machine. -/

/-- What the spec gives for reset, and the canonical forms at reset: no command waits; fabric time and counters 0, no partition, no context, MODULE_ID
0xFFF unlocked, the cap 3,600 W with k_cap 64, ports off, history with the cold power-up, the fuse map and option bytes not yet read. -/
def Obligations.ResetState : Prop :=
  let d := State.reset.dev
  State.reset.pending = [] ∧ CanonicalMem d ∧ RisingTables d
  ∧ d.clk.now = 0 ∧ d.parts = [] ∧ d.obj.ctxs = [] ∧ d.obj.queues = [] ∧ d.obj.fences = [] ∧ d.obj.mobjs = [] ∧ d.obj.ignoredCount = 0
  ∧ d.hid.moduleId = 0xFFF ∧ d.hid.lock = false ∧ d.evt.en = true ∧ d.evt.head = 0 ∧ d.ptc.capW = 3600 ∧ d.ptc.hyst = 2 ∧ d.ptc.kCap = 64 ∧ d.ptc.throttleC = 100
  ∧ d.ptc.psState = 0 ∧ d.rstc.history = 1 ∧ d.rstc.source = 0 ∧ d.rstc.level = 3 ∧ d.rstc.narbyMs = 2000 ∧ (∀ p < 6, (d.fab.port p).st = .off ∧ (d.fab.port p).peerId = 0xFFF)
  ∧ (∀ g < 64, (d.group g).st = 0) ∧ (∀ w < 8, (d.wg w).st = 0) ∧ d.otpc.fuseDone = false ∧ d.otpc.optDone = false ∧ d.boot.stage = 0 ∧ d.secm.done = false
  ∧ d.mgmt.link = false ∧ d.pcie.speed = 0 ∧ d.dbg.level = 0 ∧ d.dbg.lockedOut = false

/-- Every step keeps every byte memory in its canonical form: DRAM, flash, cluster local memory, array storage, saved states. -/
def Obligations.MemoriesStayCanonical : Prop := ∀ s t, CanonicalMem s.dev → step s = .next t → CanonicalMem t.dev

/-- Every step keeps each index of the tables listed once, in order. -/
def Obligations.TablesStayRising : Prop := ∀ s t, RisingTables s.dev → step s = .next t → RisingTables t.dev

/-- R463 to R467, R474: no step takes back what was written to the OTP: programmed record slots and key slots stay, revocation stays, rollback
counters never fall. -/
def Obligations.OtpNeverForgets : Prop := ∀ s t, step s = .next t → OtpKept s.otp t.otp
end

