-- ==== Sys2Proof/Laws/Tables.lean ====
section
/-! SUPPORT. What reading a table gives after a write, a removal or a change; tables stay rising. -/

namespace Sys2Proof.Laws

open Sys2Proof Sys2Proof.Safety

variable {α : Type}

@[simp] theorem get?_set_self (t : Tbl α) (k : Nat) (v : α) : (t.set k v).get? k = some v := by
  induction t with
  | nil => simp [Tbl.set, Tbl.get?]
  | cons x t ih =>
    obtain ⟨j, u⟩ := x
    unfold Tbl.set
    split
    · simp [Tbl.get?]
    · split
      · simp [Tbl.get?]
      · rename_i h _
        simp [Tbl.get?, h, ih]

theorem get?_set_other (t : Tbl α) {k j : Nat} (v : α) (h : j ≠ k) : (t.set k v).get? j = t.get? j := by
  induction t with
  | nil => simp [Tbl.set, Tbl.get?, Ne.symm h]
  | cons x t ih =>
    obtain ⟨i, u⟩ := x
    unfold Tbl.set
    split
    · rename_i hi
      subst hi
      simp [Tbl.get?, Ne.symm h]
    · split
      · simp [Tbl.get?, Ne.symm h]
      · by_cases e : i = j <;> simp [Tbl.get?, e, ih]

theorem get?_set (t : Tbl α) (k j : Nat) (v : α) : (t.set k v).get? j = if j = k then some v else t.get? j := by
  by_cases h : j = k
  · subst h; simp
  · simp [h, get?_set_other t v h]

@[simp] theorem getD_set_self (t : Tbl α) (k : Nat) (v d : α) : (t.set k v).getD k d = v := by simp [Tbl.getD]

theorem getD_set_other (t : Tbl α) {k j : Nat} (v d : α) (h : j ≠ k) : (t.set k v).getD j d = t.getD j d := by
  simp [Tbl.getD, get?_set_other t v h]

theorem get?_upd_self (t : Tbl α) (k : Nat) (f : α → α) : (t.upd k f).get? k = (t.get? k).map f := by
  unfold Tbl.upd
  split <;> rename_i h <;> simp [h]

theorem get?_upd_other (t : Tbl α) {k j : Nat} (f : α → α) (h : j ≠ k) : (t.upd k f).get? j = t.get? j := by
  unfold Tbl.upd
  split
  · exact get?_set_other t _ h
  · rfl

theorem get?_mapV (t : Tbl α) (f : Nat → α → α) (k : Nat) : (t.mapV f).get? k = (t.get? k).map (f k) := by
  induction t with
  | nil => rfl
  | cons x t ih =>
    obtain ⟨j, u⟩ := x
    simp only [Tbl.mapV, List.map_cons, Tbl.get?] at ih ⊢
    by_cases h : j = k
    · subst h; simp
    · simp only [h, if_false]; exact ih

theorem mem_of_get? {t : Tbl α} {k : Nat} {v : α} (h : t.get? k = some v) : (k, v) ∈ t := by
  induction t with
  | nil => simp [Tbl.get?] at h
  | cons x t ih =>
    obtain ⟨j, u⟩ := x
    unfold Tbl.get? at h
    split at h
    · rename_i e
      simp_all
    · exact List.mem_cons_of_mem _ (ih h)

theorem get?_of_lt {t : Tbl α} {k : Nat} (h : ∀ x ∈ t, k < x.1) : t.get? k = none := by
  induction t with
  | nil => rfl
  | cons x t ih =>
    obtain ⟨j, u⟩ := x
    have hj : k < j := h (j, u) (by simp)
    have : j ≠ k := by omega
    simp only [Tbl.get?, this, if_false]
    exact ih (fun y hy => h y (by simp [hy]))

theorem get?_of_mem {t : Tbl α} {k : Nat} {v : α} (hr : Rising t) (h : (k, v) ∈ t) : t.get? k = some v := by
  induction t with
  | nil => simp at h
  | cons x t ih =>
    obtain ⟨j, u⟩ := x
    obtain ⟨h1, h2⟩ := hr
    rcases List.mem_cons.1 h with e | e
    · cases e; simp [Tbl.get?]
    · have hj := h1 _ e
      have : j ≠ k := by simp at hj; omega
      simp only [Tbl.get?, this, if_false]
      exact ih h2 e

theorem get?_del_self {t : Tbl α} (k : Nat) (hr : Rising t) : (t.del k).get? k = none := by
  induction t with
  | nil => rfl
  | cons x t ih =>
    obtain ⟨j, u⟩ := x
    obtain ⟨h1, h2⟩ := hr
    unfold Tbl.del
    split
    · rename_i e
      subst e
      exact get?_of_lt h1
    · rename_i e
      simp only [Tbl.get?, e, if_false]
      exact ih h2

theorem get?_del_other (t : Tbl α) {k j : Nat} (h : j ≠ k) : (t.del k).get? j = t.get? j := by
  induction t with
  | nil => rfl
  | cons x t ih =>
    obtain ⟨i, u⟩ := x
    unfold Tbl.del
    split
    · rename_i e
      subst e
      simp [Tbl.get?, Ne.symm h]
    · by_cases e : i = j <;> simp [Tbl.get?, e, ih]

/-! Rising tables. -/

theorem mem_set {t : Tbl α} {k : Nat} {v : α} {x : Nat × α} (h : x ∈ t.set k v) : x = (k, v) ∨ x ∈ t := by
  induction t with
  | nil => simp [Tbl.set] at h; exact .inl h
  | cons y t ih =>
    obtain ⟨j, u⟩ := y
    unfold Tbl.set at h
    split at h
    · rcases List.mem_cons.1 h with e | e
      · exact .inl e
      · exact .inr (by simp [e])
    · split at h
      · rcases List.mem_cons.1 h with e | e
        · exact .inl e
        · exact .inr e
      · rcases List.mem_cons.1 h with e | e
        · exact .inr (by simp [e])
        · rcases ih e with e | e
          · exact .inl e
          · exact .inr (by simp [e])

theorem rising_set {t : Tbl α} (k : Nat) (v : α) (hr : Rising t) : Rising (t.set k v) := by
  induction t with
  | nil => simp [Tbl.set, Rising]
  | cons x t ih =>
    obtain ⟨j, u⟩ := x
    obtain ⟨h1, h2⟩ := hr
    unfold Tbl.set
    split
    · rename_i e
      subst e
      exact ⟨h1, h2⟩
    · split
      · rename_i hlt
        refine ⟨?_, h1, h2⟩
        intro y hy
        rcases List.mem_cons.1 hy with e | e
        · subst e; exact hlt
        · exact Nat.lt_trans hlt (h1 y e)
      · rename_i h3 h4
        refine ⟨?_, ih h2⟩
        intro y hy
        rcases mem_set hy with e | e
        · subst e; simp; omega
        · exact h1 y e

theorem rising_filter {t : Tbl α} (f : Nat × α → Bool) (hr : Rising t) : Rising (t.filter f : Tbl α) := by
  induction t with
  | nil => trivial
  | cons x t ih =>
    obtain ⟨j, u⟩ := x
    obtain ⟨h1, h2⟩ := hr
    rw [List.filter_cons]
    split
    · exact ⟨fun y hy => h1 y (List.mem_filter.1 hy).1, ih h2⟩
    · exact ih h2

theorem mem_of_mem_del {t : Tbl α} {k : Nat} {x : Nat × α} (h : x ∈ t.del k) : x ∈ t := by
  induction t with
  | nil => simp [Tbl.del] at h
  | cons y t ih =>
    obtain ⟨j, u⟩ := y
    unfold Tbl.del at h
    split at h
    · simp [h]
    · rcases List.mem_cons.1 h with e | e
      · simp [e]
      · simp [ih e]

theorem rising_del {t : Tbl α} (k : Nat) (hr : Rising t) : Rising (t.del k) := by
  induction t with
  | nil => trivial
  | cons x t ih =>
    obtain ⟨j, u⟩ := x
    obtain ⟨h1, h2⟩ := hr
    unfold Tbl.del
    split
    · exact h2
    · exact ⟨fun y hy => h1 y (mem_of_mem_del hy), ih h2⟩

theorem rising_mapV {t : Tbl α} (f : Nat → α → α) (hr : Rising t) : Rising (t.mapV f) := by
  induction t with
  | nil => trivial
  | cons x t ih =>
    obtain ⟨j, u⟩ := x
    obtain ⟨h1, h2⟩ := hr
    refine ⟨?_, ih h2⟩
    intro y hy
    simp only [List.mem_map] at hy
    obtain ⟨z, hz, rfl⟩ := hy
    exact h1 z hz

theorem rising_upd {t : Tbl α} (k : Nat) (f : α → α) (hr : Rising t) : Rising (t.upd k f) := by
  unfold Tbl.upd
  split
  · exact rising_set k _ hr
  · exact hr

end Sys2Proof.Laws
end

