-- ==== Sys2Proof/Laws/Memory.lean ====
section
/-! SUPPORT. Byte memories: every operation keeps the canonical form, and what a read gives after a write. -/

namespace Sys2Proof.Laws

open Sys2Proof Sys2Proof.Machine Sys2Proof.Safety

theorem wfFrom_weaken {m : Mem} {lo lo' : Option Nat} (h : Mem.wfFrom lo m = true)
    (hl : ∀ l', lo' = some l' → ∃ l, lo = some l ∧ l' ≤ l) : Mem.wfFrom lo' m = true := by
  cases m with
  | nil => rfl
  | cons x t =>
    obtain ⟨a, b⟩ := x
    simp only [Mem.wfFrom, Bool.and_eq_true] at h ⊢
    refine ⟨⟨?_, h.1.2⟩, h.2⟩
    cases lo' with
    | none => rfl
    | some l' =>
      obtain ⟨l, rfl, hle⟩ := hl l' rfl
      have := h.1.1
      simp at this ⊢
      omega

theorem write_wfFrom {m : Mem} {lo : Option Nat} (a : Nat) (b : W8) (h : Mem.wfFrom lo m = true)
    (ha : ∀ l, lo = some l → l < a) : Mem.wfFrom lo (Mem.write m a b) = true := by
  induction m generalizing lo with
  | nil =>
    unfold Mem.write
    split
    · rfl
    · rename_i hb
      cases lo with
      | none => simpa [Mem.wfFrom] using hb
      | some l => simpa [Mem.wfFrom, ha l rfl] using hb
  | cons x t ih =>
    obtain ⟨j, c⟩ := x
    simp only [Mem.wfFrom, Bool.and_eq_true] at h
    obtain ⟨⟨h1, h2⟩, h3⟩ := h
    unfold Mem.write
    split
    · rename_i hj
      simp only [Mem.wfFrom, Bool.and_eq_true]
      refine ⟨⟨h1, h2⟩, ih h3 ?_⟩
      intro l hl
      cases hl
      exact hj
    · rename_i hj
      split
      · rename_i e
        subst e
        split
        · refine wfFrom_weaken h3 ?_
          intro l' hl'
          exact ⟨j, rfl, Nat.le_of_lt (ha l' hl')⟩
        · rename_i hb
          simp only [Mem.wfFrom, Bool.and_eq_true]
          exact ⟨⟨h1, bne_iff_ne.2 hb⟩, h3⟩
      · split
        · simp only [Mem.wfFrom, Bool.and_eq_true]
          exact ⟨⟨h1, h2⟩, h3⟩
        · rename_i e hb
          simp only [Mem.wfFrom, Bool.and_eq_true]
          refine ⟨⟨?_, bne_iff_ne.2 hb⟩, ⟨by simp; omega, h2⟩, h3⟩
          cases lo with
          | none => rfl
          | some l => simp [ha l rfl]

theorem write_wf {m : Mem} (a : Nat) (b : W8) (h : m.wf = true) : (m.write a b).wf = true :=
  write_wfFrom a b h (by intro l hl; cases hl)

theorem writeN_wf {m : Mem} (a : Nat) (l : List W8) (h : m.wf = true) : (m.writeN a l).wf = true := by
  induction l generalizing m a with
  | nil => exact h
  | cons b t ih => exact ih (a + 1) (write_wf a b h)

theorem filter_wfFrom {m : Mem} {lo : Option Nat} (f : Host.Cell → Bool) (h : Mem.wfFrom lo m = true) :
    Mem.wfFrom lo (List.filter f m) = true := by
  induction m generalizing lo with
  | nil => rfl
  | cons x t ih =>
    obtain ⟨j, c⟩ := x
    simp only [Mem.wfFrom, Bool.and_eq_true] at h
    obtain ⟨⟨h1, h2⟩, h3⟩ := h
    rw [List.filter_cons]
    split
    · simp only [Mem.wfFrom, Bool.and_eq_true]
      exact ⟨⟨h1, h2⟩, ih h3⟩
    · refine ih (wfFrom_weaken h3 ?_)
      intro l' hl'
      subst hl'
      refine ⟨j, rfl, ?_⟩
      simp at h1
      omega

theorem clear_wf {m : Mem} (a n : Nat) (h : m.wf = true) : (m.clear a n).wf = true := filter_wfFrom _ h

theorem foldl_write_wf {m : Mem} (l : List Host.Cell) (f : Host.Cell → Nat) (g : Host.Cell → Bool) (h : m.wf = true) :
    (l.foldl (fun m c => if g c then Mem.write m (f c) c.2 else m) m).wf = true := by
  induction l generalizing m with
  | nil => exact h
  | cons c t ih =>
    rw [List.foldl_cons]
    split
    · exact ih (write_wf _ _ h)
    · exact ih h

theorem paste_wf {m : Mem} (a n : Nat) (src : Mem) (h : m.wf = true) : (m.paste a n src).wf = true := by
  have := foldl_write_wf (m := m.clear a n) src (fun c => a + c.1) (fun c => decide (c.1 < n)) (clear_wf a n h)
  simpa [Mem.paste] using this

theorem ofBytes_wf (l : List W8) : (Mem.ofBytes l).wf = true := writeN_wf 0 l rfl

/-! Reads. -/

theorem read_of_lt {m : Mem} {lo : Option Nat} {a l : Nat} (h : Mem.wfFrom lo m = true) (hl : lo = some l) (ha : a ≤ l) : m.read a = 0 := by
  induction m generalizing lo l with
  | nil => rfl
  | cons x t ih =>
    obtain ⟨j, c⟩ := x
    subst hl
    simp only [Mem.wfFrom, Bool.and_eq_true] at h
    obtain ⟨⟨h1, _⟩, h3⟩ := h
    simp at h1
    have : j ≠ a := by omega
    simp only [Mem.read, this, if_false]
    exact ih h3 rfl (by omega)

theorem read_write_self {m : Mem} (a : Nat) (b : W8) (h : m.wf = true) : (m.write a b).read a = b := by
  unfold Mem.wf at h
  generalize (none : Option Nat) = lo at h
  induction m generalizing lo with
  | nil =>
    unfold Mem.write
    split
    · rename_i e; simp [Mem.read, e]
    · simp [Mem.read]
  | cons x t ih =>
    obtain ⟨j, c⟩ := x
    simp only [Mem.wfFrom, Bool.and_eq_true] at h
    obtain ⟨_, h3⟩ := h
    unfold Mem.write
    split
    · rename_i hj
      have : j ≠ a := by omega
      simp only [Mem.read, this, if_false]
      exact ih _ h3
    · split
      · rename_i e
        subst e
        split
        · rename_i hb
          rw [read_of_lt h3 rfl (Nat.le_refl _), hb]
        · simp [Mem.read]
      · rename_i h1 h2
        split
        · rename_i hb
          simp only [Mem.read, h2, if_false]
          rw [read_of_lt h3 rfl (by omega), hb]
        · simp [Mem.read]

theorem read_write_other (m : Mem) {a x : Nat} (b : W8) (h : x ≠ a) : (m.write a b).read x = m.read x := by
  induction m with
  | nil =>
    unfold Mem.write
    split
    · rfl
    · simp [Mem.read, Ne.symm h]
  | cons y t ih =>
    obtain ⟨j, c⟩ := y
    unfold Mem.write
    split
    · by_cases e : j = x <;> simp [Mem.read, e, ih]
    · split
      · rename_i e
        subst e
        split <;> simp [Mem.read, Ne.symm h]
      · split
        · rfl
        · simp [Mem.read, Ne.symm h]

theorem read_writeN_other (m : Mem) (a : Nat) (l : List W8) {x : Nat} (h : ¬(a ≤ x ∧ x < a + l.length)) :
    (m.writeN a l).read x = m.read x := by
  induction l generalizing m a with
  | nil => rfl
  | cons b t ih =>
    simp only [List.length_cons] at h
    unfold Mem.writeN
    rw [ih _ _ (by omega)]
    exact read_write_other m b (by omega)

theorem read_writeN {m : Mem} (a : Nat) (l : List W8) (h : m.wf = true) {k : Nat} (hk : k < l.length) :
    (m.writeN a l).read (a + k) = l[k] := by
  induction l generalizing m a k with
  | nil => simp at hk
  | cons b t ih =>
    unfold Mem.writeN
    cases k with
    | zero =>
      rw [read_writeN_other _ _ _ (by omega)]
      exact read_write_self a b h
    | succ k =>
      have := ih (m := m.write a b) (a + 1) (write_wf a b h) (k := k) (by simpa using hk)
      rw [show a + (k + 1) = a + 1 + k by omega, this]
      rfl

theorem readN_eq_map (m : Mem) (a n : Nat) : m.readN a n = (List.range n).map (fun k => m.read (a + k)) := by
  induction n generalizing a with
  | zero => rfl
  | succ n ih =>
    rw [Mem.readN, ih, List.range_succ_eq_map]
    simp only [List.map_cons, List.map_map, Nat.add_zero, List.cons.injEq, true_and]
    apply List.map_congr_left
    intro k _
    simp only [Function.comp]
    congr 1
    omega

/-- A read of the bytes just written gives them. -/
theorem readN_writeN {m : Mem} (a : Nat) (l : List W8) (h : m.wf = true) : (m.writeN a l).readN a l.length = l := by
  rw [readN_eq_map]
  apply List.ext_getElem
  · simp
  · intro k h1 h2
    simp [read_writeN a l h h2]

/-- A read away from the bytes written gives what it gave before. -/
theorem readN_writeN_other (m : Mem) (a : Nat) (l : List W8) {x n : Nat} (h : x + n ≤ a ∨ a + l.length ≤ x) :
    (m.writeN a l).readN x n = m.readN x n := by
  rw [readN_eq_map, readN_eq_map]
  apply List.map_congr_left
  intro k hk
  have := List.mem_range.1 hk
  exact read_writeN_other m a l (by omega)

theorem read_clear (m : Mem) (a n x : Nat) : (m.clear a n).read x = if a ≤ x ∧ x < a + n then 0 else m.read x := by
  induction m with
  | nil => simp [Mem.clear, Mem.read]
  | cons y t ih =>
    obtain ⟨j, c⟩ := y
    unfold Mem.clear at ih ⊢
    rw [List.filter_cons]
    by_cases e : j = x
    · subst e
      by_cases hj : a ≤ j ∧ j < a + n
      · have : (decide (j < a) || decide (a + n ≤ j)) = false := by simp; omega
        simp only [this, Bool.false_eq_true, if_false]
        rw [ih]
        simp [hj]
      · have : (decide (j < a) || decide (a + n ≤ j)) = true := by simp; omega
        simp only [this, if_true]
        simp [Mem.read, hj]
    · split
      · simp only [Mem.read, e, if_false]
        exact ih
      · rw [ih]
        simp [Mem.read, e]

/-- The memories of the block at reset are in canonical form. -/
theorem reset_canonicalBytes : Dev.reset.mem.bytes.wf = true ∧ Dev.reset.flash.wf = true := ⟨rfl, rfl⟩

end Sys2Proof.Laws
end

