-- ==== Sys2Proof/Laws/State.lean ====
section
/-! SUPPORT. One lemma per field for each named update of the device, so that no proof unfolds a record update. -/

namespace Sys2Proof.Laws

open Sys2Proof Sys2Proof.Machine

variable (d : Dev)

/-! updTile -/

@[simp] theorem updTile_clk (t : Nat) (f : Tile → Tile) : (d.updTile t f).clk = d.clk := rfl
@[simp] theorem updTile_hid (t : Nat) (f : Tile → Tile) : (d.updTile t f).hid = d.hid := rfl
@[simp] theorem updTile_evt (t : Nat) (f : Tile → Tile) : (d.updTile t f).evt = d.evt := rfl
@[simp] theorem updTile_obj (t : Nat) (f : Tile → Tile) : (d.updTile t f).obj = d.obj := rfl
@[simp] theorem updTile_parts (t : Nat) (f : Tile → Tile) : (d.updTile t f).parts = d.parts := rfl
@[simp] theorem updTile_clusters (t : Nat) (f : Tile → Tile) : (d.updTile t f).clusters = d.clusters := rfl
@[simp] theorem updTile_plaits (t : Nat) (f : Tile → Tile) : (d.updTile t f).plaits = d.plaits := rfl
@[simp] theorem updTile_groups (t : Nat) (f : Tile → Tile) : (d.updTile t f).groups = d.groups := rfl
@[simp] theorem updTile_cpys (t : Nat) (f : Tile → Tile) : (d.updTile t f).cpys = d.cpys := rfl
@[simp] theorem updTile_stops (t : Nat) (f : Tile → Tile) : (d.updTile t f).stops = d.stops := rfl
@[simp] theorem updTile_rcache (t : Nat) (f : Tile → Tile) : (d.updTile t f).rcache = d.rcache := rfl
@[simp] theorem updTile_arrays (t : Nat) (f : Tile → Tile) : (d.updTile t f).arrays = d.arrays := rfl
@[simp] theorem updTile_slices (t : Nat) (f : Tile → Tile) : (d.updTile t f).slices = d.slices := rfl
@[simp] theorem updTile_saved (t : Nat) (f : Tile → Tile) : (d.updTile t f).saved = d.saved := rfl
@[simp] theorem updTile_energy (t : Nat) (f : Tile → Tile) : (d.updTile t f).energy = d.energy := rfl
@[simp] theorem updTile_mem (t : Nat) (f : Tile → Tile) : (d.updTile t f).mem = d.mem := rfl
@[simp] theorem updTile_fab (t : Nat) (f : Tile → Tile) : (d.updTile t f).fab = d.fab := rfl
@[simp] theorem updTile_cole (t : Nat) (f : Tile → Tile) : (d.updTile t f).cole = d.cole := rfl
@[simp] theorem updTile_rse (t : Nat) (f : Tile → Tile) : (d.updTile t f).rse = d.rse := rfl
@[simp] theorem updTile_ptc (t : Nat) (f : Tile → Tile) : (d.updTile t f).ptc = d.ptc := rfl
@[simp] theorem updTile_rstc (t : Nat) (f : Tile → Tile) : (d.updTile t f).rstc = d.rstc := rfl
@[simp] theorem updTile_otpc (t : Nat) (f : Tile → Tile) : (d.updTile t f).otpc = d.otpc := rfl
@[simp] theorem updTile_boot (t : Nat) (f : Tile → Tile) : (d.updTile t f).boot = d.boot := rfl
@[simp] theorem updTile_secm (t : Nat) (f : Tile → Tile) : (d.updTile t f).secm = d.secm := rfl
@[simp] theorem updTile_mgmt (t : Nat) (f : Tile → Tile) : (d.updTile t f).mgmt = d.mgmt := rfl
@[simp] theorem updTile_sb (t : Nat) (f : Tile → Tile) : (d.updTile t f).sb = d.sb := rfl
@[simp] theorem updTile_pcie (t : Nat) (f : Tile → Tile) : (d.updTile t f).pcie = d.pcie := rfl
@[simp] theorem updTile_dbg (t : Nat) (f : Tile → Tile) : (d.updTile t f).dbg = d.dbg := rfl
@[simp] theorem updTile_flash (t : Nat) (f : Tile → Tile) : (d.updTile t f).flash = d.flash := rfl
@[simp] theorem updTile_out (t : Nat) (f : Tile → Tile) : (d.updTile t f).out = d.out := rfl

/-! updCluster -/

@[simp] theorem updCluster_clk (k : Nat) (f : Cluster → Cluster) : (d.updCluster k f).clk = d.clk := rfl
@[simp] theorem updCluster_hid (k : Nat) (f : Cluster → Cluster) : (d.updCluster k f).hid = d.hid := rfl
@[simp] theorem updCluster_evt (k : Nat) (f : Cluster → Cluster) : (d.updCluster k f).evt = d.evt := rfl
@[simp] theorem updCluster_obj (k : Nat) (f : Cluster → Cluster) : (d.updCluster k f).obj = d.obj := rfl
@[simp] theorem updCluster_parts (k : Nat) (f : Cluster → Cluster) : (d.updCluster k f).parts = d.parts := rfl
@[simp] theorem updCluster_tiles (k : Nat) (f : Cluster → Cluster) : (d.updCluster k f).tiles = d.tiles := rfl
@[simp] theorem updCluster_plaits (k : Nat) (f : Cluster → Cluster) : (d.updCluster k f).plaits = d.plaits := rfl
@[simp] theorem updCluster_groups (k : Nat) (f : Cluster → Cluster) : (d.updCluster k f).groups = d.groups := rfl
@[simp] theorem updCluster_cpys (k : Nat) (f : Cluster → Cluster) : (d.updCluster k f).cpys = d.cpys := rfl
@[simp] theorem updCluster_stops (k : Nat) (f : Cluster → Cluster) : (d.updCluster k f).stops = d.stops := rfl
@[simp] theorem updCluster_rcache (k : Nat) (f : Cluster → Cluster) : (d.updCluster k f).rcache = d.rcache := rfl
@[simp] theorem updCluster_arrays (k : Nat) (f : Cluster → Cluster) : (d.updCluster k f).arrays = d.arrays := rfl
@[simp] theorem updCluster_slices (k : Nat) (f : Cluster → Cluster) : (d.updCluster k f).slices = d.slices := rfl
@[simp] theorem updCluster_saved (k : Nat) (f : Cluster → Cluster) : (d.updCluster k f).saved = d.saved := rfl
@[simp] theorem updCluster_energy (k : Nat) (f : Cluster → Cluster) : (d.updCluster k f).energy = d.energy := rfl
@[simp] theorem updCluster_mem (k : Nat) (f : Cluster → Cluster) : (d.updCluster k f).mem = d.mem := rfl
@[simp] theorem updCluster_fab (k : Nat) (f : Cluster → Cluster) : (d.updCluster k f).fab = d.fab := rfl
@[simp] theorem updCluster_cole (k : Nat) (f : Cluster → Cluster) : (d.updCluster k f).cole = d.cole := rfl
@[simp] theorem updCluster_rse (k : Nat) (f : Cluster → Cluster) : (d.updCluster k f).rse = d.rse := rfl
@[simp] theorem updCluster_ptc (k : Nat) (f : Cluster → Cluster) : (d.updCluster k f).ptc = d.ptc := rfl
@[simp] theorem updCluster_rstc (k : Nat) (f : Cluster → Cluster) : (d.updCluster k f).rstc = d.rstc := rfl
@[simp] theorem updCluster_otpc (k : Nat) (f : Cluster → Cluster) : (d.updCluster k f).otpc = d.otpc := rfl
@[simp] theorem updCluster_boot (k : Nat) (f : Cluster → Cluster) : (d.updCluster k f).boot = d.boot := rfl
@[simp] theorem updCluster_secm (k : Nat) (f : Cluster → Cluster) : (d.updCluster k f).secm = d.secm := rfl
@[simp] theorem updCluster_mgmt (k : Nat) (f : Cluster → Cluster) : (d.updCluster k f).mgmt = d.mgmt := rfl
@[simp] theorem updCluster_sb (k : Nat) (f : Cluster → Cluster) : (d.updCluster k f).sb = d.sb := rfl
@[simp] theorem updCluster_pcie (k : Nat) (f : Cluster → Cluster) : (d.updCluster k f).pcie = d.pcie := rfl
@[simp] theorem updCluster_dbg (k : Nat) (f : Cluster → Cluster) : (d.updCluster k f).dbg = d.dbg := rfl
@[simp] theorem updCluster_flash (k : Nat) (f : Cluster → Cluster) : (d.updCluster k f).flash = d.flash := rfl
@[simp] theorem updCluster_out (k : Nat) (f : Cluster → Cluster) : (d.updCluster k f).out = d.out := rfl

/-! updArray -/

@[simp] theorem updArray_clk (k : Nat) (f : MArray → MArray) : (d.updArray k f).clk = d.clk := rfl
@[simp] theorem updArray_hid (k : Nat) (f : MArray → MArray) : (d.updArray k f).hid = d.hid := rfl
@[simp] theorem updArray_evt (k : Nat) (f : MArray → MArray) : (d.updArray k f).evt = d.evt := rfl
@[simp] theorem updArray_obj (k : Nat) (f : MArray → MArray) : (d.updArray k f).obj = d.obj := rfl
@[simp] theorem updArray_parts (k : Nat) (f : MArray → MArray) : (d.updArray k f).parts = d.parts := rfl
@[simp] theorem updArray_tiles (k : Nat) (f : MArray → MArray) : (d.updArray k f).tiles = d.tiles := rfl
@[simp] theorem updArray_clusters (k : Nat) (f : MArray → MArray) : (d.updArray k f).clusters = d.clusters := rfl
@[simp] theorem updArray_plaits (k : Nat) (f : MArray → MArray) : (d.updArray k f).plaits = d.plaits := rfl
@[simp] theorem updArray_groups (k : Nat) (f : MArray → MArray) : (d.updArray k f).groups = d.groups := rfl
@[simp] theorem updArray_cpys (k : Nat) (f : MArray → MArray) : (d.updArray k f).cpys = d.cpys := rfl
@[simp] theorem updArray_stops (k : Nat) (f : MArray → MArray) : (d.updArray k f).stops = d.stops := rfl
@[simp] theorem updArray_rcache (k : Nat) (f : MArray → MArray) : (d.updArray k f).rcache = d.rcache := rfl
@[simp] theorem updArray_slices (k : Nat) (f : MArray → MArray) : (d.updArray k f).slices = d.slices := rfl
@[simp] theorem updArray_saved (k : Nat) (f : MArray → MArray) : (d.updArray k f).saved = d.saved := rfl
@[simp] theorem updArray_energy (k : Nat) (f : MArray → MArray) : (d.updArray k f).energy = d.energy := rfl
@[simp] theorem updArray_mem (k : Nat) (f : MArray → MArray) : (d.updArray k f).mem = d.mem := rfl
@[simp] theorem updArray_fab (k : Nat) (f : MArray → MArray) : (d.updArray k f).fab = d.fab := rfl
@[simp] theorem updArray_cole (k : Nat) (f : MArray → MArray) : (d.updArray k f).cole = d.cole := rfl
@[simp] theorem updArray_rse (k : Nat) (f : MArray → MArray) : (d.updArray k f).rse = d.rse := rfl
@[simp] theorem updArray_ptc (k : Nat) (f : MArray → MArray) : (d.updArray k f).ptc = d.ptc := rfl
@[simp] theorem updArray_rstc (k : Nat) (f : MArray → MArray) : (d.updArray k f).rstc = d.rstc := rfl
@[simp] theorem updArray_otpc (k : Nat) (f : MArray → MArray) : (d.updArray k f).otpc = d.otpc := rfl
@[simp] theorem updArray_boot (k : Nat) (f : MArray → MArray) : (d.updArray k f).boot = d.boot := rfl
@[simp] theorem updArray_secm (k : Nat) (f : MArray → MArray) : (d.updArray k f).secm = d.secm := rfl
@[simp] theorem updArray_mgmt (k : Nat) (f : MArray → MArray) : (d.updArray k f).mgmt = d.mgmt := rfl
@[simp] theorem updArray_sb (k : Nat) (f : MArray → MArray) : (d.updArray k f).sb = d.sb := rfl
@[simp] theorem updArray_pcie (k : Nat) (f : MArray → MArray) : (d.updArray k f).pcie = d.pcie := rfl
@[simp] theorem updArray_dbg (k : Nat) (f : MArray → MArray) : (d.updArray k f).dbg = d.dbg := rfl
@[simp] theorem updArray_flash (k : Nat) (f : MArray → MArray) : (d.updArray k f).flash = d.flash := rfl
@[simp] theorem updArray_out (k : Nat) (f : MArray → MArray) : (d.updArray k f).out = d.out := rfl

/-! updSlice -/

@[simp] theorem updSlice_clk (k : Nat) (f : Slice → Slice) : (d.updSlice k f).clk = d.clk := rfl
@[simp] theorem updSlice_hid (k : Nat) (f : Slice → Slice) : (d.updSlice k f).hid = d.hid := rfl
@[simp] theorem updSlice_evt (k : Nat) (f : Slice → Slice) : (d.updSlice k f).evt = d.evt := rfl
@[simp] theorem updSlice_obj (k : Nat) (f : Slice → Slice) : (d.updSlice k f).obj = d.obj := rfl
@[simp] theorem updSlice_parts (k : Nat) (f : Slice → Slice) : (d.updSlice k f).parts = d.parts := rfl
@[simp] theorem updSlice_tiles (k : Nat) (f : Slice → Slice) : (d.updSlice k f).tiles = d.tiles := rfl
@[simp] theorem updSlice_clusters (k : Nat) (f : Slice → Slice) : (d.updSlice k f).clusters = d.clusters := rfl
@[simp] theorem updSlice_plaits (k : Nat) (f : Slice → Slice) : (d.updSlice k f).plaits = d.plaits := rfl
@[simp] theorem updSlice_groups (k : Nat) (f : Slice → Slice) : (d.updSlice k f).groups = d.groups := rfl
@[simp] theorem updSlice_cpys (k : Nat) (f : Slice → Slice) : (d.updSlice k f).cpys = d.cpys := rfl
@[simp] theorem updSlice_stops (k : Nat) (f : Slice → Slice) : (d.updSlice k f).stops = d.stops := rfl
@[simp] theorem updSlice_rcache (k : Nat) (f : Slice → Slice) : (d.updSlice k f).rcache = d.rcache := rfl
@[simp] theorem updSlice_arrays (k : Nat) (f : Slice → Slice) : (d.updSlice k f).arrays = d.arrays := rfl
@[simp] theorem updSlice_saved (k : Nat) (f : Slice → Slice) : (d.updSlice k f).saved = d.saved := rfl
@[simp] theorem updSlice_energy (k : Nat) (f : Slice → Slice) : (d.updSlice k f).energy = d.energy := rfl
@[simp] theorem updSlice_mem (k : Nat) (f : Slice → Slice) : (d.updSlice k f).mem = d.mem := rfl
@[simp] theorem updSlice_fab (k : Nat) (f : Slice → Slice) : (d.updSlice k f).fab = d.fab := rfl
@[simp] theorem updSlice_cole (k : Nat) (f : Slice → Slice) : (d.updSlice k f).cole = d.cole := rfl
@[simp] theorem updSlice_rse (k : Nat) (f : Slice → Slice) : (d.updSlice k f).rse = d.rse := rfl
@[simp] theorem updSlice_ptc (k : Nat) (f : Slice → Slice) : (d.updSlice k f).ptc = d.ptc := rfl
@[simp] theorem updSlice_rstc (k : Nat) (f : Slice → Slice) : (d.updSlice k f).rstc = d.rstc := rfl
@[simp] theorem updSlice_otpc (k : Nat) (f : Slice → Slice) : (d.updSlice k f).otpc = d.otpc := rfl
@[simp] theorem updSlice_boot (k : Nat) (f : Slice → Slice) : (d.updSlice k f).boot = d.boot := rfl
@[simp] theorem updSlice_secm (k : Nat) (f : Slice → Slice) : (d.updSlice k f).secm = d.secm := rfl
@[simp] theorem updSlice_mgmt (k : Nat) (f : Slice → Slice) : (d.updSlice k f).mgmt = d.mgmt := rfl
@[simp] theorem updSlice_sb (k : Nat) (f : Slice → Slice) : (d.updSlice k f).sb = d.sb := rfl
@[simp] theorem updSlice_pcie (k : Nat) (f : Slice → Slice) : (d.updSlice k f).pcie = d.pcie := rfl
@[simp] theorem updSlice_dbg (k : Nat) (f : Slice → Slice) : (d.updSlice k f).dbg = d.dbg := rfl
@[simp] theorem updSlice_flash (k : Nat) (f : Slice → Slice) : (d.updSlice k f).flash = d.flash := rfl
@[simp] theorem updSlice_out (k : Nat) (f : Slice → Slice) : (d.updSlice k f).out = d.out := rfl

/-! updPart -/

@[simp] theorem updPart_clk (p : Nat) (f : Part → Part) : (d.updPart p f).clk = d.clk := rfl
@[simp] theorem updPart_hid (p : Nat) (f : Part → Part) : (d.updPart p f).hid = d.hid := rfl
@[simp] theorem updPart_evt (p : Nat) (f : Part → Part) : (d.updPart p f).evt = d.evt := rfl
@[simp] theorem updPart_obj (p : Nat) (f : Part → Part) : (d.updPart p f).obj = d.obj := rfl
@[simp] theorem updPart_tiles (p : Nat) (f : Part → Part) : (d.updPart p f).tiles = d.tiles := rfl
@[simp] theorem updPart_clusters (p : Nat) (f : Part → Part) : (d.updPart p f).clusters = d.clusters := rfl
@[simp] theorem updPart_plaits (p : Nat) (f : Part → Part) : (d.updPart p f).plaits = d.plaits := rfl
@[simp] theorem updPart_groups (p : Nat) (f : Part → Part) : (d.updPart p f).groups = d.groups := rfl
@[simp] theorem updPart_cpys (p : Nat) (f : Part → Part) : (d.updPart p f).cpys = d.cpys := rfl
@[simp] theorem updPart_stops (p : Nat) (f : Part → Part) : (d.updPart p f).stops = d.stops := rfl
@[simp] theorem updPart_rcache (p : Nat) (f : Part → Part) : (d.updPart p f).rcache = d.rcache := rfl
@[simp] theorem updPart_arrays (p : Nat) (f : Part → Part) : (d.updPart p f).arrays = d.arrays := rfl
@[simp] theorem updPart_slices (p : Nat) (f : Part → Part) : (d.updPart p f).slices = d.slices := rfl
@[simp] theorem updPart_saved (p : Nat) (f : Part → Part) : (d.updPart p f).saved = d.saved := rfl
@[simp] theorem updPart_energy (p : Nat) (f : Part → Part) : (d.updPart p f).energy = d.energy := rfl
@[simp] theorem updPart_mem (p : Nat) (f : Part → Part) : (d.updPart p f).mem = d.mem := rfl
@[simp] theorem updPart_fab (p : Nat) (f : Part → Part) : (d.updPart p f).fab = d.fab := rfl
@[simp] theorem updPart_cole (p : Nat) (f : Part → Part) : (d.updPart p f).cole = d.cole := rfl
@[simp] theorem updPart_rse (p : Nat) (f : Part → Part) : (d.updPart p f).rse = d.rse := rfl
@[simp] theorem updPart_ptc (p : Nat) (f : Part → Part) : (d.updPart p f).ptc = d.ptc := rfl
@[simp] theorem updPart_rstc (p : Nat) (f : Part → Part) : (d.updPart p f).rstc = d.rstc := rfl
@[simp] theorem updPart_otpc (p : Nat) (f : Part → Part) : (d.updPart p f).otpc = d.otpc := rfl
@[simp] theorem updPart_boot (p : Nat) (f : Part → Part) : (d.updPart p f).boot = d.boot := rfl
@[simp] theorem updPart_secm (p : Nat) (f : Part → Part) : (d.updPart p f).secm = d.secm := rfl
@[simp] theorem updPart_mgmt (p : Nat) (f : Part → Part) : (d.updPart p f).mgmt = d.mgmt := rfl
@[simp] theorem updPart_sb (p : Nat) (f : Part → Part) : (d.updPart p f).sb = d.sb := rfl
@[simp] theorem updPart_pcie (p : Nat) (f : Part → Part) : (d.updPart p f).pcie = d.pcie := rfl
@[simp] theorem updPart_dbg (p : Nat) (f : Part → Part) : (d.updPart p f).dbg = d.dbg := rfl
@[simp] theorem updPart_flash (p : Nat) (f : Part → Part) : (d.updPart p f).flash = d.flash := rfl
@[simp] theorem updPart_out (p : Nat) (f : Part → Part) : (d.updPart p f).out = d.out := rfl

/-! updMemp -/

@[simp] theorem updMemp_clk (p : Nat) (f : Memp → Memp) : (d.updMemp p f).clk = d.clk := rfl
@[simp] theorem updMemp_hid (p : Nat) (f : Memp → Memp) : (d.updMemp p f).hid = d.hid := rfl
@[simp] theorem updMemp_evt (p : Nat) (f : Memp → Memp) : (d.updMemp p f).evt = d.evt := rfl
@[simp] theorem updMemp_obj (p : Nat) (f : Memp → Memp) : (d.updMemp p f).obj = d.obj := rfl
@[simp] theorem updMemp_tiles (p : Nat) (f : Memp → Memp) : (d.updMemp p f).tiles = d.tiles := rfl
@[simp] theorem updMemp_clusters (p : Nat) (f : Memp → Memp) : (d.updMemp p f).clusters = d.clusters := rfl
@[simp] theorem updMemp_plaits (p : Nat) (f : Memp → Memp) : (d.updMemp p f).plaits = d.plaits := rfl
@[simp] theorem updMemp_groups (p : Nat) (f : Memp → Memp) : (d.updMemp p f).groups = d.groups := rfl
@[simp] theorem updMemp_cpys (p : Nat) (f : Memp → Memp) : (d.updMemp p f).cpys = d.cpys := rfl
@[simp] theorem updMemp_stops (p : Nat) (f : Memp → Memp) : (d.updMemp p f).stops = d.stops := rfl
@[simp] theorem updMemp_rcache (p : Nat) (f : Memp → Memp) : (d.updMemp p f).rcache = d.rcache := rfl
@[simp] theorem updMemp_arrays (p : Nat) (f : Memp → Memp) : (d.updMemp p f).arrays = d.arrays := rfl
@[simp] theorem updMemp_slices (p : Nat) (f : Memp → Memp) : (d.updMemp p f).slices = d.slices := rfl
@[simp] theorem updMemp_saved (p : Nat) (f : Memp → Memp) : (d.updMemp p f).saved = d.saved := rfl
@[simp] theorem updMemp_energy (p : Nat) (f : Memp → Memp) : (d.updMemp p f).energy = d.energy := rfl
@[simp] theorem updMemp_mem (p : Nat) (f : Memp → Memp) : (d.updMemp p f).mem = d.mem := rfl
@[simp] theorem updMemp_fab (p : Nat) (f : Memp → Memp) : (d.updMemp p f).fab = d.fab := rfl
@[simp] theorem updMemp_cole (p : Nat) (f : Memp → Memp) : (d.updMemp p f).cole = d.cole := rfl
@[simp] theorem updMemp_rse (p : Nat) (f : Memp → Memp) : (d.updMemp p f).rse = d.rse := rfl
@[simp] theorem updMemp_ptc (p : Nat) (f : Memp → Memp) : (d.updMemp p f).ptc = d.ptc := rfl
@[simp] theorem updMemp_rstc (p : Nat) (f : Memp → Memp) : (d.updMemp p f).rstc = d.rstc := rfl
@[simp] theorem updMemp_otpc (p : Nat) (f : Memp → Memp) : (d.updMemp p f).otpc = d.otpc := rfl
@[simp] theorem updMemp_boot (p : Nat) (f : Memp → Memp) : (d.updMemp p f).boot = d.boot := rfl
@[simp] theorem updMemp_secm (p : Nat) (f : Memp → Memp) : (d.updMemp p f).secm = d.secm := rfl
@[simp] theorem updMemp_mgmt (p : Nat) (f : Memp → Memp) : (d.updMemp p f).mgmt = d.mgmt := rfl
@[simp] theorem updMemp_sb (p : Nat) (f : Memp → Memp) : (d.updMemp p f).sb = d.sb := rfl
@[simp] theorem updMemp_pcie (p : Nat) (f : Memp → Memp) : (d.updMemp p f).pcie = d.pcie := rfl
@[simp] theorem updMemp_dbg (p : Nat) (f : Memp → Memp) : (d.updMemp p f).dbg = d.dbg := rfl
@[simp] theorem updMemp_flash (p : Nat) (f : Memp → Memp) : (d.updMemp p f).flash = d.flash := rfl
@[simp] theorem updMemp_out (p : Nat) (f : Memp → Memp) : (d.updMemp p f).out = d.out := rfl

/-! updLsc -/

@[simp] theorem updLsc_clk (p : Nat) (f : Lsc → Lsc) : (d.updLsc p f).clk = d.clk := rfl
@[simp] theorem updLsc_hid (p : Nat) (f : Lsc → Lsc) : (d.updLsc p f).hid = d.hid := rfl
@[simp] theorem updLsc_evt (p : Nat) (f : Lsc → Lsc) : (d.updLsc p f).evt = d.evt := rfl
@[simp] theorem updLsc_obj (p : Nat) (f : Lsc → Lsc) : (d.updLsc p f).obj = d.obj := rfl
@[simp] theorem updLsc_tiles (p : Nat) (f : Lsc → Lsc) : (d.updLsc p f).tiles = d.tiles := rfl
@[simp] theorem updLsc_clusters (p : Nat) (f : Lsc → Lsc) : (d.updLsc p f).clusters = d.clusters := rfl
@[simp] theorem updLsc_plaits (p : Nat) (f : Lsc → Lsc) : (d.updLsc p f).plaits = d.plaits := rfl
@[simp] theorem updLsc_groups (p : Nat) (f : Lsc → Lsc) : (d.updLsc p f).groups = d.groups := rfl
@[simp] theorem updLsc_cpys (p : Nat) (f : Lsc → Lsc) : (d.updLsc p f).cpys = d.cpys := rfl
@[simp] theorem updLsc_stops (p : Nat) (f : Lsc → Lsc) : (d.updLsc p f).stops = d.stops := rfl
@[simp] theorem updLsc_rcache (p : Nat) (f : Lsc → Lsc) : (d.updLsc p f).rcache = d.rcache := rfl
@[simp] theorem updLsc_arrays (p : Nat) (f : Lsc → Lsc) : (d.updLsc p f).arrays = d.arrays := rfl
@[simp] theorem updLsc_slices (p : Nat) (f : Lsc → Lsc) : (d.updLsc p f).slices = d.slices := rfl
@[simp] theorem updLsc_saved (p : Nat) (f : Lsc → Lsc) : (d.updLsc p f).saved = d.saved := rfl
@[simp] theorem updLsc_energy (p : Nat) (f : Lsc → Lsc) : (d.updLsc p f).energy = d.energy := rfl
@[simp] theorem updLsc_mem (p : Nat) (f : Lsc → Lsc) : (d.updLsc p f).mem = d.mem := rfl
@[simp] theorem updLsc_fab (p : Nat) (f : Lsc → Lsc) : (d.updLsc p f).fab = d.fab := rfl
@[simp] theorem updLsc_cole (p : Nat) (f : Lsc → Lsc) : (d.updLsc p f).cole = d.cole := rfl
@[simp] theorem updLsc_rse (p : Nat) (f : Lsc → Lsc) : (d.updLsc p f).rse = d.rse := rfl
@[simp] theorem updLsc_ptc (p : Nat) (f : Lsc → Lsc) : (d.updLsc p f).ptc = d.ptc := rfl
@[simp] theorem updLsc_rstc (p : Nat) (f : Lsc → Lsc) : (d.updLsc p f).rstc = d.rstc := rfl
@[simp] theorem updLsc_otpc (p : Nat) (f : Lsc → Lsc) : (d.updLsc p f).otpc = d.otpc := rfl
@[simp] theorem updLsc_boot (p : Nat) (f : Lsc → Lsc) : (d.updLsc p f).boot = d.boot := rfl
@[simp] theorem updLsc_secm (p : Nat) (f : Lsc → Lsc) : (d.updLsc p f).secm = d.secm := rfl
@[simp] theorem updLsc_mgmt (p : Nat) (f : Lsc → Lsc) : (d.updLsc p f).mgmt = d.mgmt := rfl
@[simp] theorem updLsc_sb (p : Nat) (f : Lsc → Lsc) : (d.updLsc p f).sb = d.sb := rfl
@[simp] theorem updLsc_pcie (p : Nat) (f : Lsc → Lsc) : (d.updLsc p f).pcie = d.pcie := rfl
@[simp] theorem updLsc_dbg (p : Nat) (f : Lsc → Lsc) : (d.updLsc p f).dbg = d.dbg := rfl
@[simp] theorem updLsc_flash (p : Nat) (f : Lsc → Lsc) : (d.updLsc p f).flash = d.flash := rfl
@[simp] theorem updLsc_out (p : Nat) (f : Lsc → Lsc) : (d.updLsc p f).out = d.out := rfl

/-! updRounds -/

@[simp] theorem updRounds_clk (p : Nat) (f : Rounds → Rounds) : (d.updRounds p f).clk = d.clk := rfl
@[simp] theorem updRounds_hid (p : Nat) (f : Rounds → Rounds) : (d.updRounds p f).hid = d.hid := rfl
@[simp] theorem updRounds_evt (p : Nat) (f : Rounds → Rounds) : (d.updRounds p f).evt = d.evt := rfl
@[simp] theorem updRounds_obj (p : Nat) (f : Rounds → Rounds) : (d.updRounds p f).obj = d.obj := rfl
@[simp] theorem updRounds_tiles (p : Nat) (f : Rounds → Rounds) : (d.updRounds p f).tiles = d.tiles := rfl
@[simp] theorem updRounds_clusters (p : Nat) (f : Rounds → Rounds) : (d.updRounds p f).clusters = d.clusters := rfl
@[simp] theorem updRounds_plaits (p : Nat) (f : Rounds → Rounds) : (d.updRounds p f).plaits = d.plaits := rfl
@[simp] theorem updRounds_groups (p : Nat) (f : Rounds → Rounds) : (d.updRounds p f).groups = d.groups := rfl
@[simp] theorem updRounds_cpys (p : Nat) (f : Rounds → Rounds) : (d.updRounds p f).cpys = d.cpys := rfl
@[simp] theorem updRounds_stops (p : Nat) (f : Rounds → Rounds) : (d.updRounds p f).stops = d.stops := rfl
@[simp] theorem updRounds_rcache (p : Nat) (f : Rounds → Rounds) : (d.updRounds p f).rcache = d.rcache := rfl
@[simp] theorem updRounds_arrays (p : Nat) (f : Rounds → Rounds) : (d.updRounds p f).arrays = d.arrays := rfl
@[simp] theorem updRounds_slices (p : Nat) (f : Rounds → Rounds) : (d.updRounds p f).slices = d.slices := rfl
@[simp] theorem updRounds_saved (p : Nat) (f : Rounds → Rounds) : (d.updRounds p f).saved = d.saved := rfl
@[simp] theorem updRounds_energy (p : Nat) (f : Rounds → Rounds) : (d.updRounds p f).energy = d.energy := rfl
@[simp] theorem updRounds_mem (p : Nat) (f : Rounds → Rounds) : (d.updRounds p f).mem = d.mem := rfl
@[simp] theorem updRounds_fab (p : Nat) (f : Rounds → Rounds) : (d.updRounds p f).fab = d.fab := rfl
@[simp] theorem updRounds_cole (p : Nat) (f : Rounds → Rounds) : (d.updRounds p f).cole = d.cole := rfl
@[simp] theorem updRounds_rse (p : Nat) (f : Rounds → Rounds) : (d.updRounds p f).rse = d.rse := rfl
@[simp] theorem updRounds_ptc (p : Nat) (f : Rounds → Rounds) : (d.updRounds p f).ptc = d.ptc := rfl
@[simp] theorem updRounds_rstc (p : Nat) (f : Rounds → Rounds) : (d.updRounds p f).rstc = d.rstc := rfl
@[simp] theorem updRounds_otpc (p : Nat) (f : Rounds → Rounds) : (d.updRounds p f).otpc = d.otpc := rfl
@[simp] theorem updRounds_boot (p : Nat) (f : Rounds → Rounds) : (d.updRounds p f).boot = d.boot := rfl
@[simp] theorem updRounds_secm (p : Nat) (f : Rounds → Rounds) : (d.updRounds p f).secm = d.secm := rfl
@[simp] theorem updRounds_mgmt (p : Nat) (f : Rounds → Rounds) : (d.updRounds p f).mgmt = d.mgmt := rfl
@[simp] theorem updRounds_sb (p : Nat) (f : Rounds → Rounds) : (d.updRounds p f).sb = d.sb := rfl
@[simp] theorem updRounds_pcie (p : Nat) (f : Rounds → Rounds) : (d.updRounds p f).pcie = d.pcie := rfl
@[simp] theorem updRounds_dbg (p : Nat) (f : Rounds → Rounds) : (d.updRounds p f).dbg = d.dbg := rfl
@[simp] theorem updRounds_flash (p : Nat) (f : Rounds → Rounds) : (d.updRounds p f).flash = d.flash := rfl
@[simp] theorem updRounds_out (p : Nat) (f : Rounds → Rounds) : (d.updRounds p f).out = d.out := rfl

/-! updPlait -/

@[simp] theorem updPlait_clk (k : Nat) (f : Plait → Plait) : (d.updPlait k f).clk = d.clk := rfl
@[simp] theorem updPlait_hid (k : Nat) (f : Plait → Plait) : (d.updPlait k f).hid = d.hid := rfl
@[simp] theorem updPlait_evt (k : Nat) (f : Plait → Plait) : (d.updPlait k f).evt = d.evt := rfl
@[simp] theorem updPlait_obj (k : Nat) (f : Plait → Plait) : (d.updPlait k f).obj = d.obj := rfl
@[simp] theorem updPlait_parts (k : Nat) (f : Plait → Plait) : (d.updPlait k f).parts = d.parts := rfl
@[simp] theorem updPlait_tiles (k : Nat) (f : Plait → Plait) : (d.updPlait k f).tiles = d.tiles := rfl
@[simp] theorem updPlait_clusters (k : Nat) (f : Plait → Plait) : (d.updPlait k f).clusters = d.clusters := rfl
@[simp] theorem updPlait_groups (k : Nat) (f : Plait → Plait) : (d.updPlait k f).groups = d.groups := rfl
@[simp] theorem updPlait_cpys (k : Nat) (f : Plait → Plait) : (d.updPlait k f).cpys = d.cpys := rfl
@[simp] theorem updPlait_stops (k : Nat) (f : Plait → Plait) : (d.updPlait k f).stops = d.stops := rfl
@[simp] theorem updPlait_rcache (k : Nat) (f : Plait → Plait) : (d.updPlait k f).rcache = d.rcache := rfl
@[simp] theorem updPlait_arrays (k : Nat) (f : Plait → Plait) : (d.updPlait k f).arrays = d.arrays := rfl
@[simp] theorem updPlait_slices (k : Nat) (f : Plait → Plait) : (d.updPlait k f).slices = d.slices := rfl
@[simp] theorem updPlait_saved (k : Nat) (f : Plait → Plait) : (d.updPlait k f).saved = d.saved := rfl
@[simp] theorem updPlait_energy (k : Nat) (f : Plait → Plait) : (d.updPlait k f).energy = d.energy := rfl
@[simp] theorem updPlait_mem (k : Nat) (f : Plait → Plait) : (d.updPlait k f).mem = d.mem := rfl
@[simp] theorem updPlait_fab (k : Nat) (f : Plait → Plait) : (d.updPlait k f).fab = d.fab := rfl
@[simp] theorem updPlait_cole (k : Nat) (f : Plait → Plait) : (d.updPlait k f).cole = d.cole := rfl
@[simp] theorem updPlait_rse (k : Nat) (f : Plait → Plait) : (d.updPlait k f).rse = d.rse := rfl
@[simp] theorem updPlait_ptc (k : Nat) (f : Plait → Plait) : (d.updPlait k f).ptc = d.ptc := rfl
@[simp] theorem updPlait_rstc (k : Nat) (f : Plait → Plait) : (d.updPlait k f).rstc = d.rstc := rfl
@[simp] theorem updPlait_otpc (k : Nat) (f : Plait → Plait) : (d.updPlait k f).otpc = d.otpc := rfl
@[simp] theorem updPlait_boot (k : Nat) (f : Plait → Plait) : (d.updPlait k f).boot = d.boot := rfl
@[simp] theorem updPlait_secm (k : Nat) (f : Plait → Plait) : (d.updPlait k f).secm = d.secm := rfl
@[simp] theorem updPlait_mgmt (k : Nat) (f : Plait → Plait) : (d.updPlait k f).mgmt = d.mgmt := rfl
@[simp] theorem updPlait_sb (k : Nat) (f : Plait → Plait) : (d.updPlait k f).sb = d.sb := rfl
@[simp] theorem updPlait_pcie (k : Nat) (f : Plait → Plait) : (d.updPlait k f).pcie = d.pcie := rfl
@[simp] theorem updPlait_dbg (k : Nat) (f : Plait → Plait) : (d.updPlait k f).dbg = d.dbg := rfl
@[simp] theorem updPlait_flash (k : Nat) (f : Plait → Plait) : (d.updPlait k f).flash = d.flash := rfl
@[simp] theorem updPlait_out (k : Nat) (f : Plait → Plait) : (d.updPlait k f).out = d.out := rfl

/-! setPlait -/

@[simp] theorem setPlait_clk (k : Nat) (p : Plait) : (d.setPlait k p).clk = d.clk := rfl
@[simp] theorem setPlait_hid (k : Nat) (p : Plait) : (d.setPlait k p).hid = d.hid := rfl
@[simp] theorem setPlait_evt (k : Nat) (p : Plait) : (d.setPlait k p).evt = d.evt := rfl
@[simp] theorem setPlait_obj (k : Nat) (p : Plait) : (d.setPlait k p).obj = d.obj := rfl
@[simp] theorem setPlait_parts (k : Nat) (p : Plait) : (d.setPlait k p).parts = d.parts := rfl
@[simp] theorem setPlait_tiles (k : Nat) (p : Plait) : (d.setPlait k p).tiles = d.tiles := rfl
@[simp] theorem setPlait_clusters (k : Nat) (p : Plait) : (d.setPlait k p).clusters = d.clusters := rfl
@[simp] theorem setPlait_groups (k : Nat) (p : Plait) : (d.setPlait k p).groups = d.groups := rfl
@[simp] theorem setPlait_cpys (k : Nat) (p : Plait) : (d.setPlait k p).cpys = d.cpys := rfl
@[simp] theorem setPlait_stops (k : Nat) (p : Plait) : (d.setPlait k p).stops = d.stops := rfl
@[simp] theorem setPlait_rcache (k : Nat) (p : Plait) : (d.setPlait k p).rcache = d.rcache := rfl
@[simp] theorem setPlait_arrays (k : Nat) (p : Plait) : (d.setPlait k p).arrays = d.arrays := rfl
@[simp] theorem setPlait_slices (k : Nat) (p : Plait) : (d.setPlait k p).slices = d.slices := rfl
@[simp] theorem setPlait_saved (k : Nat) (p : Plait) : (d.setPlait k p).saved = d.saved := rfl
@[simp] theorem setPlait_energy (k : Nat) (p : Plait) : (d.setPlait k p).energy = d.energy := rfl
@[simp] theorem setPlait_mem (k : Nat) (p : Plait) : (d.setPlait k p).mem = d.mem := rfl
@[simp] theorem setPlait_fab (k : Nat) (p : Plait) : (d.setPlait k p).fab = d.fab := rfl
@[simp] theorem setPlait_cole (k : Nat) (p : Plait) : (d.setPlait k p).cole = d.cole := rfl
@[simp] theorem setPlait_rse (k : Nat) (p : Plait) : (d.setPlait k p).rse = d.rse := rfl
@[simp] theorem setPlait_ptc (k : Nat) (p : Plait) : (d.setPlait k p).ptc = d.ptc := rfl
@[simp] theorem setPlait_rstc (k : Nat) (p : Plait) : (d.setPlait k p).rstc = d.rstc := rfl
@[simp] theorem setPlait_otpc (k : Nat) (p : Plait) : (d.setPlait k p).otpc = d.otpc := rfl
@[simp] theorem setPlait_boot (k : Nat) (p : Plait) : (d.setPlait k p).boot = d.boot := rfl
@[simp] theorem setPlait_secm (k : Nat) (p : Plait) : (d.setPlait k p).secm = d.secm := rfl
@[simp] theorem setPlait_mgmt (k : Nat) (p : Plait) : (d.setPlait k p).mgmt = d.mgmt := rfl
@[simp] theorem setPlait_sb (k : Nat) (p : Plait) : (d.setPlait k p).sb = d.sb := rfl
@[simp] theorem setPlait_pcie (k : Nat) (p : Plait) : (d.setPlait k p).pcie = d.pcie := rfl
@[simp] theorem setPlait_dbg (k : Nat) (p : Plait) : (d.setPlait k p).dbg = d.dbg := rfl
@[simp] theorem setPlait_flash (k : Nat) (p : Plait) : (d.setPlait k p).flash = d.flash := rfl
@[simp] theorem setPlait_out (k : Nat) (p : Plait) : (d.setPlait k p).out = d.out := rfl

/-! updPort -/

@[simp] theorem updPort_clk (p : Nat) (f : HPort → HPort) : (d.updPort p f).clk = d.clk := rfl
@[simp] theorem updPort_hid (p : Nat) (f : HPort → HPort) : (d.updPort p f).hid = d.hid := rfl
@[simp] theorem updPort_evt (p : Nat) (f : HPort → HPort) : (d.updPort p f).evt = d.evt := rfl
@[simp] theorem updPort_obj (p : Nat) (f : HPort → HPort) : (d.updPort p f).obj = d.obj := rfl
@[simp] theorem updPort_parts (p : Nat) (f : HPort → HPort) : (d.updPort p f).parts = d.parts := rfl
@[simp] theorem updPort_tiles (p : Nat) (f : HPort → HPort) : (d.updPort p f).tiles = d.tiles := rfl
@[simp] theorem updPort_clusters (p : Nat) (f : HPort → HPort) : (d.updPort p f).clusters = d.clusters := rfl
@[simp] theorem updPort_plaits (p : Nat) (f : HPort → HPort) : (d.updPort p f).plaits = d.plaits := rfl
@[simp] theorem updPort_groups (p : Nat) (f : HPort → HPort) : (d.updPort p f).groups = d.groups := rfl
@[simp] theorem updPort_cpys (p : Nat) (f : HPort → HPort) : (d.updPort p f).cpys = d.cpys := rfl
@[simp] theorem updPort_stops (p : Nat) (f : HPort → HPort) : (d.updPort p f).stops = d.stops := rfl
@[simp] theorem updPort_rcache (p : Nat) (f : HPort → HPort) : (d.updPort p f).rcache = d.rcache := rfl
@[simp] theorem updPort_arrays (p : Nat) (f : HPort → HPort) : (d.updPort p f).arrays = d.arrays := rfl
@[simp] theorem updPort_slices (p : Nat) (f : HPort → HPort) : (d.updPort p f).slices = d.slices := rfl
@[simp] theorem updPort_saved (p : Nat) (f : HPort → HPort) : (d.updPort p f).saved = d.saved := rfl
@[simp] theorem updPort_energy (p : Nat) (f : HPort → HPort) : (d.updPort p f).energy = d.energy := rfl
@[simp] theorem updPort_mem (p : Nat) (f : HPort → HPort) : (d.updPort p f).mem = d.mem := rfl
@[simp] theorem updPort_cole (p : Nat) (f : HPort → HPort) : (d.updPort p f).cole = d.cole := rfl
@[simp] theorem updPort_rse (p : Nat) (f : HPort → HPort) : (d.updPort p f).rse = d.rse := rfl
@[simp] theorem updPort_ptc (p : Nat) (f : HPort → HPort) : (d.updPort p f).ptc = d.ptc := rfl
@[simp] theorem updPort_rstc (p : Nat) (f : HPort → HPort) : (d.updPort p f).rstc = d.rstc := rfl
@[simp] theorem updPort_otpc (p : Nat) (f : HPort → HPort) : (d.updPort p f).otpc = d.otpc := rfl
@[simp] theorem updPort_boot (p : Nat) (f : HPort → HPort) : (d.updPort p f).boot = d.boot := rfl
@[simp] theorem updPort_secm (p : Nat) (f : HPort → HPort) : (d.updPort p f).secm = d.secm := rfl
@[simp] theorem updPort_mgmt (p : Nat) (f : HPort → HPort) : (d.updPort p f).mgmt = d.mgmt := rfl
@[simp] theorem updPort_sb (p : Nat) (f : HPort → HPort) : (d.updPort p f).sb = d.sb := rfl
@[simp] theorem updPort_pcie (p : Nat) (f : HPort → HPort) : (d.updPort p f).pcie = d.pcie := rfl
@[simp] theorem updPort_dbg (p : Nat) (f : HPort → HPort) : (d.updPort p f).dbg = d.dbg := rfl
@[simp] theorem updPort_flash (p : Nat) (f : HPort → HPort) : (d.updPort p f).flash = d.flash := rfl
@[simp] theorem updPort_out (p : Nat) (f : HPort → HPort) : (d.updPort p f).out = d.out := rfl

/-! drew -/

@[simp] theorem drew_hid : (d.drew).hid = d.hid := rfl
@[simp] theorem drew_evt : (d.drew).evt = d.evt := rfl
@[simp] theorem drew_obj : (d.drew).obj = d.obj := rfl
@[simp] theorem drew_parts : (d.drew).parts = d.parts := rfl
@[simp] theorem drew_tiles : (d.drew).tiles = d.tiles := rfl
@[simp] theorem drew_clusters : (d.drew).clusters = d.clusters := rfl
@[simp] theorem drew_plaits : (d.drew).plaits = d.plaits := rfl
@[simp] theorem drew_groups : (d.drew).groups = d.groups := rfl
@[simp] theorem drew_cpys : (d.drew).cpys = d.cpys := rfl
@[simp] theorem drew_stops : (d.drew).stops = d.stops := rfl
@[simp] theorem drew_rcache : (d.drew).rcache = d.rcache := rfl
@[simp] theorem drew_arrays : (d.drew).arrays = d.arrays := rfl
@[simp] theorem drew_slices : (d.drew).slices = d.slices := rfl
@[simp] theorem drew_saved : (d.drew).saved = d.saved := rfl
@[simp] theorem drew_energy : (d.drew).energy = d.energy := rfl
@[simp] theorem drew_mem : (d.drew).mem = d.mem := rfl
@[simp] theorem drew_fab : (d.drew).fab = d.fab := rfl
@[simp] theorem drew_cole : (d.drew).cole = d.cole := rfl
@[simp] theorem drew_rse : (d.drew).rse = d.rse := rfl
@[simp] theorem drew_ptc : (d.drew).ptc = d.ptc := rfl
@[simp] theorem drew_rstc : (d.drew).rstc = d.rstc := rfl
@[simp] theorem drew_otpc : (d.drew).otpc = d.otpc := rfl
@[simp] theorem drew_boot : (d.drew).boot = d.boot := rfl
@[simp] theorem drew_secm : (d.drew).secm = d.secm := rfl
@[simp] theorem drew_mgmt : (d.drew).mgmt = d.mgmt := rfl
@[simp] theorem drew_sb : (d.drew).sb = d.sb := rfl
@[simp] theorem drew_pcie : (d.drew).pcie = d.pcie := rfl
@[simp] theorem drew_dbg : (d.drew).dbg = d.dbg := rfl
@[simp] theorem drew_flash : (d.drew).flash = d.flash := rfl
@[simp] theorem drew_out : (d.drew).out = d.out := rfl

/-! at -/

@[simp] theorem at_hid (n : Nat) : (d.at n).hid = d.hid := rfl
@[simp] theorem at_evt (n : Nat) : (d.at n).evt = d.evt := rfl
@[simp] theorem at_obj (n : Nat) : (d.at n).obj = d.obj := rfl
@[simp] theorem at_parts (n : Nat) : (d.at n).parts = d.parts := rfl
@[simp] theorem at_tiles (n : Nat) : (d.at n).tiles = d.tiles := rfl
@[simp] theorem at_clusters (n : Nat) : (d.at n).clusters = d.clusters := rfl
@[simp] theorem at_plaits (n : Nat) : (d.at n).plaits = d.plaits := rfl
@[simp] theorem at_groups (n : Nat) : (d.at n).groups = d.groups := rfl
@[simp] theorem at_cpys (n : Nat) : (d.at n).cpys = d.cpys := rfl
@[simp] theorem at_stops (n : Nat) : (d.at n).stops = d.stops := rfl
@[simp] theorem at_rcache (n : Nat) : (d.at n).rcache = d.rcache := rfl
@[simp] theorem at_arrays (n : Nat) : (d.at n).arrays = d.arrays := rfl
@[simp] theorem at_slices (n : Nat) : (d.at n).slices = d.slices := rfl
@[simp] theorem at_saved (n : Nat) : (d.at n).saved = d.saved := rfl
@[simp] theorem at_energy (n : Nat) : (d.at n).energy = d.energy := rfl
@[simp] theorem at_mem (n : Nat) : (d.at n).mem = d.mem := rfl
@[simp] theorem at_fab (n : Nat) : (d.at n).fab = d.fab := rfl
@[simp] theorem at_cole (n : Nat) : (d.at n).cole = d.cole := rfl
@[simp] theorem at_rse (n : Nat) : (d.at n).rse = d.rse := rfl
@[simp] theorem at_ptc (n : Nat) : (d.at n).ptc = d.ptc := rfl
@[simp] theorem at_rstc (n : Nat) : (d.at n).rstc = d.rstc := rfl
@[simp] theorem at_otpc (n : Nat) : (d.at n).otpc = d.otpc := rfl
@[simp] theorem at_boot (n : Nat) : (d.at n).boot = d.boot := rfl
@[simp] theorem at_secm (n : Nat) : (d.at n).secm = d.secm := rfl
@[simp] theorem at_mgmt (n : Nat) : (d.at n).mgmt = d.mgmt := rfl
@[simp] theorem at_sb (n : Nat) : (d.at n).sb = d.sb := rfl
@[simp] theorem at_pcie (n : Nat) : (d.at n).pcie = d.pcie := rfl
@[simp] theorem at_dbg (n : Nat) : (d.at n).dbg = d.dbg := rfl
@[simp] theorem at_flash (n : Nat) : (d.at n).flash = d.flash := rfl
@[simp] theorem at_out (n : Nat) : (d.at n).out = d.out := rfl

/-! updCtx -/

@[simp] theorem updCtx_clk (c : Nat) (f : Ctx → Ctx) : (d.updCtx c f).clk = d.clk := rfl
@[simp] theorem updCtx_hid (c : Nat) (f : Ctx → Ctx) : (d.updCtx c f).hid = d.hid := rfl
@[simp] theorem updCtx_evt (c : Nat) (f : Ctx → Ctx) : (d.updCtx c f).evt = d.evt := rfl
@[simp] theorem updCtx_parts (c : Nat) (f : Ctx → Ctx) : (d.updCtx c f).parts = d.parts := rfl
@[simp] theorem updCtx_tiles (c : Nat) (f : Ctx → Ctx) : (d.updCtx c f).tiles = d.tiles := rfl
@[simp] theorem updCtx_clusters (c : Nat) (f : Ctx → Ctx) : (d.updCtx c f).clusters = d.clusters := rfl
@[simp] theorem updCtx_plaits (c : Nat) (f : Ctx → Ctx) : (d.updCtx c f).plaits = d.plaits := rfl
@[simp] theorem updCtx_groups (c : Nat) (f : Ctx → Ctx) : (d.updCtx c f).groups = d.groups := rfl
@[simp] theorem updCtx_cpys (c : Nat) (f : Ctx → Ctx) : (d.updCtx c f).cpys = d.cpys := rfl
@[simp] theorem updCtx_stops (c : Nat) (f : Ctx → Ctx) : (d.updCtx c f).stops = d.stops := rfl
@[simp] theorem updCtx_rcache (c : Nat) (f : Ctx → Ctx) : (d.updCtx c f).rcache = d.rcache := rfl
@[simp] theorem updCtx_arrays (c : Nat) (f : Ctx → Ctx) : (d.updCtx c f).arrays = d.arrays := rfl
@[simp] theorem updCtx_slices (c : Nat) (f : Ctx → Ctx) : (d.updCtx c f).slices = d.slices := rfl
@[simp] theorem updCtx_saved (c : Nat) (f : Ctx → Ctx) : (d.updCtx c f).saved = d.saved := rfl
@[simp] theorem updCtx_energy (c : Nat) (f : Ctx → Ctx) : (d.updCtx c f).energy = d.energy := rfl
@[simp] theorem updCtx_mem (c : Nat) (f : Ctx → Ctx) : (d.updCtx c f).mem = d.mem := rfl
@[simp] theorem updCtx_fab (c : Nat) (f : Ctx → Ctx) : (d.updCtx c f).fab = d.fab := rfl
@[simp] theorem updCtx_cole (c : Nat) (f : Ctx → Ctx) : (d.updCtx c f).cole = d.cole := rfl
@[simp] theorem updCtx_rse (c : Nat) (f : Ctx → Ctx) : (d.updCtx c f).rse = d.rse := rfl
@[simp] theorem updCtx_ptc (c : Nat) (f : Ctx → Ctx) : (d.updCtx c f).ptc = d.ptc := rfl
@[simp] theorem updCtx_rstc (c : Nat) (f : Ctx → Ctx) : (d.updCtx c f).rstc = d.rstc := rfl
@[simp] theorem updCtx_otpc (c : Nat) (f : Ctx → Ctx) : (d.updCtx c f).otpc = d.otpc := rfl
@[simp] theorem updCtx_boot (c : Nat) (f : Ctx → Ctx) : (d.updCtx c f).boot = d.boot := rfl
@[simp] theorem updCtx_secm (c : Nat) (f : Ctx → Ctx) : (d.updCtx c f).secm = d.secm := rfl
@[simp] theorem updCtx_mgmt (c : Nat) (f : Ctx → Ctx) : (d.updCtx c f).mgmt = d.mgmt := rfl
@[simp] theorem updCtx_sb (c : Nat) (f : Ctx → Ctx) : (d.updCtx c f).sb = d.sb := rfl
@[simp] theorem updCtx_pcie (c : Nat) (f : Ctx → Ctx) : (d.updCtx c f).pcie = d.pcie := rfl
@[simp] theorem updCtx_dbg (c : Nat) (f : Ctx → Ctx) : (d.updCtx c f).dbg = d.dbg := rfl
@[simp] theorem updCtx_flash (c : Nat) (f : Ctx → Ctx) : (d.updCtx c f).flash = d.flash := rfl
@[simp] theorem updCtx_out (c : Nat) (f : Ctx → Ctx) : (d.updCtx c f).out = d.out := rfl
@[simp] theorem updCtx_obj_held (c : Nat) (f : Ctx → Ctx) : (d.updCtx c f).obj.held = d.obj.held := rfl
@[simp] theorem updCtx_obj_ignoredCount (c : Nat) (f : Ctx → Ctx) : (d.updCtx c f).obj.ignoredCount = d.obj.ignoredCount := rfl
@[simp] theorem updCtx_obj_ignCause (c : Nat) (f : Ctx → Ctx) : (d.updCtx c f).obj.ignCause = d.obj.ignCause := rfl
@[simp] theorem updCtx_obj_ignSource (c : Nat) (f : Ctx → Ctx) : (d.updCtx c f).obj.ignSource = d.obj.ignSource := rfl
@[simp] theorem updCtx_obj_ignDetail (c : Nat) (f : Ctx → Ctx) : (d.updCtx c f).obj.ignDetail = d.obj.ignDetail := rfl
@[simp] theorem updCtx_obj_ports (c : Nat) (f : Ctx → Ctx) : (d.updCtx c f).obj.ports = d.obj.ports := rfl
@[simp] theorem updCtx_obj_queues (c : Nat) (f : Ctx → Ctx) : (d.updCtx c f).obj.queues = d.obj.queues := rfl
@[simp] theorem updCtx_obj_fences (c : Nat) (f : Ctx → Ctx) : (d.updCtx c f).obj.fences = d.obj.fences := rfl
@[simp] theorem updCtx_obj_fenceGen (c : Nat) (f : Ctx → Ctx) : (d.updCtx c f).obj.fenceGen = d.obj.fenceGen := rfl
@[simp] theorem updCtx_obj_mobjs (c : Nat) (f : Ctx → Ctx) : (d.updCtx c f).obj.mobjs = d.obj.mobjs := rfl
@[simp] theorem updCtx_obj_mobjGen (c : Nat) (f : Ctx → Ctx) : (d.updCtx c f).obj.mobjGen = d.obj.mobjGen := rfl

/-! updQueue -/

@[simp] theorem updQueue_clk (q : Nat) (f : Queue → Queue) : (d.updQueue q f).clk = d.clk := rfl
@[simp] theorem updQueue_hid (q : Nat) (f : Queue → Queue) : (d.updQueue q f).hid = d.hid := rfl
@[simp] theorem updQueue_evt (q : Nat) (f : Queue → Queue) : (d.updQueue q f).evt = d.evt := rfl
@[simp] theorem updQueue_parts (q : Nat) (f : Queue → Queue) : (d.updQueue q f).parts = d.parts := rfl
@[simp] theorem updQueue_tiles (q : Nat) (f : Queue → Queue) : (d.updQueue q f).tiles = d.tiles := rfl
@[simp] theorem updQueue_clusters (q : Nat) (f : Queue → Queue) : (d.updQueue q f).clusters = d.clusters := rfl
@[simp] theorem updQueue_plaits (q : Nat) (f : Queue → Queue) : (d.updQueue q f).plaits = d.plaits := rfl
@[simp] theorem updQueue_groups (q : Nat) (f : Queue → Queue) : (d.updQueue q f).groups = d.groups := rfl
@[simp] theorem updQueue_cpys (q : Nat) (f : Queue → Queue) : (d.updQueue q f).cpys = d.cpys := rfl
@[simp] theorem updQueue_stops (q : Nat) (f : Queue → Queue) : (d.updQueue q f).stops = d.stops := rfl
@[simp] theorem updQueue_rcache (q : Nat) (f : Queue → Queue) : (d.updQueue q f).rcache = d.rcache := rfl
@[simp] theorem updQueue_arrays (q : Nat) (f : Queue → Queue) : (d.updQueue q f).arrays = d.arrays := rfl
@[simp] theorem updQueue_slices (q : Nat) (f : Queue → Queue) : (d.updQueue q f).slices = d.slices := rfl
@[simp] theorem updQueue_saved (q : Nat) (f : Queue → Queue) : (d.updQueue q f).saved = d.saved := rfl
@[simp] theorem updQueue_energy (q : Nat) (f : Queue → Queue) : (d.updQueue q f).energy = d.energy := rfl
@[simp] theorem updQueue_mem (q : Nat) (f : Queue → Queue) : (d.updQueue q f).mem = d.mem := rfl
@[simp] theorem updQueue_fab (q : Nat) (f : Queue → Queue) : (d.updQueue q f).fab = d.fab := rfl
@[simp] theorem updQueue_cole (q : Nat) (f : Queue → Queue) : (d.updQueue q f).cole = d.cole := rfl
@[simp] theorem updQueue_rse (q : Nat) (f : Queue → Queue) : (d.updQueue q f).rse = d.rse := rfl
@[simp] theorem updQueue_ptc (q : Nat) (f : Queue → Queue) : (d.updQueue q f).ptc = d.ptc := rfl
@[simp] theorem updQueue_rstc (q : Nat) (f : Queue → Queue) : (d.updQueue q f).rstc = d.rstc := rfl
@[simp] theorem updQueue_otpc (q : Nat) (f : Queue → Queue) : (d.updQueue q f).otpc = d.otpc := rfl
@[simp] theorem updQueue_boot (q : Nat) (f : Queue → Queue) : (d.updQueue q f).boot = d.boot := rfl
@[simp] theorem updQueue_secm (q : Nat) (f : Queue → Queue) : (d.updQueue q f).secm = d.secm := rfl
@[simp] theorem updQueue_mgmt (q : Nat) (f : Queue → Queue) : (d.updQueue q f).mgmt = d.mgmt := rfl
@[simp] theorem updQueue_sb (q : Nat) (f : Queue → Queue) : (d.updQueue q f).sb = d.sb := rfl
@[simp] theorem updQueue_pcie (q : Nat) (f : Queue → Queue) : (d.updQueue q f).pcie = d.pcie := rfl
@[simp] theorem updQueue_dbg (q : Nat) (f : Queue → Queue) : (d.updQueue q f).dbg = d.dbg := rfl
@[simp] theorem updQueue_flash (q : Nat) (f : Queue → Queue) : (d.updQueue q f).flash = d.flash := rfl
@[simp] theorem updQueue_out (q : Nat) (f : Queue → Queue) : (d.updQueue q f).out = d.out := rfl
@[simp] theorem updQueue_obj_held (q : Nat) (f : Queue → Queue) : (d.updQueue q f).obj.held = d.obj.held := rfl
@[simp] theorem updQueue_obj_ignoredCount (q : Nat) (f : Queue → Queue) : (d.updQueue q f).obj.ignoredCount = d.obj.ignoredCount := rfl
@[simp] theorem updQueue_obj_ignCause (q : Nat) (f : Queue → Queue) : (d.updQueue q f).obj.ignCause = d.obj.ignCause := rfl
@[simp] theorem updQueue_obj_ignSource (q : Nat) (f : Queue → Queue) : (d.updQueue q f).obj.ignSource = d.obj.ignSource := rfl
@[simp] theorem updQueue_obj_ignDetail (q : Nat) (f : Queue → Queue) : (d.updQueue q f).obj.ignDetail = d.obj.ignDetail := rfl
@[simp] theorem updQueue_obj_ports (q : Nat) (f : Queue → Queue) : (d.updQueue q f).obj.ports = d.obj.ports := rfl
@[simp] theorem updQueue_obj_ctxs (q : Nat) (f : Queue → Queue) : (d.updQueue q f).obj.ctxs = d.obj.ctxs := rfl
@[simp] theorem updQueue_obj_fences (q : Nat) (f : Queue → Queue) : (d.updQueue q f).obj.fences = d.obj.fences := rfl
@[simp] theorem updQueue_obj_fenceGen (q : Nat) (f : Queue → Queue) : (d.updQueue q f).obj.fenceGen = d.obj.fenceGen := rfl
@[simp] theorem updQueue_obj_mobjs (q : Nat) (f : Queue → Queue) : (d.updQueue q f).obj.mobjs = d.obj.mobjs := rfl
@[simp] theorem updQueue_obj_mobjGen (q : Nat) (f : Queue → Queue) : (d.updQueue q f).obj.mobjGen = d.obj.mobjGen := rfl

/-! updMobj -/

@[simp] theorem updMobj_clk (m : Nat) (f : MObj → MObj) : (d.updMobj m f).clk = d.clk := rfl
@[simp] theorem updMobj_hid (m : Nat) (f : MObj → MObj) : (d.updMobj m f).hid = d.hid := rfl
@[simp] theorem updMobj_evt (m : Nat) (f : MObj → MObj) : (d.updMobj m f).evt = d.evt := rfl
@[simp] theorem updMobj_parts (m : Nat) (f : MObj → MObj) : (d.updMobj m f).parts = d.parts := rfl
@[simp] theorem updMobj_tiles (m : Nat) (f : MObj → MObj) : (d.updMobj m f).tiles = d.tiles := rfl
@[simp] theorem updMobj_clusters (m : Nat) (f : MObj → MObj) : (d.updMobj m f).clusters = d.clusters := rfl
@[simp] theorem updMobj_plaits (m : Nat) (f : MObj → MObj) : (d.updMobj m f).plaits = d.plaits := rfl
@[simp] theorem updMobj_groups (m : Nat) (f : MObj → MObj) : (d.updMobj m f).groups = d.groups := rfl
@[simp] theorem updMobj_cpys (m : Nat) (f : MObj → MObj) : (d.updMobj m f).cpys = d.cpys := rfl
@[simp] theorem updMobj_stops (m : Nat) (f : MObj → MObj) : (d.updMobj m f).stops = d.stops := rfl
@[simp] theorem updMobj_rcache (m : Nat) (f : MObj → MObj) : (d.updMobj m f).rcache = d.rcache := rfl
@[simp] theorem updMobj_arrays (m : Nat) (f : MObj → MObj) : (d.updMobj m f).arrays = d.arrays := rfl
@[simp] theorem updMobj_slices (m : Nat) (f : MObj → MObj) : (d.updMobj m f).slices = d.slices := rfl
@[simp] theorem updMobj_saved (m : Nat) (f : MObj → MObj) : (d.updMobj m f).saved = d.saved := rfl
@[simp] theorem updMobj_energy (m : Nat) (f : MObj → MObj) : (d.updMobj m f).energy = d.energy := rfl
@[simp] theorem updMobj_mem (m : Nat) (f : MObj → MObj) : (d.updMobj m f).mem = d.mem := rfl
@[simp] theorem updMobj_fab (m : Nat) (f : MObj → MObj) : (d.updMobj m f).fab = d.fab := rfl
@[simp] theorem updMobj_cole (m : Nat) (f : MObj → MObj) : (d.updMobj m f).cole = d.cole := rfl
@[simp] theorem updMobj_rse (m : Nat) (f : MObj → MObj) : (d.updMobj m f).rse = d.rse := rfl
@[simp] theorem updMobj_ptc (m : Nat) (f : MObj → MObj) : (d.updMobj m f).ptc = d.ptc := rfl
@[simp] theorem updMobj_rstc (m : Nat) (f : MObj → MObj) : (d.updMobj m f).rstc = d.rstc := rfl
@[simp] theorem updMobj_otpc (m : Nat) (f : MObj → MObj) : (d.updMobj m f).otpc = d.otpc := rfl
@[simp] theorem updMobj_boot (m : Nat) (f : MObj → MObj) : (d.updMobj m f).boot = d.boot := rfl
@[simp] theorem updMobj_secm (m : Nat) (f : MObj → MObj) : (d.updMobj m f).secm = d.secm := rfl
@[simp] theorem updMobj_mgmt (m : Nat) (f : MObj → MObj) : (d.updMobj m f).mgmt = d.mgmt := rfl
@[simp] theorem updMobj_sb (m : Nat) (f : MObj → MObj) : (d.updMobj m f).sb = d.sb := rfl
@[simp] theorem updMobj_pcie (m : Nat) (f : MObj → MObj) : (d.updMobj m f).pcie = d.pcie := rfl
@[simp] theorem updMobj_dbg (m : Nat) (f : MObj → MObj) : (d.updMobj m f).dbg = d.dbg := rfl
@[simp] theorem updMobj_flash (m : Nat) (f : MObj → MObj) : (d.updMobj m f).flash = d.flash := rfl
@[simp] theorem updMobj_out (m : Nat) (f : MObj → MObj) : (d.updMobj m f).out = d.out := rfl
@[simp] theorem updMobj_obj_held (m : Nat) (f : MObj → MObj) : (d.updMobj m f).obj.held = d.obj.held := rfl
@[simp] theorem updMobj_obj_ignoredCount (m : Nat) (f : MObj → MObj) : (d.updMobj m f).obj.ignoredCount = d.obj.ignoredCount := rfl
@[simp] theorem updMobj_obj_ignCause (m : Nat) (f : MObj → MObj) : (d.updMobj m f).obj.ignCause = d.obj.ignCause := rfl
@[simp] theorem updMobj_obj_ignSource (m : Nat) (f : MObj → MObj) : (d.updMobj m f).obj.ignSource = d.obj.ignSource := rfl
@[simp] theorem updMobj_obj_ignDetail (m : Nat) (f : MObj → MObj) : (d.updMobj m f).obj.ignDetail = d.obj.ignDetail := rfl
@[simp] theorem updMobj_obj_ports (m : Nat) (f : MObj → MObj) : (d.updMobj m f).obj.ports = d.obj.ports := rfl
@[simp] theorem updMobj_obj_ctxs (m : Nat) (f : MObj → MObj) : (d.updMobj m f).obj.ctxs = d.obj.ctxs := rfl
@[simp] theorem updMobj_obj_queues (m : Nat) (f : MObj → MObj) : (d.updMobj m f).obj.queues = d.obj.queues := rfl
@[simp] theorem updMobj_obj_fences (m : Nat) (f : MObj → MObj) : (d.updMobj m f).obj.fences = d.obj.fences := rfl
@[simp] theorem updMobj_obj_fenceGen (m : Nat) (f : MObj → MObj) : (d.updMobj m f).obj.fenceGen = d.obj.fenceGen := rfl
@[simp] theorem updMobj_obj_mobjGen (m : Nat) (f : MObj → MObj) : (d.updMobj m f).obj.mobjGen = d.obj.mobjGen := rfl

/-! updFence -/

@[simp] theorem updFence_clk (m : Nat) (f : Fence → Fence) : (d.updFence m f).clk = d.clk := rfl
@[simp] theorem updFence_hid (m : Nat) (f : Fence → Fence) : (d.updFence m f).hid = d.hid := rfl
@[simp] theorem updFence_evt (m : Nat) (f : Fence → Fence) : (d.updFence m f).evt = d.evt := rfl
@[simp] theorem updFence_parts (m : Nat) (f : Fence → Fence) : (d.updFence m f).parts = d.parts := rfl
@[simp] theorem updFence_tiles (m : Nat) (f : Fence → Fence) : (d.updFence m f).tiles = d.tiles := rfl
@[simp] theorem updFence_clusters (m : Nat) (f : Fence → Fence) : (d.updFence m f).clusters = d.clusters := rfl
@[simp] theorem updFence_plaits (m : Nat) (f : Fence → Fence) : (d.updFence m f).plaits = d.plaits := rfl
@[simp] theorem updFence_groups (m : Nat) (f : Fence → Fence) : (d.updFence m f).groups = d.groups := rfl
@[simp] theorem updFence_cpys (m : Nat) (f : Fence → Fence) : (d.updFence m f).cpys = d.cpys := rfl
@[simp] theorem updFence_stops (m : Nat) (f : Fence → Fence) : (d.updFence m f).stops = d.stops := rfl
@[simp] theorem updFence_rcache (m : Nat) (f : Fence → Fence) : (d.updFence m f).rcache = d.rcache := rfl
@[simp] theorem updFence_arrays (m : Nat) (f : Fence → Fence) : (d.updFence m f).arrays = d.arrays := rfl
@[simp] theorem updFence_slices (m : Nat) (f : Fence → Fence) : (d.updFence m f).slices = d.slices := rfl
@[simp] theorem updFence_saved (m : Nat) (f : Fence → Fence) : (d.updFence m f).saved = d.saved := rfl
@[simp] theorem updFence_energy (m : Nat) (f : Fence → Fence) : (d.updFence m f).energy = d.energy := rfl
@[simp] theorem updFence_mem (m : Nat) (f : Fence → Fence) : (d.updFence m f).mem = d.mem := rfl
@[simp] theorem updFence_fab (m : Nat) (f : Fence → Fence) : (d.updFence m f).fab = d.fab := rfl
@[simp] theorem updFence_cole (m : Nat) (f : Fence → Fence) : (d.updFence m f).cole = d.cole := rfl
@[simp] theorem updFence_rse (m : Nat) (f : Fence → Fence) : (d.updFence m f).rse = d.rse := rfl
@[simp] theorem updFence_ptc (m : Nat) (f : Fence → Fence) : (d.updFence m f).ptc = d.ptc := rfl
@[simp] theorem updFence_rstc (m : Nat) (f : Fence → Fence) : (d.updFence m f).rstc = d.rstc := rfl
@[simp] theorem updFence_otpc (m : Nat) (f : Fence → Fence) : (d.updFence m f).otpc = d.otpc := rfl
@[simp] theorem updFence_boot (m : Nat) (f : Fence → Fence) : (d.updFence m f).boot = d.boot := rfl
@[simp] theorem updFence_secm (m : Nat) (f : Fence → Fence) : (d.updFence m f).secm = d.secm := rfl
@[simp] theorem updFence_mgmt (m : Nat) (f : Fence → Fence) : (d.updFence m f).mgmt = d.mgmt := rfl
@[simp] theorem updFence_sb (m : Nat) (f : Fence → Fence) : (d.updFence m f).sb = d.sb := rfl
@[simp] theorem updFence_pcie (m : Nat) (f : Fence → Fence) : (d.updFence m f).pcie = d.pcie := rfl
@[simp] theorem updFence_dbg (m : Nat) (f : Fence → Fence) : (d.updFence m f).dbg = d.dbg := rfl
@[simp] theorem updFence_flash (m : Nat) (f : Fence → Fence) : (d.updFence m f).flash = d.flash := rfl
@[simp] theorem updFence_out (m : Nat) (f : Fence → Fence) : (d.updFence m f).out = d.out := rfl
@[simp] theorem updFence_obj_held (m : Nat) (f : Fence → Fence) : (d.updFence m f).obj.held = d.obj.held := rfl
@[simp] theorem updFence_obj_ignoredCount (m : Nat) (f : Fence → Fence) : (d.updFence m f).obj.ignoredCount = d.obj.ignoredCount := rfl
@[simp] theorem updFence_obj_ignCause (m : Nat) (f : Fence → Fence) : (d.updFence m f).obj.ignCause = d.obj.ignCause := rfl
@[simp] theorem updFence_obj_ignSource (m : Nat) (f : Fence → Fence) : (d.updFence m f).obj.ignSource = d.obj.ignSource := rfl
@[simp] theorem updFence_obj_ignDetail (m : Nat) (f : Fence → Fence) : (d.updFence m f).obj.ignDetail = d.obj.ignDetail := rfl
@[simp] theorem updFence_obj_ports (m : Nat) (f : Fence → Fence) : (d.updFence m f).obj.ports = d.obj.ports := rfl
@[simp] theorem updFence_obj_ctxs (m : Nat) (f : Fence → Fence) : (d.updFence m f).obj.ctxs = d.obj.ctxs := rfl
@[simp] theorem updFence_obj_queues (m : Nat) (f : Fence → Fence) : (d.updFence m f).obj.queues = d.obj.queues := rfl
@[simp] theorem updFence_obj_fenceGen (m : Nat) (f : Fence → Fence) : (d.updFence m f).obj.fenceGen = d.obj.fenceGen := rfl
@[simp] theorem updFence_obj_mobjs (m : Nat) (f : Fence → Fence) : (d.updFence m f).obj.mobjs = d.obj.mobjs := rfl
@[simp] theorem updFence_obj_mobjGen (m : Nat) (f : Fence → Fence) : (d.updFence m f).obj.mobjGen = d.obj.mobjGen := rfl

/-! setOport -/

@[simp] theorem setOport_clk (c : Nat) (v : OPort) : (d.setOport c v).clk = d.clk := rfl
@[simp] theorem setOport_hid (c : Nat) (v : OPort) : (d.setOport c v).hid = d.hid := rfl
@[simp] theorem setOport_evt (c : Nat) (v : OPort) : (d.setOport c v).evt = d.evt := rfl
@[simp] theorem setOport_parts (c : Nat) (v : OPort) : (d.setOport c v).parts = d.parts := rfl
@[simp] theorem setOport_tiles (c : Nat) (v : OPort) : (d.setOport c v).tiles = d.tiles := rfl
@[simp] theorem setOport_clusters (c : Nat) (v : OPort) : (d.setOport c v).clusters = d.clusters := rfl
@[simp] theorem setOport_plaits (c : Nat) (v : OPort) : (d.setOport c v).plaits = d.plaits := rfl
@[simp] theorem setOport_groups (c : Nat) (v : OPort) : (d.setOport c v).groups = d.groups := rfl
@[simp] theorem setOport_cpys (c : Nat) (v : OPort) : (d.setOport c v).cpys = d.cpys := rfl
@[simp] theorem setOport_stops (c : Nat) (v : OPort) : (d.setOport c v).stops = d.stops := rfl
@[simp] theorem setOport_rcache (c : Nat) (v : OPort) : (d.setOport c v).rcache = d.rcache := rfl
@[simp] theorem setOport_arrays (c : Nat) (v : OPort) : (d.setOport c v).arrays = d.arrays := rfl
@[simp] theorem setOport_slices (c : Nat) (v : OPort) : (d.setOport c v).slices = d.slices := rfl
@[simp] theorem setOport_saved (c : Nat) (v : OPort) : (d.setOport c v).saved = d.saved := rfl
@[simp] theorem setOport_energy (c : Nat) (v : OPort) : (d.setOport c v).energy = d.energy := rfl
@[simp] theorem setOport_mem (c : Nat) (v : OPort) : (d.setOport c v).mem = d.mem := rfl
@[simp] theorem setOport_fab (c : Nat) (v : OPort) : (d.setOport c v).fab = d.fab := rfl
@[simp] theorem setOport_cole (c : Nat) (v : OPort) : (d.setOport c v).cole = d.cole := rfl
@[simp] theorem setOport_rse (c : Nat) (v : OPort) : (d.setOport c v).rse = d.rse := rfl
@[simp] theorem setOport_ptc (c : Nat) (v : OPort) : (d.setOport c v).ptc = d.ptc := rfl
@[simp] theorem setOport_rstc (c : Nat) (v : OPort) : (d.setOport c v).rstc = d.rstc := rfl
@[simp] theorem setOport_otpc (c : Nat) (v : OPort) : (d.setOport c v).otpc = d.otpc := rfl
@[simp] theorem setOport_boot (c : Nat) (v : OPort) : (d.setOport c v).boot = d.boot := rfl
@[simp] theorem setOport_secm (c : Nat) (v : OPort) : (d.setOport c v).secm = d.secm := rfl
@[simp] theorem setOport_mgmt (c : Nat) (v : OPort) : (d.setOport c v).mgmt = d.mgmt := rfl
@[simp] theorem setOport_sb (c : Nat) (v : OPort) : (d.setOport c v).sb = d.sb := rfl
@[simp] theorem setOport_pcie (c : Nat) (v : OPort) : (d.setOport c v).pcie = d.pcie := rfl
@[simp] theorem setOport_dbg (c : Nat) (v : OPort) : (d.setOport c v).dbg = d.dbg := rfl
@[simp] theorem setOport_flash (c : Nat) (v : OPort) : (d.setOport c v).flash = d.flash := rfl
@[simp] theorem setOport_out (c : Nat) (v : OPort) : (d.setOport c v).out = d.out := rfl
@[simp] theorem setOport_obj_held (c : Nat) (v : OPort) : (d.setOport c v).obj.held = d.obj.held := rfl
@[simp] theorem setOport_obj_ignoredCount (c : Nat) (v : OPort) : (d.setOport c v).obj.ignoredCount = d.obj.ignoredCount := rfl
@[simp] theorem setOport_obj_ignCause (c : Nat) (v : OPort) : (d.setOport c v).obj.ignCause = d.obj.ignCause := rfl
@[simp] theorem setOport_obj_ignSource (c : Nat) (v : OPort) : (d.setOport c v).obj.ignSource = d.obj.ignSource := rfl
@[simp] theorem setOport_obj_ignDetail (c : Nat) (v : OPort) : (d.setOport c v).obj.ignDetail = d.obj.ignDetail := rfl
@[simp] theorem setOport_obj_ctxs (c : Nat) (v : OPort) : (d.setOport c v).obj.ctxs = d.obj.ctxs := rfl
@[simp] theorem setOport_obj_queues (c : Nat) (v : OPort) : (d.setOport c v).obj.queues = d.obj.queues := rfl
@[simp] theorem setOport_obj_fences (c : Nat) (v : OPort) : (d.setOport c v).obj.fences = d.obj.fences := rfl
@[simp] theorem setOport_obj_fenceGen (c : Nat) (v : OPort) : (d.setOport c v).obj.fenceGen = d.obj.fenceGen := rfl
@[simp] theorem setOport_obj_mobjs (c : Nat) (v : OPort) : (d.setOport c v).obj.mobjs = d.obj.mobjs := rfl
@[simp] theorem setOport_obj_mobjGen (c : Nat) (v : OPort) : (d.setOport c v).obj.mobjGen = d.obj.mobjGen := rfl

/-! ignore -/

@[simp] theorem ignore_clk (a b c : Nat) : (Dev.ignore a b c d).clk = d.clk := rfl
@[simp] theorem ignore_hid (a b c : Nat) : (Dev.ignore a b c d).hid = d.hid := rfl
@[simp] theorem ignore_evt (a b c : Nat) : (Dev.ignore a b c d).evt = d.evt := rfl
@[simp] theorem ignore_parts (a b c : Nat) : (Dev.ignore a b c d).parts = d.parts := rfl
@[simp] theorem ignore_tiles (a b c : Nat) : (Dev.ignore a b c d).tiles = d.tiles := rfl
@[simp] theorem ignore_clusters (a b c : Nat) : (Dev.ignore a b c d).clusters = d.clusters := rfl
@[simp] theorem ignore_plaits (a b c : Nat) : (Dev.ignore a b c d).plaits = d.plaits := rfl
@[simp] theorem ignore_groups (a b c : Nat) : (Dev.ignore a b c d).groups = d.groups := rfl
@[simp] theorem ignore_cpys (a b c : Nat) : (Dev.ignore a b c d).cpys = d.cpys := rfl
@[simp] theorem ignore_stops (a b c : Nat) : (Dev.ignore a b c d).stops = d.stops := rfl
@[simp] theorem ignore_rcache (a b c : Nat) : (Dev.ignore a b c d).rcache = d.rcache := rfl
@[simp] theorem ignore_arrays (a b c : Nat) : (Dev.ignore a b c d).arrays = d.arrays := rfl
@[simp] theorem ignore_slices (a b c : Nat) : (Dev.ignore a b c d).slices = d.slices := rfl
@[simp] theorem ignore_saved (a b c : Nat) : (Dev.ignore a b c d).saved = d.saved := rfl
@[simp] theorem ignore_energy (a b c : Nat) : (Dev.ignore a b c d).energy = d.energy := rfl
@[simp] theorem ignore_mem (a b c : Nat) : (Dev.ignore a b c d).mem = d.mem := rfl
@[simp] theorem ignore_fab (a b c : Nat) : (Dev.ignore a b c d).fab = d.fab := rfl
@[simp] theorem ignore_cole (a b c : Nat) : (Dev.ignore a b c d).cole = d.cole := rfl
@[simp] theorem ignore_rse (a b c : Nat) : (Dev.ignore a b c d).rse = d.rse := rfl
@[simp] theorem ignore_ptc (a b c : Nat) : (Dev.ignore a b c d).ptc = d.ptc := rfl
@[simp] theorem ignore_rstc (a b c : Nat) : (Dev.ignore a b c d).rstc = d.rstc := rfl
@[simp] theorem ignore_otpc (a b c : Nat) : (Dev.ignore a b c d).otpc = d.otpc := rfl
@[simp] theorem ignore_boot (a b c : Nat) : (Dev.ignore a b c d).boot = d.boot := rfl
@[simp] theorem ignore_secm (a b c : Nat) : (Dev.ignore a b c d).secm = d.secm := rfl
@[simp] theorem ignore_mgmt (a b c : Nat) : (Dev.ignore a b c d).mgmt = d.mgmt := rfl
@[simp] theorem ignore_sb (a b c : Nat) : (Dev.ignore a b c d).sb = d.sb := rfl
@[simp] theorem ignore_pcie (a b c : Nat) : (Dev.ignore a b c d).pcie = d.pcie := rfl
@[simp] theorem ignore_dbg (a b c : Nat) : (Dev.ignore a b c d).dbg = d.dbg := rfl
@[simp] theorem ignore_flash (a b c : Nat) : (Dev.ignore a b c d).flash = d.flash := rfl
@[simp] theorem ignore_out (a b c : Nat) : (Dev.ignore a b c d).out = d.out := rfl
@[simp] theorem ignore_obj_held (a b c : Nat) : (Dev.ignore a b c d).obj.held = d.obj.held := rfl
@[simp] theorem ignore_obj_ports (a b c : Nat) : (Dev.ignore a b c d).obj.ports = d.obj.ports := rfl
@[simp] theorem ignore_obj_ctxs (a b c : Nat) : (Dev.ignore a b c d).obj.ctxs = d.obj.ctxs := rfl
@[simp] theorem ignore_obj_queues (a b c : Nat) : (Dev.ignore a b c d).obj.queues = d.obj.queues := rfl
@[simp] theorem ignore_obj_fences (a b c : Nat) : (Dev.ignore a b c d).obj.fences = d.obj.fences := rfl
@[simp] theorem ignore_obj_fenceGen (a b c : Nat) : (Dev.ignore a b c d).obj.fenceGen = d.obj.fenceGen := rfl
@[simp] theorem ignore_obj_mobjs (a b c : Nat) : (Dev.ignore a b c d).obj.mobjs = d.obj.mobjs := rfl
@[simp] theorem ignore_obj_mobjGen (a b c : Nat) : (Dev.ignore a b c d).obj.mobjGen = d.obj.mobjGen := rfl

/-! What the update reads back as. -/

@[simp] theorem updTile_tiles (t : Nat) (f : Tile → Tile) : (d.updTile t f).tiles = d.tiles.set t (f (d.tile t)) := rfl
@[simp] theorem updCluster_clusters (k : Nat) (f : Cluster → Cluster) : (d.updCluster k f).clusters = d.clusters.set k (f (d.cluster k)) := rfl
@[simp] theorem updArray_arrays (k : Nat) (f : MArray → MArray) : (d.updArray k f).arrays = d.arrays.set k (f (d.array k)) := rfl
@[simp] theorem updSlice_slices (k : Nat) (f : Slice → Slice) : (d.updSlice k f).slices = d.slices.set k (f (d.slice k)) := rfl
@[simp] theorem updPart_parts (p : Nat) (f : Part → Part) : (d.updPart p f).parts = d.parts.upd p f := rfl
@[simp] theorem updPlait_plaits (k : Nat) (f : Plait → Plait) : (d.updPlait k f).plaits = d.plaits.upd k f := rfl
@[simp] theorem setPlait_plaits (k : Nat) (p : Plait) : (d.setPlait k p).plaits = d.plaits.set k p := rfl
@[simp] theorem updCtx_obj_ctxs (c : Nat) (f : Ctx → Ctx) : (d.updCtx c f).obj.ctxs = d.obj.ctxs.upd c f := rfl
@[simp] theorem updQueue_obj_queues (q : Nat) (f : Queue → Queue) : (d.updQueue q f).obj.queues = d.obj.queues.upd q f := rfl
@[simp] theorem updMobj_obj_mobjs (m : Nat) (f : MObj → MObj) : (d.updMobj m f).obj.mobjs = d.obj.mobjs.upd m f := rfl
@[simp] theorem updFence_obj_fences (m : Nat) (f : Fence → Fence) : (d.updFence m f).obj.fences = d.obj.fences.upd m f := rfl
@[simp] theorem setOport_obj_ports (c : Nat) (v : OPort) : (d.setOport c v).obj.ports = d.obj.ports.set c v := rfl
@[simp] theorem ignore_obj_ignoredCount (a b c : Nat) : (Dev.ignore a b c d).obj.ignoredCount = d.obj.ignoredCount + 1 := rfl
@[simp] theorem ignore_obj_ignCause (a b c : Nat) : (Dev.ignore a b c d).obj.ignCause = a := rfl
@[simp] theorem ignore_obj_ignSource (a b c : Nat) : (Dev.ignore a b c d).obj.ignSource = b := rfl
@[simp] theorem ignore_obj_ignDetail (a b c : Nat) : (Dev.ignore a b c d).obj.ignDetail = c % 2 ^ 48 := rfl

/-! event changes the event ring alone. -/

@[simp] theorem event_clk (a b c n : Nat) : (Dev.event a b c n d).clk = d.clk := by unfold Dev.event; repeat (first | rfl | split)
@[simp] theorem event_hid (a b c n : Nat) : (Dev.event a b c n d).hid = d.hid := by unfold Dev.event; repeat (first | rfl | split)
@[simp] theorem event_obj (a b c n : Nat) : (Dev.event a b c n d).obj = d.obj := by unfold Dev.event; repeat (first | rfl | split)
@[simp] theorem event_parts (a b c n : Nat) : (Dev.event a b c n d).parts = d.parts := by unfold Dev.event; repeat (first | rfl | split)
@[simp] theorem event_tiles (a b c n : Nat) : (Dev.event a b c n d).tiles = d.tiles := by unfold Dev.event; repeat (first | rfl | split)
@[simp] theorem event_clusters (a b c n : Nat) : (Dev.event a b c n d).clusters = d.clusters := by unfold Dev.event; repeat (first | rfl | split)
@[simp] theorem event_plaits (a b c n : Nat) : (Dev.event a b c n d).plaits = d.plaits := by unfold Dev.event; repeat (first | rfl | split)
@[simp] theorem event_groups (a b c n : Nat) : (Dev.event a b c n d).groups = d.groups := by unfold Dev.event; repeat (first | rfl | split)
@[simp] theorem event_cpys (a b c n : Nat) : (Dev.event a b c n d).cpys = d.cpys := by unfold Dev.event; repeat (first | rfl | split)
@[simp] theorem event_stops (a b c n : Nat) : (Dev.event a b c n d).stops = d.stops := by unfold Dev.event; repeat (first | rfl | split)
@[simp] theorem event_rcache (a b c n : Nat) : (Dev.event a b c n d).rcache = d.rcache := by unfold Dev.event; repeat (first | rfl | split)
@[simp] theorem event_arrays (a b c n : Nat) : (Dev.event a b c n d).arrays = d.arrays := by unfold Dev.event; repeat (first | rfl | split)
@[simp] theorem event_slices (a b c n : Nat) : (Dev.event a b c n d).slices = d.slices := by unfold Dev.event; repeat (first | rfl | split)
@[simp] theorem event_saved (a b c n : Nat) : (Dev.event a b c n d).saved = d.saved := by unfold Dev.event; repeat (first | rfl | split)
@[simp] theorem event_energy (a b c n : Nat) : (Dev.event a b c n d).energy = d.energy := by unfold Dev.event; repeat (first | rfl | split)
@[simp] theorem event_mem (a b c n : Nat) : (Dev.event a b c n d).mem = d.mem := by unfold Dev.event; repeat (first | rfl | split)
@[simp] theorem event_fab (a b c n : Nat) : (Dev.event a b c n d).fab = d.fab := by unfold Dev.event; repeat (first | rfl | split)
@[simp] theorem event_cole (a b c n : Nat) : (Dev.event a b c n d).cole = d.cole := by unfold Dev.event; repeat (first | rfl | split)
@[simp] theorem event_rse (a b c n : Nat) : (Dev.event a b c n d).rse = d.rse := by unfold Dev.event; repeat (first | rfl | split)
@[simp] theorem event_ptc (a b c n : Nat) : (Dev.event a b c n d).ptc = d.ptc := by unfold Dev.event; repeat (first | rfl | split)
@[simp] theorem event_rstc (a b c n : Nat) : (Dev.event a b c n d).rstc = d.rstc := by unfold Dev.event; repeat (first | rfl | split)
@[simp] theorem event_otpc (a b c n : Nat) : (Dev.event a b c n d).otpc = d.otpc := by unfold Dev.event; repeat (first | rfl | split)
@[simp] theorem event_boot (a b c n : Nat) : (Dev.event a b c n d).boot = d.boot := by unfold Dev.event; repeat (first | rfl | split)
@[simp] theorem event_secm (a b c n : Nat) : (Dev.event a b c n d).secm = d.secm := by unfold Dev.event; repeat (first | rfl | split)
@[simp] theorem event_mgmt (a b c n : Nat) : (Dev.event a b c n d).mgmt = d.mgmt := by unfold Dev.event; repeat (first | rfl | split)
@[simp] theorem event_sb (a b c n : Nat) : (Dev.event a b c n d).sb = d.sb := by unfold Dev.event; repeat (first | rfl | split)
@[simp] theorem event_pcie (a b c n : Nat) : (Dev.event a b c n d).pcie = d.pcie := by unfold Dev.event; repeat (first | rfl | split)
@[simp] theorem event_dbg (a b c n : Nat) : (Dev.event a b c n d).dbg = d.dbg := by unfold Dev.event; repeat (first | rfl | split)
@[simp] theorem event_flash (a b c n : Nat) : (Dev.event a b c n d).flash = d.flash := by unfold Dev.event; repeat (first | rfl | split)
@[simp] theorem event_out (a b c n : Nat) : (Dev.event a b c n d).out = d.out := by unfold Dev.event; repeat (first | rfl | split)

end Sys2Proof.Laws
end

