-- ==== Sys2Proof/Laws/Device.lean ====
section
/-! SUPPORT. What the shared operations of the device do: reads after updates, DRAM writes, commands that act on the device alone. -/

namespace Sys2Proof.Laws

open Sys2Proof Sys2Proof.Machine Sys2Proof.Safety

/-- A meaning that acts on the device alone answers a next state. -/
@[simp] theorem onDev_next (f : Dev → Dev) (s : State) : onDev f s = .next { s with dev := f s.dev } := rfl

theorem tile_updTile (d : Dev) (t k : Nat) (f : Tile → Tile) : (d.updTile t f).tile k = if k = t then f (d.tile t) else d.tile k := by
  by_cases h : k = t
  · subst h; simp [Dev.tile]
  · simp [Dev.tile, h, getD_set_other _ _ _ h]

theorem cluster_updCluster (d : Dev) (c k : Nat) (f : Cluster → Cluster) :
    (d.updCluster c f).cluster k = if k = c then f (d.cluster c) else d.cluster k := by
  by_cases h : k = c
  · subst h; simp [Dev.cluster]
  · simp [Dev.cluster, h, getD_set_other _ _ _ h]

theorem array_updArray (d : Dev) (a k : Nat) (f : MArray → MArray) : (d.updArray a f).array k = if k = a then f (d.array a) else d.array k := by
  by_cases h : k = a
  · subst h; simp [Dev.array]
  · simp [Dev.array, h, getD_set_other _ _ _ h]

theorem slice_updSlice (d : Dev) (u k : Nat) (f : Slice → Slice) : (d.updSlice u f).slice k = if k = u then f (d.slice u) else d.slice k := by
  by_cases h : k = u
  · subst h; simp [Dev.slice]
  · simp [Dev.slice, h, getD_set_other _ _ _ h]

theorem oport_setOport (d : Dev) (c k : Nat) (v : OPort) : (d.setOport c v).oport k = if k = c then v else d.oport k := by
  by_cases h : k = c
  · subst h; simp [Dev.oport]
  · simp [Dev.oport, h, getD_set_other _ _ _ h]

theorem port_updPort (d : Dev) (p k : Nat) (f : HPort → HPort) :
    (d.updPort p f).fab.port k = if k = p then f (d.fab.port p) else d.fab.port k := by
  by_cases h : k = p
  · subst h; simp [Dev.updPort, Fab.updPort, Fab.port]
  · simp [Dev.updPort, Fab.updPort, Fab.port, h, getD_set_other _ _ _ h]

/-! Writes to DRAM. -/

/-- Steering does nothing, or changes one tile. -/
theorem steer_cases (a n : Nat) (d : Dev) : Dev.steer a n d = d ∨ ∃ k f, Dev.steer a n d = d.updTile k f := by
  unfold Dev.steer
  dsimp only
  split
  · exact .inl rfl
  · exact .inr ⟨_, _, rfl⟩

theorem steer_frame (a n : Nat) (d : Dev) : Dev.steer a n d = { d with tiles := (Dev.steer a n d).tiles } := by
  rcases steer_cases a n d with h | ⟨k, f, h⟩ <;> rw [h] <;> rfl

/-- A write to DRAM changes the memory and the counters and steering lists of tiles, nothing else. -/
theorem dramWrite_frame (d : Dev) (a : Nat) (l : List W8) :
    d.dramWrite a l = { d with mem := (d.dramWrite a l).mem, tiles := (d.dramWrite a l).tiles } := by
  unfold Dev.dramWrite
  dsimp only
  rcases steer_cases a l.length (Dev.countBytes false a l.length _) with h | ⟨k, f, h⟩ <;> rw [h] <;> rfl

@[simp] theorem dramWrite_bytes (d : Dev) (a : Nat) (l : List W8) : (d.dramWrite a l).mem.bytes = d.mem.bytes.writeN a l := by
  unfold Dev.dramWrite
  dsimp only
  rw [steer_frame]
  rfl

/-- The bytes just written read back. -/
theorem dramRead_dramWrite {d : Dev} (a : Nat) (l : List W8) (h : d.mem.bytes.wf = true) : (d.dramWrite a l).dramRead a l.length = l := by
  simp [Dev.dramRead, readN_writeN a l h]

/-- Every byte outside the range written reads as before. -/
theorem dramWrite_read_other (d : Dev) (a : Nat) (l : List W8) {x : Nat} (h : ¬(a ≤ x ∧ x < a + l.length)) :
    (d.dramWrite a l).mem.bytes.read x = d.mem.bytes.read x := by
  simp [read_writeN_other d.mem.bytes a l h]

theorem dramWrite_wf {d : Dev} (a : Nat) (l : List W8) (h : d.mem.bytes.wf = true) : (d.dramWrite a l).mem.bytes.wf = true := by
  simpa using writeN_wf a l h

theorem zeroSub_wf {d : Dev} (loc : Nat) (h : d.mem.bytes.wf = true) : (d.zeroSub loc).mem.bytes.wf = true := clear_wf _ _ h

theorem copySub_wf {d : Dev} (a b : Nat) (h : d.mem.bytes.wf = true) : (d.copySub a b).mem.bytes.wf = true := paste_wf _ _ _ h

/-! Commands of the security processor. -/

/-- A command word with other bits set is ignored; before the firmware runs nothing happens; else the command runs. -/
theorem secmRun_eq (v : W64) (f : State → State) (s : State) :
    secmRun v f s = .next (if bits v 8 56 != 0 then { s with dev := s.dev.ignReg 0x09 0x00300020 } else if s.dev.boot.stage < 2 then s else f s) := rfl

/-- How a SECM command ends changes its status alone. -/
theorem secmEnd_frame (s : State) (r : Nat) :
    s.secmEnd r = { s with dev := { s.dev with secm := { s.dev.secm with done := true, refused := r != 0, reason := r } } } := rfl

/-- Only the rows that write the OTP change it: an authorised read of a block does not. -/
@[simp] theorem authorised_otp (s : State) (op addr : Nat) (ok : Nat → Bool) : (s.authorised op addr ok).1.otp = s.otp := by
  unfold State.authorised
  split
  · rfl
  · simp only
    split <;> rfl

/-- A block at address zero is missing, and uses no nonce up. -/
theorem authorised_zero (s : State) (op : Nat) (ok : Nat → Bool) : s.authorised op 0 ok = (s, 5) := rfl

/-! Object commands. -/

/-- A command on a port that does not exist changes nothing. -/
theorem objCmd_absent (op : Nat) (body : OPort → Dev → ObjRes) {port : Nat} (hi : BitVec 56) (d : Dev) (h : 16 ≤ port) : objCmd op body port hi d = d := by
  simp [objCmd, h]

/-- A command on a ready port, in each of its outcomes. -/
theorem objCmd_ready (op : Nat) (body : OPort → Dev → ObjRes) {port : Nat} (d : Dev) (h : port < 16) (hb : d.portBusy port = false) :
    objCmd op body port 0 d = (let v := d.oport port
      match body v d with
      | .ign c => (d.ignore c port (v.detail op)).setOport port { v with ignored := true, status := 0 }
      | .busy d => d.setOport port { v with busy := true, ignored := false, status := 0, r1 := 0, r2 := 0 }
      | .retry d => d.setOport port { v with busy := true, ignored := false, status := 0, r1 := 0, r2 := 0, retry := some op }
      | .ok d st r1 r2 => d.setOport port { d.oport port with busy := false, ignored := false, status := st, r1 := BitVec.ofNat 64 r1, r2 := BitVec.ofNat 64 r2 }) := by
  have h1 : ¬16 ≤ port := by omega
  unfold objCmd
  dsimp only
  rw [if_neg h1, if_neg (by simp [hb]), if_neg (by simp)]
  all_goals (cases body (d.oport port) d <;> rfl)

end Sys2Proof.Laws
end

