-- ==== Sys2Proof/Laws/Issue.lean ====
section
/-! SUPPORT. What the issue of a Shorek instruction does, once for all instructions: the join points, the registers written by
strands, and the outcomes of runIns. -/

namespace Sys2Proof.Laws

open Sys2Proof Sys2Proof.Machine Sys2Proof.Safety

/-! Join points. -/

/-- Following the mask stack changes the program counter, the active mask and the stack, nothing else. -/
theorem rejoin_frame (p : Plait) (n : Nat) : p.rejoin n = { p with pc := (p.rejoin n).pc, active := (p.rejoin n).active, stack := (p.rejoin n).stack } := by
  induction n generalizing p with
  | zero => rfl
  | succ n ih =>
    unfold Plait.rejoin
    split
    · rfl
    · split
      · rfl
      · split
        · rw [ih]
        · rw [ih]

theorem settle_frame (p : Plait) : p.settle = { p with pc := p.settle.pc, active := p.settle.active, stack := p.settle.stack } := rejoin_frame p 2048

@[simp] theorem settle_regs (p : Plait) : p.settle.regs = p.regs := by rw [settle_frame]
@[simp] theorem settle_preds (p : Plait) : p.settle.preds = p.preds := by rw [settle_frame]
@[simp] theorem settle_live (p : Plait) : p.settle.live = p.live := by rw [settle_frame]
@[simp] theorem settle_region (p : Plait) : p.settle.region = p.region := by rw [settle_frame]
@[simp] theorem settle_tokens (p : Plait) : p.settle.tokens = p.tokens := by rw [settle_frame]
@[simp] theorem settle_held (p : Plait) : p.settle.held = p.held := by rw [settle_frame]
@[simp] theorem settle_stall (p : Plait) : p.settle.stall = p.stall := by rw [settle_frame]
@[simp] theorem settle_rd (p : Plait) (r k : Nat) : p.settle.rd r k = p.rd r k := by simp [Plait.rd]
@[simp] theorem settle_pred (p : Plait) (n : Nat) : p.settle.pred n = p.pred n := by simp [Plait.pred]

/-- A plait that stands at no join point and has an active strand stays as it is. -/
theorem settle_stay {p : Plait} (ha : p.active ≠ 0) (h : ∀ top ∈ p.stack.head?, p.pc ≠ top.join) : p.settle = p := by
  unfold Plait.settle Plait.rejoin
  split
  · rfl
  · rename_i top rest e
    have : p.pc ≠ top.join := h top (by simp [e])
    rw [if_pos]
    have ha' : (p.active != 0) = true := bne_iff_ne.2 ha
    simpa [this] using ha

/-! Registers and predicates. -/

/-- A register written reads as the value, every other as before. -/
theorem wr_rd (p : Plait) {r : Nat} (lane : Nat) (v : W32) (x k : Nat) (hl : lane < 32) (hk : k < 32) (hr : r ≠ 255) (hx : x ≠ 255) :
    (p.wr r lane v).rd x k = if x = r ∧ k = lane then v else p.rd x k := by
  unfold Plait.wr Plait.rd
  simp only [hr, hx, if_false]
  split
  · rename_i h
    obtain ⟨rfl, rfl⟩ := h
    simp
  · rename_i h
    rw [getD_set_other]
    omega

theorem wr_discard (p : Plait) (lane : Nat) (v : W32) : p.wr 255 lane v = p := by simp [Plait.wr]

/-- Writing registers changes the registers alone. -/
theorem wr_frame (p : Plait) (r lane : Nat) (v : W32) : p.wr r lane v = { p with regs := (p.wr r lane v).regs } := by
  unfold Plait.wr
  split <;> rfl

theorem wrN_frame (p : Plait) (r lane : Nat) (l : List W32) : p.wrN r lane l = { p with regs := (p.wrN r lane l).regs } := by
  induction l generalizing p r with
  | nil => rfl
  | cons v t ih =>
    unfold Plait.wrN
    split
    · rfl
    · rw [ih, wr_frame]

theorem foldl_wrN_frame (p : Plait) (r : Nat) (f : Nat → List W32) (l : List Nat) :
    l.foldl (fun q k => q.wrN r k (f k)) p = { p with regs := (l.foldl (fun q k => q.wrN r k (f k)) p).regs } := by
  induction l generalizing p with
  | nil => rfl
  | cons k t ih => rw [List.foldl_cons, ih, wrN_frame]

theorem eachW_frame (p : Plait) (m : W32) (r : Nat) (f : Nat → List W32) : p.eachW m r f = { p with regs := (p.eachW m r f).regs } :=
  foldl_wrN_frame p r f (lanes m)

@[simp] theorem mem_lanes (m : W32) (k : Nat) : k ∈ lanes m ↔ k < 32 ∧ m.getLsbD k = true := by simp [lanes]

/-- A group written by one strand: its registers read as the words, every other as before. -/
theorem wrN_rd (p : Plait) (r lane : Nat) (l : List W32) {x k : Nat} (hl : lane < 32) (hk : k < 32) (hx : x < 255) (hr : r + l.length ≤ 255) :
    (p.wrN r lane l).rd x k = if k = lane ∧ r ≤ x ∧ x < r + l.length then l.getD (x - r) 0 else p.rd x k := by
  induction l generalizing p r with
  | nil =>
    rw [if_neg (by simp only [List.length_nil]; omega)]
    rfl
  | cons v t ih =>
    simp only [List.length_cons] at hr ⊢
    have h255 : r ≠ 255 := by omega
    unfold Plait.wrN
    simp only [h255, if_false]
    rw [ih (p.wr r lane v) (r + 1) (by omega), wr_rd p lane v x k hl hk h255 (by omega)]
    by_cases hkl : k = lane
    · by_cases hxr : x = r
      · subst hxr
        have h1 : ¬(x + 1 ≤ x ∧ x < x + 1 + t.length) := by omega
        simp only [hkl, h1, and_false, if_false]
        simp
      · by_cases h1 : r + 1 ≤ x ∧ x < r + 1 + t.length
        · have e : x - r = (x - (r + 1)) + 1 := by omega
          have h2 : r ≤ x ∧ x < r + (t.length + 1) := by omega
          simp [hkl, h1, h2, e]
        · have h2 : ¬(r ≤ x ∧ x < r + (t.length + 1)) := by omega
          simp only [hkl, h1, h2, hxr, false_and, and_false, if_false]
    · simp [hkl]

theorem foldl_wrN_rd (p : Plait) (r : Nat) (f : Nat → List W32) (l : List Nat) {x k : Nat} (hl : ∀ j ∈ l, j < 32) (hk : k < 32) (hx : x < 255)
    (hr : ∀ j, r + (f j).length ≤ 255) :
    (l.foldl (fun q k => q.wrN r k (f k)) p).rd x k = if k ∈ l ∧ r ≤ x ∧ x < r + (f k).length then (f k).getD (x - r) 0 else p.rd x k := by
  induction l generalizing p with
  | nil => simp
  | cons j t ih =>
    rw [List.foldl_cons, ih _ (fun i hi => hl i (by simp [hi]))]
    rw [wrN_rd p r j (f j) (hl j (by simp)) hk hx (hr j)]
    by_cases hkj : k = j
    · subst hkj
      by_cases h : r ≤ x ∧ x < r + (f k).length <;> simp [h]
    · by_cases h : k ∈ t <;> simp [hkj, h]

/-- Registers written by the strands of a mask: each strand's group reads as its words, every other register as before. -/
theorem eachW_rd (p : Plait) (m : W32) (r : Nat) (f : Nat → List W32) {x k : Nat} (hk : k < 32) (hx : x < 255) (hr : ∀ j, r + (f j).length ≤ 255) :
    (p.eachW m r f).rd x k = if m.getLsbD k = true ∧ r ≤ x ∧ x < r + (f k).length then (f k).getD (x - r) 0 else p.rd x k := by
  unfold Plait.eachW
  rw [foldl_wrN_rd p r f (lanes m) (fun j hj => ((mem_lanes m j).1 hj).1) hk hx hr]
  simp [hk]

theorem wrN_discard (p : Plait) (lane : Nat) (l : List W32) : p.wrN 255 lane l = p := by
  cases l <;> simp [Plait.wrN]

/-- Register 255 discards. -/
theorem eachW_discard (p : Plait) (m : W32) (f : Nat → List W32) : p.eachW m 255 f = p := by
  unfold Plait.eachW
  induction lanes m with
  | nil => rfl
  | cons k t ih => rw [List.foldl_cons, wrN_discard, ih]

/-- A predicate set for some strands: their bits are those given, every other bit and predicate is as before. -/
theorem setPred_pred (p : Plait) (n x : Nat) (who m : W32) :
    (p.setPred n who m).pred x = if x = n then (p.pred n &&& ~~~who) ||| (m &&& who) else p.pred x := by
  unfold Plait.setPred Plait.pred
  by_cases h : x = n
  · subst h; simp
  · simp [h, getD_set_other _ _ _ h]

theorem setPred_frame (p : Plait) (n : Nat) (who m : W32) : p.setPred n who m = { p with preds := (p.setPred n who m).preds } := rfl

/-! Registers in error. -/

/-- What an instruction writes leaves error marks alone but in its destination registers. -/
theorem healed_frame (q p : Plait) (op : Nat) (e : Enc) : q.healed p op e = { q with bad := (q.healed p op e).bad } := by
  unfold Plait.healed
  split <;> rfl

theorem healed_bad_sub (q p : Plait) (op : Nat) (e : Enc) : ∀ b ∈ (q.healed p op e).bad, b ∈ q.bad := by
  unfold Plait.healed
  split
  · exact fun b h => h
  · exact fun b h => (List.mem_filter.1 h).1

/-- An instruction without a destination register leaves them all. -/
theorem healed_none (q p : Plait) {op : Nat} {e : Enc} (h : (shape op e).d.regs e.d = []) : q.healed p op e = q := by
  unfold Plait.healed
  split
  · rfl
  · rw [h, List.filter_eq_self.2 (by simp)]

@[simp] theorem healed_regs (q p : Plait) (op : Nat) (e : Enc) : (q.healed p op e).regs = q.regs := by rw [healed_frame]
@[simp] theorem healed_preds (q p : Plait) (op : Nat) (e : Enc) : (q.healed p op e).preds = q.preds := by rw [healed_frame]
@[simp] theorem healed_pc (q p : Plait) (op : Nat) (e : Enc) : (q.healed p op e).pc = q.pc := by rw [healed_frame]
@[simp] theorem healed_active (q p : Plait) (op : Nat) (e : Enc) : (q.healed p op e).active = q.active := by rw [healed_frame]
@[simp] theorem healed_stack (q p : Plait) (op : Nat) (e : Enc) : (q.healed p op e).stack = q.stack := by rw [healed_frame]
@[simp] theorem healed_stall (q p : Plait) (op : Nat) (e : Enc) : (q.healed p op e).stall = q.stall := by rw [healed_frame]
@[simp] theorem healed_tokens (q p : Plait) (op : Nat) (e : Enc) : (q.healed p op e).tokens = q.tokens := by rw [healed_frame]
@[simp] theorem healed_rd (q p : Plait) (op : Nat) (e : Enc) (r k : Nat) : (q.healed p op e).rd r k = q.rd r k := by simp [Plait.rd]
@[simp] theorem healed_pred (q p : Plait) (op : Nat) (e : Enc) (n : Nat) : (q.healed p op e).pred n = q.pred n := by simp [Plait.pred]

/-- With no word in error among what was read, a result stands as it is. -/
@[simp] theorem checked_zero (x : InsRes) : x.checked 0 = x := rfl

/-! Energy counts. -/

/-- Counting energy events changes the counts alone. -/
theorem spend_frame (t c k n : Nat) (d : Dev) : Dev.spend t c k n d = { d with energy := (Dev.spend t c k n d).energy } := by
  unfold Dev.spend
  split <;> rfl

@[simp] theorem spend_tiles (t c k n : Nat) (d : Dev) : (Dev.spend t c k n d).tiles = d.tiles := by rw [spend_frame]
@[simp] theorem spend_plaits (t c k n : Nat) (d : Dev) : (Dev.spend t c k n d).plaits = d.plaits := by rw [spend_frame]

/-- Events of one class leave the counts of every other. -/
theorem spend_energy {t c k n x : Nat} (d : Dev) (h : x % 16 ≠ k % 16) : (Dev.spend t c k n d).energy.get? x = d.energy.get? x := by
  unfold Dev.spend
  split
  · rfl
  · refine get?_set_other _ _ ?_
    intro e
    apply h
    rw [e, energyKey]
    omega

/-! The outcomes of an instruction that issues. -/

/-- Outside the cycle of a fault an issue changes no stop. -/
theorem spent_none {d : Dev} {pk : Nat} {p : Plait} (h : d.stopOf pk p = none) : d.spent pk p = d := by
  unfold Dev.spent
  rw [h]

/-- The counts of an issue, before any cycle of a fault is looked at. -/
def counted (d : Dev) (pk : Nat) (p : Plait) (op : Nat) (e : Enc) : Dev :=
  let n := sliceCycles op e
  let d := if n = 0 then d else Dev.spend (pkTile pk) p.ctx 6 n
    (d.updTile (pkTile pk) (fun t => { t with ve := { t.ve with plait := wrapAdd 64 t.ve.plait n } }))
  Dev.rcUpdate (Dev.spend (pkTile pk) p.ctx 7 (if 0x18 ≤ op && op < 0x1E then 1 else 0) d) pk op e

theorem issued_counted (d : Dev) (pk : Nat) (p : Plait) (op : Nat) (e : Enc) : d.issued pk p op e = (counted d pk p op e).spent pk p := rfl

/-- Counting an issue changes the register cache, a counter of the tile and the energy counts, nothing else. -/
theorem counted_frame (d : Dev) (pk : Nat) (p : Plait) (op : Nat) (e : Enc) :
    counted d pk p op e = { d with rcache := (counted d pk p op e).rcache, tiles := (counted d pk p op e).tiles, energy := (counted d pk p op e).energy } := by
  unfold counted Dev.rcUpdate
  dsimp only
  rw [spend_frame _ _ 7]
  by_cases h : sliceCycles op e = 0
  · rw [if_pos h]
  · rw [if_neg h, spend_frame _ _ 6]
    rfl

/-- Outside the cycle of a fault, recording the issue is counting it. -/
theorem issued_eq (d : Dev) {pk : Nat} {p : Plait} (op : Nat) (e : Enc) (h : d.stopOf pk p = none) : d.issued pk p op e = counted d pk p op e := by
  rw [issued_counted]
  refine spent_none ?_
  rw [counted_frame]
  exact h

@[simp] theorem counted_plaits (d : Dev) (pk : Nat) (p : Plait) (op : Nat) (e : Enc) : (counted d pk p op e).plaits = d.plaits := by rw [counted_frame]

theorem counted_energy (d : Dev) (pk : Nat) (p : Plait) (op : Nat) (e : Enc) {k : Nat} (h6 : k % 16 ≠ 6) (h7 : k % 16 ≠ 7) :
    (counted d pk p op e).energy.get? k = d.energy.get? k := by
  unfold counted Dev.rcUpdate
  dsimp only
  rw [spend_energy _ (by simpa using h7)]
  split
  · rfl
  · rw [spend_energy _ (by simpa using h6)]
    rfl

theorem counted_tile (d : Dev) (pk : Nat) (p : Plait) (op : Nat) (e : Enc) (n : Nat) :
    (counted d pk p op e).tile n = { d.tile n with ve := { (d.tile n).ve with plait := ((counted d pk p op e).tile n).ve.plait } } := by
  unfold counted Dev.rcUpdate
  simp only [Dev.tile, spend_tiles]
  split
  · rfl
  · simp only [spend_tiles, updTile_tiles]
    by_cases h : n = pkTile pk
    · subst h; simp [Dev.tile]
    · rw [getD_set_other _ _ _ h]

variable {op : Nat} {r : PlaitRef} {e : Enc} {s : State} {p : Plait} (body : Dev → Nat → Plait → InsRes)

/-- What runIns does for a plait that issues: the outcome of its operation, and no other. -/
theorem runIns_issuing (h : Issuing op r e s p) :
    runIns op body r e s.dev = (match body s.dev (pkey r) { p with stall := .none } with
      | .done d q => (d.setPlait (pkey r) (({ q with pc := q.pc + insLen e }).settle.healed p op e)).issued (pkey r) p op e
      | .jump d q => (d.setPlait (pkey r) (q.settle.healed p op e)).issued (pkey r) p op e
      | .fault code mask addr mem =>
        if mask == 0 then (s.dev.setPlait (pkey r) ({ p with stall := .none, pc := p.pc + insLen e }).settle).issued (pkey r) p op e
        else ((if code = cUncorrectable then s.dev.foundBad (pkey r) p op e addr else s.dev).strandFault (pkey r) { p with stall := .none }
          (insWord op e) (if e.x then e.ext else 0) code mask addr mem).spent (pkey r) p
      | .wait d => d) := by
  obtain ⟨h1, h2, h3, h4, h5, -⟩ := h
  have h5' : ({ p with stall := .none } : Plait).badReads op e = 0 := h5
  unfold runIns
  simp only [h1, h2, h3, h4, h5', Bool.not_true, Bool.false_eq_true, if_false, if_true, checked_zero]
  all_goals (cases body s.dev (pkey r) { p with stall := .none } <;> rfl)

/-- An instruction that only changes its plait. -/
theorem runReg_issuing (f : Nat → Plait → Plait) (h : Issuing op r e s p) :
    runReg op f r e s.dev = counted (s.dev.setPlait (pkey r)
      (({ f (pkey r) { p with stall := .none } with pc := (f (pkey r) { p with stall := .none }).pc + insLen e }).settle.healed p op e)) (pkey r) p op e := by
  unfold runReg
  rw [runIns_issuing _ h]
  exact issued_eq _ _ _ h.2.2.2.2.2

/-- It leaves everything but its plait, the register cache, the slice-cycle counters and the energy counts as before. -/
theorem runReg_plaitOnly (f : Nat → Plait → Plait) (h : Issuing op r e s p) : PlaitOnly r s { s with dev := runReg op f r e s.dev } := by
  rw [runReg_issuing f h]
  refine ⟨?_, ?_, ?_, ?_⟩
  · simp only
    rw [counted_frame]
    rfl
  · intro n
    exact counted_tile _ _ _ _ _ n
  · intro k h6 h7
    exact counted_energy _ _ _ _ _ h6 h7
  · intro k hk
    simp [get?_set_other _ _ hk]

/-- And its plait is then the changed one, gone on to the next instruction. -/
theorem runReg_plaitThen (f : Nat → Plait → Plait) (h : Issuing op r e s p) {P : Plait → Prop}
    (hP : P (({ f (pkey r) { p with stall := .none } with pc := (f (pkey r) { p with stall := .none }).pc + insLen e }).settle.healed p op e)) :
    PlaitThen r { s with dev := runReg op f r e s.dev } P := by
  rw [runReg_issuing f h]
  exact ⟨_, by simp, hP⟩

end Sys2Proof.Laws
end

