-- ==== Sys2Proof/WellFormed.lean ====
section
/-! DEFINITION. Well-formed commands: every operand names something that the module has. A command that is not well formed is
still a command; what it names is nothing, and exec says what then happens. -/

namespace Sys2Proof

/-- Tile 0 to 7, cluster 0 to 39, scheduler 0 to 3, slot 0 to 15 (02 Table 2-7). -/
def PlaitRef.wf (p : PlaitRef) : Bool := decide (p.tile < 8) && decide (p.cluster < 40) && decide (p.sched < 4) && decide (p.slot < 16)

/-- The extension word stands only where X says so (03 R93). -/
def Enc.wf (e : Enc) : Bool := e.x || e.ext == 0

def ArrayRef.wf (a : ArrayRef) : Bool := decide (a.tile < 8) && decide (a.cluster < 40) && decide (a.arr < 4)
def SliceRef.wf (u : SliceRef) : Bool := decide (u.tile < 8) && decide (u.cluster < 40) && decide (u.slice < 4)

/-- A packet of a type, at a hoop port, or 15 for one that the module sends to itself (11 Table 11-4; log 26). -/
def pktWf (ty port : Nat) (k : Pkt) : Bool := k.ty = ty && (decide (port < 6) || port = 15)

/-- A command entry: queue and index (09 R314). -/
def entryWf (q i : Nat) : Bool := decide (q < 1024) && decide (i < 65536)
def clusterWf (tile c : Nat) : Bool := decide (tile < 8) && decide (c < 40)
def scWf (tile sc : Nat) : Bool := decide (tile < 8) && decide (sc < 2)

/-- Quarters of 64 bytes of a stack of 48 GiB (08 R271). -/
def stackQuarters : Nat := 805306368

/-- The operands of a command name what the module has. -/
def Instr.wf : Instr → Bool
  | .iadd p e | .isub p e | .imul p e | .imulh p e | .imad p e | .iand p e | .ior p e | .ixor p e | .shl p e | .shr p e | .sar p e | .imin p e
  | .imax p e | .icmp p e | .sel p e | .bitop p e | .fadd p e | .fsub p e | .fmul p e | .ffma p e | .fmin p e | .fmax p e | .fcmp p e | .fabsneg p e
  | .frcp p e | .fsqrt p e | .fexp2 p e | .flog2 p e | .fsin p e | .fcos p e | .cvt p e | .cvti p e | .rng p e | .plut p e | .p2r p e | .ld p e
  | .st p e | .atom p e | .shfl p e | .vote p e | .redux p e | .mxi p e | .mxg p e | .mxw p e | .mxr p e | .eci p e | .cpy p e | .bar p e
  | .mbar p e | .wait p e | .rgnEnter p e | .rgnExit p e | .bra p e | .brx p e | .call p e | .exit p e | .szt p e | .id p e | .rnd p e | .nop p e
  | .alloc p e | .free p e | .regToPred p e => p.wf && e.wf
  | .allocatorAnswer p | .plaitRetire p => p.wf
  | .clusterStopIssue c | .ctxTeardownComplete c => decide (c < 64)
  | .workGroupStart q i t c => entryWf q i && clusterWf t c
  | .plaitStateSave t c | .plaitStateRestore t c | .droopRelax t c => clusterWf t c
  | .cpyComplete p k => p.wf && decide (k < 16)
  | .matmul a | .loadw a | .drain a | .mxaWeightLoadStart a | .mxaWeightLoadEnd a | .mxaStreamStart a | .mxaStreamEnd a | .mxaLastResult a
  | .mxaDrainPassStart a | .mxaDrainPassEnd a | .mxaFragmentReadStart a | .mxaOpComplete a | .mxaPackingStop a | .shadowCompare a
  | .mxaInitLoadEnd a => a.wf
  | .chainStart u | .chainChannelsLoaded u | .chainStepsEnd u | .chainOutputPassEnd u | .chainComplete u | .fusedDrainPassStart u
  | .fusedDrainPassEnd u | .chMov u | .chAdd u | .chSub u | .chMul u | .chFma u | .chMin u | .chMax u | .chAbsneg u | .chRcp u | .chSqrt u
  | .chRsq u | .chExp2 u | .chLog2 u | .chSin u | .chCos u | .chTanh u | .chCmp u | .chSel u | .chCvt u | .chRint u | .chRng u | .chDrop u
  | .chPerm u => u.wf
  | .ctxCreate c _ | .ctxDestroy c _ | .qCreate c _ | .qDestroy c _ | .qReserve c _ | .qCommit c _ | .qResume c _ | .moCreate c _ | .moRetain c _
  | .moRelease c _ | .moMap c _ | .moUnmap c _ | .moQuery c _ | .fCreate c _ | .fDestroy c _ | .fExport c _ | .fSignal c _ | .fQuery c _
  | .abort c _ => decide (c < 16)
  | .ack c _ => decide (c < 64)
  | .launch q i | .update q i | .copy q i | .coll q i | .sync q i | .cmdLeaveQueued q i | .cmdWaitSatisfied q i | .cmdDispatch q i
  | .updateComplete q i | .copyComplete q i => entryWf q i
  | .roundTick p | .roundMonitorCheck p | .stretchApply p | .partitionDissolve p | .migrationStart p | .migrationComplete p | .pageOutStart p
  | .snapDrainStart p | .rebuildReplay p => decide (p < 8)
  | .overlayRequest _ | .fabricCtrlWrite _ | .rejoin _ | .riskEstimate _ | .capWWrite _ | .psTargetPs0 _ | .psTargetPs1 _ | .psTargetPs2 _
  | .psTargetPs3 _ | .sysRstNLow _ | .rstcCtrlSysrst _ | .rstcCtrlCorerst _ | .kick _ | .blockHoldWrite _ | .loadComponent _ | .commitSvn _
  | .otpWrite _ | .keyInstall _ | .keyRevoke _ | .flashImage _ | .handover _ | .mgmtFrameRx _ | .mctpPacket _ | .pollForPlatformEventMessage _
  | .debugResetRequest _ | .mgmtLinkChange _ => true
  | .partitionForm | .linkStateTimer | .routeRecompute | .probeTimer | .fabricTimeLock | .psEntryComplete | .powerUp | .inPgDeassert
  | .secWatchdogExpire | .narbyWatchdogExpire | .fuseMapApply | .optionBytesRead | .bootRomStart | .recoveryRetry | .hoopPhyPower | .hoopIdleRelease
  | .pciePerstRelease | .handoverTimeout | .secmNonceRead | .pcieLinkDown | .sysRstNRelease | .psExitComplete | .narbyOsRunning | .unlockCapture => true
  | .memReqRetry m => decide (m < 2 ^ 32)
  | .scrubPass t k l => scWf t k && l.all (fun x => decide (x.quarter < stackQuarters))
  | .rowRepairComplete t k _ | .dramBandEval t k _ => scWf t k
  | .retrainWindowEnd t k | .steeringWritebackDone t k => scWf t k
  | .farArm p j _ | .farDrain p j _ | .lendArm p j _ | .lendRelease p j _ => decide (p < 8) && decide (j < 16)
  | .mempProbe p _ | .walingArm p _ | .walingRelease p _ | .subst p _ | .rebuildGo p _ | .joined p _ => decide (p < 8)
  | .registerWrite _ w _ => w = 32 || w = 64
  | .frameRx p _ _ => decide (p < 6)
  | .hello p k => pktWf 0x01 p k
  | .linkState p k => pktWf 0x02 p k
  | .stretch p k => pktWf 0x03 p k
  | .probe p k => pktWf 0x04 p k
  | .probeAck p k => pktWf 0x05 p k
  | .laneChange p k => pktWf 0x06 p k
  | .mgmt p k => pktWf 0x07 p k
  | .readReq p k => pktWf 0x10 p k
  | .readResp p k => pktWf 0x11 p k
  | .writeReq p k => pktWf 0x12 p k
  | .writeAck p k => pktWf 0x13 p k
  | .lendReq p k => pktWf 0x14 p k
  | .lendAck p k => pktWf 0x15 p k
  | .join p k => pktWf 0x20 p k
  | .chunk p k => pktWf 0x21 p k
  | .chunkAck p k => pktWf 0x22 p k
  | .done p k => pktWf 0x23 p k
  | .withdraw p k => pktWf 0x24 p k
  | .whello p k => pktWf 0x30 p k
  | .snapReq p k => pktWf 0x31 p k
  | .snapAt p k => pktWf 0x32 p k
  | .snapLate p k => pktWf 0x33 p k
  | .ship p k => pktWf 0x34 p k
  | .shipAck p k => pktWf 0x35 p k
  | .snapDone p k | .snapCommit p k | .snapAbort p k => pktWf 0x36 p k
  | .logData p k => pktWf 0x38 p k
  | .logAck p k => pktWf 0x39 p k
  | .logFetch p k => pktWf 0x3A p k
  | .rebuildPart p k => pktWf 0x3B p k
  | .journal p k => pktWf 0x3C p k
  | .helloTimer p | .portTrainTimeout p | .controlWordTimeout p | .portDownRetry p => decide (p < 6)
  | .probeTimeout m => decide (m < 4096)
  | .collChunkTimeout g | .collJoinTimeout g => decide (g < 64)
  | .laneLockLoss p k | .laneRetrainDone p k => decide (p < 6) && decide (k < 9)
  | .laneThreshCheck p l => decide (p < 6) && decide (l.length = 9)
  | .retrain p _ | .portEnable p _ | .portTrained p _ => decide (p < 6)
  | .groupArm g _ | .groupRelease g _ => decide (g < 64)
  | .swap t _ => decide (t < 8)
  | .ptcInterval m => decide (m.logicC.length ≤ 8) && decide (m.logicW.length ≤ 8) && decide (m.stackW.length ≤ 8)
  | .droopDetect t c _ => clusterWf t c
  | .criticalShutdown k _ => decide (k < 9)
  | .inputUndervoltage _ _ | .inputOvervoltage _ _ => true
  | .ibcFail k => decide (k < 4)
  | .ps3Wake k => decide (k < 128)
  | .pllLockLost k => decide (k < 25)
  | .blockRelease k => decide (k < 10) || (decide (16 ≤ k) && decide (k < 41))
  | .dramTrainingDone l => l.all (fun k => decide (k < 16))
  | .selfTestDone f => f.clusters.all (fun x => clusterWf x.1 x.2) && f.tiles.all (fun k => decide (k < 8))
  | .statusProbe q => decide (q.dstPort < 65536)
  | .getVersion p _ | .getCapabilities p _ | .negotiateAlgorithms p _ | .getDigests p _ | .getCertificate p _ | .challenge p _
  | .getMeasurements p _ => decide (p < 2)
  | .pcieInboundRequest r => decide (r.addr.toNat + (if r.write then r.data.length else r.len) ≤ 2 ^ 64)
  | .debugUnlock l => decide (l.length = 512)
  | .undefinedEncoding p _ e => p.wf && e.wf
  | .controlSoftwareAccess r => decide (r.core ≤ 16) && decide (r.ctx < 64)
  | .pcieLinkUp w k => [1, 2, 4, 8].contains w && decide (1 ≤ k) && decide (k ≤ 5)
  | .debugCoreHalt k _ => decide (k < 16)

end Sys2Proof
end

