-- ==== Sys2Proof/Laws/PerInstr.lean ====
section
/-! SUPPORT. For every command: where it is well formed and names a plait, the key of that plait lies in the table's range and gives back
the tile and the cluster it names. -/

namespace Sys2Proof.Laws.Operands

open Sys2Proof Sys2Proof.Machine

/-- The plait that a command names. -/
def plaitOf : Instr → Option PlaitRef
  | .iadd p _ | .isub p _ | .imul p _ | .imulh p _ | .imad p _ | .iand p _ | .ior p _ | .ixor p _ | .shl p _ | .shr p _ | .sar p _ | .imin p _
  | .imax p _ | .icmp p _ | .sel p _ | .bitop p _ | .fadd p _ | .fsub p _ | .fmul p _ | .ffma p _ | .fmin p _ | .fmax p _ | .fcmp p _ | .fabsneg p _
  | .frcp p _ | .fsqrt p _ | .fexp2 p _ | .flog2 p _ | .fsin p _ | .fcos p _ | .cvt p _ | .cvti p _ | .rng p _ | .plut p _ | .p2r p _ | .ld p _
  | .st p _ | .atom p _ | .shfl p _ | .vote p _ | .redux p _ | .mxi p _ | .mxg p _ | .mxw p _ | .mxr p _ | .eci p _ | .cpy p _ | .bar p _
  | .mbar p _ | .wait p _ | .rgnEnter p _ | .rgnExit p _ | .bra p _ | .brx p _ | .call p _ | .exit p _ | .szt p _ | .id p _ | .rnd p _ | .nop p _
  | .alloc p _ | .allocatorAnswer p | .free p _ | .plaitRetire p | .cpyComplete p _ | .regToPred p _ | .undefinedEncoding p _ _ => some p
  | _ => none

/-- The key of a plait lies in range and names its tile and cluster. -/
def Keyed (r : PlaitRef) : Prop := pkey r < 20480 ∧ pkTile (pkey r) = r.tile ∧ pkCluster (pkey r) = 40 * r.tile + r.cluster

def Statement (i : Instr) : Prop :=
  i.wf = true → match plaitOf i with
    | some r => Keyed r
    | none => True

theorem of_wf {r : PlaitRef} (h : r.wf = true) : Keyed r := by
  simp only [PlaitRef.wf, Bool.and_eq_true, decide_eq_true_eq] at h
  unfold Keyed pkTile pkCluster pkey ckey
  omega

theorem iadd (p : PlaitRef) (e : Enc) : Statement (.iadd p e) := fun h => of_wf (Bool.and_eq_true_iff.1 h).1
theorem isub (p : PlaitRef) (e : Enc) : Statement (.isub p e) := fun h => of_wf (Bool.and_eq_true_iff.1 h).1
theorem imul (p : PlaitRef) (e : Enc) : Statement (.imul p e) := fun h => of_wf (Bool.and_eq_true_iff.1 h).1
theorem imulh (p : PlaitRef) (e : Enc) : Statement (.imulh p e) := fun h => of_wf (Bool.and_eq_true_iff.1 h).1
theorem imad (p : PlaitRef) (e : Enc) : Statement (.imad p e) := fun h => of_wf (Bool.and_eq_true_iff.1 h).1
theorem iand (p : PlaitRef) (e : Enc) : Statement (.iand p e) := fun h => of_wf (Bool.and_eq_true_iff.1 h).1
theorem ior (p : PlaitRef) (e : Enc) : Statement (.ior p e) := fun h => of_wf (Bool.and_eq_true_iff.1 h).1
theorem ixor (p : PlaitRef) (e : Enc) : Statement (.ixor p e) := fun h => of_wf (Bool.and_eq_true_iff.1 h).1
theorem shl (p : PlaitRef) (e : Enc) : Statement (.shl p e) := fun h => of_wf (Bool.and_eq_true_iff.1 h).1
theorem shr (p : PlaitRef) (e : Enc) : Statement (.shr p e) := fun h => of_wf (Bool.and_eq_true_iff.1 h).1
theorem sar (p : PlaitRef) (e : Enc) : Statement (.sar p e) := fun h => of_wf (Bool.and_eq_true_iff.1 h).1
theorem imin (p : PlaitRef) (e : Enc) : Statement (.imin p e) := fun h => of_wf (Bool.and_eq_true_iff.1 h).1
theorem imax (p : PlaitRef) (e : Enc) : Statement (.imax p e) := fun h => of_wf (Bool.and_eq_true_iff.1 h).1
theorem icmp (p : PlaitRef) (e : Enc) : Statement (.icmp p e) := fun h => of_wf (Bool.and_eq_true_iff.1 h).1
theorem sel (p : PlaitRef) (e : Enc) : Statement (.sel p e) := fun h => of_wf (Bool.and_eq_true_iff.1 h).1
theorem bitop (p : PlaitRef) (e : Enc) : Statement (.bitop p e) := fun h => of_wf (Bool.and_eq_true_iff.1 h).1
theorem fadd (p : PlaitRef) (e : Enc) : Statement (.fadd p e) := fun h => of_wf (Bool.and_eq_true_iff.1 h).1
theorem fsub (p : PlaitRef) (e : Enc) : Statement (.fsub p e) := fun h => of_wf (Bool.and_eq_true_iff.1 h).1
theorem fmul (p : PlaitRef) (e : Enc) : Statement (.fmul p e) := fun h => of_wf (Bool.and_eq_true_iff.1 h).1
theorem ffma (p : PlaitRef) (e : Enc) : Statement (.ffma p e) := fun h => of_wf (Bool.and_eq_true_iff.1 h).1
theorem fmin (p : PlaitRef) (e : Enc) : Statement (.fmin p e) := fun h => of_wf (Bool.and_eq_true_iff.1 h).1
theorem fmax (p : PlaitRef) (e : Enc) : Statement (.fmax p e) := fun h => of_wf (Bool.and_eq_true_iff.1 h).1
theorem fcmp (p : PlaitRef) (e : Enc) : Statement (.fcmp p e) := fun h => of_wf (Bool.and_eq_true_iff.1 h).1
theorem fabsneg (p : PlaitRef) (e : Enc) : Statement (.fabsneg p e) := fun h => of_wf (Bool.and_eq_true_iff.1 h).1
theorem frcp (p : PlaitRef) (e : Enc) : Statement (.frcp p e) := fun h => of_wf (Bool.and_eq_true_iff.1 h).1
theorem fsqrt (p : PlaitRef) (e : Enc) : Statement (.fsqrt p e) := fun h => of_wf (Bool.and_eq_true_iff.1 h).1
theorem fexp2 (p : PlaitRef) (e : Enc) : Statement (.fexp2 p e) := fun h => of_wf (Bool.and_eq_true_iff.1 h).1
theorem flog2 (p : PlaitRef) (e : Enc) : Statement (.flog2 p e) := fun h => of_wf (Bool.and_eq_true_iff.1 h).1
theorem fsin (p : PlaitRef) (e : Enc) : Statement (.fsin p e) := fun h => of_wf (Bool.and_eq_true_iff.1 h).1
theorem fcos (p : PlaitRef) (e : Enc) : Statement (.fcos p e) := fun h => of_wf (Bool.and_eq_true_iff.1 h).1
theorem cvt (p : PlaitRef) (e : Enc) : Statement (.cvt p e) := fun h => of_wf (Bool.and_eq_true_iff.1 h).1
theorem cvti (p : PlaitRef) (e : Enc) : Statement (.cvti p e) := fun h => of_wf (Bool.and_eq_true_iff.1 h).1
theorem rng (p : PlaitRef) (e : Enc) : Statement (.rng p e) := fun h => of_wf (Bool.and_eq_true_iff.1 h).1
theorem plut (p : PlaitRef) (e : Enc) : Statement (.plut p e) := fun h => of_wf (Bool.and_eq_true_iff.1 h).1
theorem p2r (p : PlaitRef) (e : Enc) : Statement (.p2r p e) := fun h => of_wf (Bool.and_eq_true_iff.1 h).1
theorem ld (p : PlaitRef) (e : Enc) : Statement (.ld p e) := fun h => of_wf (Bool.and_eq_true_iff.1 h).1
theorem st (p : PlaitRef) (e : Enc) : Statement (.st p e) := fun h => of_wf (Bool.and_eq_true_iff.1 h).1
theorem atom (p : PlaitRef) (e : Enc) : Statement (.atom p e) := fun h => of_wf (Bool.and_eq_true_iff.1 h).1
theorem shfl (p : PlaitRef) (e : Enc) : Statement (.shfl p e) := fun h => of_wf (Bool.and_eq_true_iff.1 h).1
theorem vote (p : PlaitRef) (e : Enc) : Statement (.vote p e) := fun h => of_wf (Bool.and_eq_true_iff.1 h).1
theorem redux (p : PlaitRef) (e : Enc) : Statement (.redux p e) := fun h => of_wf (Bool.and_eq_true_iff.1 h).1
theorem mxi (p : PlaitRef) (e : Enc) : Statement (.mxi p e) := fun h => of_wf (Bool.and_eq_true_iff.1 h).1
theorem mxg (p : PlaitRef) (e : Enc) : Statement (.mxg p e) := fun h => of_wf (Bool.and_eq_true_iff.1 h).1
theorem mxw (p : PlaitRef) (e : Enc) : Statement (.mxw p e) := fun h => of_wf (Bool.and_eq_true_iff.1 h).1
theorem mxr (p : PlaitRef) (e : Enc) : Statement (.mxr p e) := fun h => of_wf (Bool.and_eq_true_iff.1 h).1
theorem eci (p : PlaitRef) (e : Enc) : Statement (.eci p e) := fun h => of_wf (Bool.and_eq_true_iff.1 h).1
theorem cpy (p : PlaitRef) (e : Enc) : Statement (.cpy p e) := fun h => of_wf (Bool.and_eq_true_iff.1 h).1
theorem bar (p : PlaitRef) (e : Enc) : Statement (.bar p e) := fun h => of_wf (Bool.and_eq_true_iff.1 h).1
theorem mbar (p : PlaitRef) (e : Enc) : Statement (.mbar p e) := fun h => of_wf (Bool.and_eq_true_iff.1 h).1
theorem wait (p : PlaitRef) (e : Enc) : Statement (.wait p e) := fun h => of_wf (Bool.and_eq_true_iff.1 h).1
theorem rgnEnter (p : PlaitRef) (e : Enc) : Statement (.rgnEnter p e) := fun h => of_wf (Bool.and_eq_true_iff.1 h).1
theorem rgnExit (p : PlaitRef) (e : Enc) : Statement (.rgnExit p e) := fun h => of_wf (Bool.and_eq_true_iff.1 h).1
theorem bra (p : PlaitRef) (e : Enc) : Statement (.bra p e) := fun h => of_wf (Bool.and_eq_true_iff.1 h).1
theorem brx (p : PlaitRef) (e : Enc) : Statement (.brx p e) := fun h => of_wf (Bool.and_eq_true_iff.1 h).1
theorem call (p : PlaitRef) (e : Enc) : Statement (.call p e) := fun h => of_wf (Bool.and_eq_true_iff.1 h).1
theorem exit (p : PlaitRef) (e : Enc) : Statement (.exit p e) := fun h => of_wf (Bool.and_eq_true_iff.1 h).1
theorem szt (p : PlaitRef) (e : Enc) : Statement (.szt p e) := fun h => of_wf (Bool.and_eq_true_iff.1 h).1
theorem id (p : PlaitRef) (e : Enc) : Statement (.id p e) := fun h => of_wf (Bool.and_eq_true_iff.1 h).1
theorem rnd (p : PlaitRef) (e : Enc) : Statement (.rnd p e) := fun h => of_wf (Bool.and_eq_true_iff.1 h).1
theorem nop (p : PlaitRef) (e : Enc) : Statement (.nop p e) := fun h => of_wf (Bool.and_eq_true_iff.1 h).1
theorem alloc (p : PlaitRef) (e : Enc) : Statement (.alloc p e) := fun h => of_wf (Bool.and_eq_true_iff.1 h).1
theorem allocatorAnswer (p : PlaitRef) : Statement (.allocatorAnswer p) := fun h => of_wf h
theorem free (p : PlaitRef) (e : Enc) : Statement (.free p e) := fun h => of_wf (Bool.and_eq_true_iff.1 h).1
theorem clusterStopIssue (c : Nat) : Statement (.clusterStopIssue c) := fun _ => trivial
theorem workGroupStart (q : Nat) (i : Nat) (tile : Nat) (cluster : Nat) : Statement (.workGroupStart q i tile cluster) := fun _ => trivial
theorem plaitRetire (p : PlaitRef) : Statement (.plaitRetire p) := fun h => of_wf h
theorem plaitStateSave (tile : Nat) (cluster : Nat) : Statement (.plaitStateSave tile cluster) := fun _ => trivial
theorem plaitStateRestore (tile : Nat) (cluster : Nat) : Statement (.plaitStateRestore tile cluster) := fun _ => trivial
theorem cpyComplete (p : PlaitRef) (token : Nat) : Statement (.cpyComplete p token) := fun h => of_wf (Bool.and_eq_true_iff.1 h).1
theorem matmul (a : ArrayRef) : Statement (.matmul a) := fun _ => trivial
theorem loadw (a : ArrayRef) : Statement (.loadw a) := fun _ => trivial
theorem drain (a : ArrayRef) : Statement (.drain a) := fun _ => trivial
theorem mxaWeightLoadStart (a : ArrayRef) : Statement (.mxaWeightLoadStart a) := fun _ => trivial
theorem mxaWeightLoadEnd (a : ArrayRef) : Statement (.mxaWeightLoadEnd a) := fun _ => trivial
theorem mxaStreamStart (a : ArrayRef) : Statement (.mxaStreamStart a) := fun _ => trivial
theorem mxaStreamEnd (a : ArrayRef) : Statement (.mxaStreamEnd a) := fun _ => trivial
theorem mxaLastResult (a : ArrayRef) : Statement (.mxaLastResult a) := fun _ => trivial
theorem mxaDrainPassStart (a : ArrayRef) : Statement (.mxaDrainPassStart a) := fun _ => trivial
theorem mxaDrainPassEnd (a : ArrayRef) : Statement (.mxaDrainPassEnd a) := fun _ => trivial
theorem mxaFragmentReadStart (a : ArrayRef) : Statement (.mxaFragmentReadStart a) := fun _ => trivial
theorem mxaOpComplete (a : ArrayRef) : Statement (.mxaOpComplete a) := fun _ => trivial
theorem mxaPackingStop (a : ArrayRef) : Statement (.mxaPackingStop a) := fun _ => trivial
theorem shadowCompare (a : ArrayRef) : Statement (.shadowCompare a) := fun _ => trivial
theorem chainStart (u : SliceRef) : Statement (.chainStart u) := fun _ => trivial
theorem chainChannelsLoaded (u : SliceRef) : Statement (.chainChannelsLoaded u) := fun _ => trivial
theorem chainStepsEnd (u : SliceRef) : Statement (.chainStepsEnd u) := fun _ => trivial
theorem chainOutputPassEnd (u : SliceRef) : Statement (.chainOutputPassEnd u) := fun _ => trivial
theorem chainComplete (u : SliceRef) : Statement (.chainComplete u) := fun _ => trivial
theorem fusedDrainPassStart (u : SliceRef) : Statement (.fusedDrainPassStart u) := fun _ => trivial
theorem fusedDrainPassEnd (u : SliceRef) : Statement (.fusedDrainPassEnd u) := fun _ => trivial
theorem chMov (u : SliceRef) : Statement (.chMov u) := fun _ => trivial
theorem chAdd (u : SliceRef) : Statement (.chAdd u) := fun _ => trivial
theorem chSub (u : SliceRef) : Statement (.chSub u) := fun _ => trivial
theorem chMul (u : SliceRef) : Statement (.chMul u) := fun _ => trivial
theorem chFma (u : SliceRef) : Statement (.chFma u) := fun _ => trivial
theorem chMin (u : SliceRef) : Statement (.chMin u) := fun _ => trivial
theorem chMax (u : SliceRef) : Statement (.chMax u) := fun _ => trivial
theorem chAbsneg (u : SliceRef) : Statement (.chAbsneg u) := fun _ => trivial
theorem chRcp (u : SliceRef) : Statement (.chRcp u) := fun _ => trivial
theorem chSqrt (u : SliceRef) : Statement (.chSqrt u) := fun _ => trivial
theorem chRsq (u : SliceRef) : Statement (.chRsq u) := fun _ => trivial
theorem chExp2 (u : SliceRef) : Statement (.chExp2 u) := fun _ => trivial
theorem chLog2 (u : SliceRef) : Statement (.chLog2 u) := fun _ => trivial
theorem chSin (u : SliceRef) : Statement (.chSin u) := fun _ => trivial
theorem chCos (u : SliceRef) : Statement (.chCos u) := fun _ => trivial
theorem chTanh (u : SliceRef) : Statement (.chTanh u) := fun _ => trivial
theorem chCmp (u : SliceRef) : Statement (.chCmp u) := fun _ => trivial
theorem chSel (u : SliceRef) : Statement (.chSel u) := fun _ => trivial
theorem chCvt (u : SliceRef) : Statement (.chCvt u) := fun _ => trivial
theorem chRint (u : SliceRef) : Statement (.chRint u) := fun _ => trivial
theorem chRng (u : SliceRef) : Statement (.chRng u) := fun _ => trivial
theorem chDrop (u : SliceRef) : Statement (.chDrop u) := fun _ => trivial
theorem chPerm (u : SliceRef) : Statement (.chPerm u) := fun _ => trivial
theorem ctxCreate (port : Nat) (hi : BitVec 56) : Statement (.ctxCreate port hi) := fun _ => trivial
theorem ctxDestroy (port : Nat) (hi : BitVec 56) : Statement (.ctxDestroy port hi) := fun _ => trivial
theorem ctxTeardownComplete (c : Nat) : Statement (.ctxTeardownComplete c) := fun _ => trivial
theorem qCreate (port : Nat) (hi : BitVec 56) : Statement (.qCreate port hi) := fun _ => trivial
theorem qDestroy (port : Nat) (hi : BitVec 56) : Statement (.qDestroy port hi) := fun _ => trivial
theorem qReserve (port : Nat) (hi : BitVec 56) : Statement (.qReserve port hi) := fun _ => trivial
theorem qCommit (port : Nat) (hi : BitVec 56) : Statement (.qCommit port hi) := fun _ => trivial
theorem qResume (port : Nat) (hi : BitVec 56) : Statement (.qResume port hi) := fun _ => trivial
theorem moCreate (port : Nat) (hi : BitVec 56) : Statement (.moCreate port hi) := fun _ => trivial
theorem moRetain (port : Nat) (hi : BitVec 56) : Statement (.moRetain port hi) := fun _ => trivial
theorem moRelease (port : Nat) (hi : BitVec 56) : Statement (.moRelease port hi) := fun _ => trivial
theorem moMap (port : Nat) (hi : BitVec 56) : Statement (.moMap port hi) := fun _ => trivial
theorem moUnmap (port : Nat) (hi : BitVec 56) : Statement (.moUnmap port hi) := fun _ => trivial
theorem moQuery (port : Nat) (hi : BitVec 56) : Statement (.moQuery port hi) := fun _ => trivial
theorem fCreate (port : Nat) (hi : BitVec 56) : Statement (.fCreate port hi) := fun _ => trivial
theorem fDestroy (port : Nat) (hi : BitVec 56) : Statement (.fDestroy port hi) := fun _ => trivial
theorem fExport (port : Nat) (hi : BitVec 56) : Statement (.fExport port hi) := fun _ => trivial
theorem fSignal (port : Nat) (hi : BitVec 56) : Statement (.fSignal port hi) := fun _ => trivial
theorem fQuery (port : Nat) (hi : BitVec 56) : Statement (.fQuery port hi) := fun _ => trivial
theorem abort (port : Nat) (hi : BitVec 56) : Statement (.abort port hi) := fun _ => trivial
theorem ack (c : Nat) (v : W64) : Statement (.ack c v) := fun _ => trivial
theorem launch (q : Nat) (i : Nat) : Statement (.launch q i) := fun _ => trivial
theorem update (q : Nat) (i : Nat) : Statement (.update q i) := fun _ => trivial
theorem copy (q : Nat) (i : Nat) : Statement (.copy q i) := fun _ => trivial
theorem coll (q : Nat) (i : Nat) : Statement (.coll q i) := fun _ => trivial
theorem sync (q : Nat) (i : Nat) : Statement (.sync q i) := fun _ => trivial
theorem cmdLeaveQueued (q : Nat) (i : Nat) : Statement (.cmdLeaveQueued q i) := fun _ => trivial
theorem cmdWaitSatisfied (q : Nat) (i : Nat) : Statement (.cmdWaitSatisfied q i) := fun _ => trivial
theorem cmdDispatch (q : Nat) (i : Nat) : Statement (.cmdDispatch q i) := fun _ => trivial
theorem updateComplete (q : Nat) (i : Nat) : Statement (.updateComplete q i) := fun _ => trivial
theorem roundTick (p : Nat) : Statement (.roundTick p) := fun _ => trivial
theorem roundMonitorCheck (p : Nat) : Statement (.roundMonitorCheck p) := fun _ => trivial
theorem stretchApply (p : Nat) : Statement (.stretchApply p) := fun _ => trivial
theorem overlayRequest (v : W64) : Statement (.overlayRequest v) := fun _ => trivial
theorem partitionDissolve (p : Nat) : Statement (.partitionDissolve p) := fun _ => trivial
theorem partitionForm : Statement (.partitionForm) := fun _ => trivial
theorem migrationStart (p : Nat) : Statement (.migrationStart p) := fun _ => trivial
theorem migrationComplete (p : Nat) : Statement (.migrationComplete p) := fun _ => trivial
theorem pageOutStart (p : Nat) : Statement (.pageOutStart p) := fun _ => trivial
theorem memReqRetry (tag : Nat) : Statement (.memReqRetry tag) := fun _ => trivial
theorem scrubPass (tile : Nat) (sc : Nat) (errs : List ScrubErr) : Statement (.scrubPass tile sc errs) := fun _ => trivial
theorem rowRepairComplete (tile : Nat) (sc : Nat) (i : Nat) : Statement (.rowRepairComplete tile sc i) := fun _ => trivial
theorem dramBandEval (tile : Nat) (sc : Nat) (tempC : Int) : Statement (.dramBandEval tile sc tempC) := fun _ => trivial
theorem retrainWindowEnd (tile : Nat) (sc : Nat) : Statement (.retrainWindowEnd tile sc) := fun _ => trivial
theorem steeringWritebackDone (tile : Nat) (sc : Nat) : Statement (.steeringWritebackDone tile sc) := fun _ => trivial
theorem farArm (p : Nat) (j : Nat) (v : W64) : Statement (.farArm p j v) := fun _ => trivial
theorem farDrain (p : Nat) (j : Nat) (v : W64) : Statement (.farDrain p j v) := fun _ => trivial
theorem lendArm (p : Nat) (j : Nat) (v : W64) : Statement (.lendArm p j v) := fun _ => trivial
theorem lendRelease (p : Nat) (j : Nat) (v : W64) : Statement (.lendRelease p j v) := fun _ => trivial
theorem mempProbe (p : Nat) (v : W64) : Statement (.mempProbe p v) := fun _ => trivial
theorem registerWrite (off : Nat) (width : Nat) (v : W64) : Statement (.registerWrite off width v) := fun _ => trivial
theorem frameRx (port : Nat) (frame : List W8) (uncorr : Bool) : Statement (.frameRx port frame uncorr) := fun _ => trivial
theorem hello (port : Nat) (k : Pkt) : Statement (.hello port k) := fun _ => trivial
theorem linkState (port : Nat) (k : Pkt) : Statement (.linkState port k) := fun _ => trivial
theorem stretch (port : Nat) (k : Pkt) : Statement (.stretch port k) := fun _ => trivial
theorem probe (port : Nat) (k : Pkt) : Statement (.probe port k) := fun _ => trivial
theorem probeAck (port : Nat) (k : Pkt) : Statement (.probeAck port k) := fun _ => trivial
theorem laneChange (port : Nat) (k : Pkt) : Statement (.laneChange port k) := fun _ => trivial
theorem mgmt (port : Nat) (k : Pkt) : Statement (.mgmt port k) := fun _ => trivial
theorem readReq (port : Nat) (k : Pkt) : Statement (.readReq port k) := fun _ => trivial
theorem readResp (port : Nat) (k : Pkt) : Statement (.readResp port k) := fun _ => trivial
theorem writeReq (port : Nat) (k : Pkt) : Statement (.writeReq port k) := fun _ => trivial
theorem writeAck (port : Nat) (k : Pkt) : Statement (.writeAck port k) := fun _ => trivial
theorem lendReq (port : Nat) (k : Pkt) : Statement (.lendReq port k) := fun _ => trivial
theorem lendAck (port : Nat) (k : Pkt) : Statement (.lendAck port k) := fun _ => trivial
theorem join (port : Nat) (k : Pkt) : Statement (.join port k) := fun _ => trivial
theorem chunk (port : Nat) (k : Pkt) : Statement (.chunk port k) := fun _ => trivial
theorem chunkAck (port : Nat) (k : Pkt) : Statement (.chunkAck port k) := fun _ => trivial
theorem done (port : Nat) (k : Pkt) : Statement (.done port k) := fun _ => trivial
theorem withdraw (port : Nat) (k : Pkt) : Statement (.withdraw port k) := fun _ => trivial
theorem whello (port : Nat) (k : Pkt) : Statement (.whello port k) := fun _ => trivial
theorem snapReq (port : Nat) (k : Pkt) : Statement (.snapReq port k) := fun _ => trivial
theorem snapAt (port : Nat) (k : Pkt) : Statement (.snapAt port k) := fun _ => trivial
theorem snapLate (port : Nat) (k : Pkt) : Statement (.snapLate port k) := fun _ => trivial
theorem snapDrainStart (p : Nat) : Statement (.snapDrainStart p) := fun _ => trivial
theorem ship (port : Nat) (k : Pkt) : Statement (.ship port k) := fun _ => trivial
theorem shipAck (port : Nat) (k : Pkt) : Statement (.shipAck port k) := fun _ => trivial
theorem snapDone (port : Nat) (k : Pkt) : Statement (.snapDone port k) := fun _ => trivial
theorem snapCommit (port : Nat) (k : Pkt) : Statement (.snapCommit port k) := fun _ => trivial
theorem snapAbort (port : Nat) (k : Pkt) : Statement (.snapAbort port k) := fun _ => trivial
theorem logData (port : Nat) (k : Pkt) : Statement (.logData port k) := fun _ => trivial
theorem logAck (port : Nat) (k : Pkt) : Statement (.logAck port k) := fun _ => trivial
theorem logFetch (port : Nat) (k : Pkt) : Statement (.logFetch port k) := fun _ => trivial
theorem rebuildPart (port : Nat) (k : Pkt) : Statement (.rebuildPart port k) := fun _ => trivial
theorem journal (port : Nat) (k : Pkt) : Statement (.journal port k) := fun _ => trivial
theorem helloTimer (port : Nat) : Statement (.helloTimer port) := fun _ => trivial
theorem linkStateTimer : Statement (.linkStateTimer) := fun _ => trivial
theorem routeRecompute : Statement (.routeRecompute) := fun _ => trivial
theorem probeTimer : Statement (.probeTimer) := fun _ => trivial
theorem probeTimeout (m : Nat) : Statement (.probeTimeout m) := fun _ => trivial
theorem collChunkTimeout (g : Nat) : Statement (.collChunkTimeout g) := fun _ => trivial
theorem collJoinTimeout (g : Nat) : Statement (.collJoinTimeout g) := fun _ => trivial
theorem laneLockLoss (port : Nat) (lane : Nat) : Statement (.laneLockLoss port lane) := fun _ => trivial
theorem laneThreshCheck (port : Nat) (counts : List Nat) : Statement (.laneThreshCheck port counts) := fun _ => trivial
theorem retrain (port : Nat) (v : W64) : Statement (.retrain port v) := fun _ => trivial
theorem laneRetrainDone (port : Nat) (lane : Nat) : Statement (.laneRetrainDone port lane) := fun _ => trivial
theorem portEnable (port : Nat) (v : W64) : Statement (.portEnable port v) := fun _ => trivial
theorem portTrained (port : Nat) (lanes : BitVec 9) : Statement (.portTrained port lanes) := fun _ => trivial
theorem portTrainTimeout (port : Nat) : Statement (.portTrainTimeout port) := fun _ => trivial
theorem controlWordTimeout (port : Nat) : Statement (.controlWordTimeout port) := fun _ => trivial
theorem portDownRetry (port : Nat) : Statement (.portDownRetry port) := fun _ => trivial
theorem fabricTimeLock : Statement (.fabricTimeLock) := fun _ => trivial
theorem fabricCtrlWrite (v : W64) : Statement (.fabricCtrlWrite v) := fun _ => trivial
theorem groupArm (g : Nat) (v : W64) : Statement (.groupArm g v) := fun _ => trivial
theorem groupRelease (g : Nat) (v : W64) : Statement (.groupRelease g v) := fun _ => trivial
theorem rejoin (v : W64) : Statement (.rejoin v) := fun _ => trivial
theorem riskEstimate (counts : RiskCounts) : Statement (.riskEstimate counts) := fun _ => trivial
theorem walingArm (p : Nat) (v : W64) : Statement (.walingArm p v) := fun _ => trivial
theorem walingRelease (p : Nat) (v : W64) : Statement (.walingRelease p v) := fun _ => trivial
theorem subst (p : Nat) (v : W64) : Statement (.subst p v) := fun _ => trivial
theorem rebuildGo (p : Nat) (v : W64) : Statement (.rebuildGo p v) := fun _ => trivial
theorem rebuildReplay (p : Nat) : Statement (.rebuildReplay p) := fun _ => trivial
theorem joined (p : Nat) (v : W64) : Statement (.joined p v) := fun _ => trivial
theorem swap (tile : Nat) (v : W64) : Statement (.swap tile v) := fun _ => trivial
theorem ptcInterval (m : PtcMeas) : Statement (.ptcInterval m) := fun _ => trivial
theorem droopDetect (tile : Nat) (cluster : Nat) (mv : Nat) : Statement (.droopDetect tile cluster mv) := fun _ => trivial
theorem droopRelax (tile : Nat) (cluster : Nat) : Statement (.droopRelax tile cluster) := fun _ => trivial
theorem criticalShutdown (onTile : Nat) (tempC : Int) : Statement (.criticalShutdown onTile tempC) := fun _ => trivial
theorem inputUndervoltage (mv : Nat) (us : Nat) : Statement (.inputUndervoltage mv us) := fun _ => trivial
theorem inputOvervoltage (mv : Nat) (us : Nat) : Statement (.inputOvervoltage mv us) := fun _ => trivial
theorem ibcFail (ibc : Nat) : Statement (.ibcFail ibc) := fun _ => trivial
theorem capWWrite (v : W64) : Statement (.capWWrite v) := fun _ => trivial
theorem psTargetPs0 (v : W64) : Statement (.psTargetPs0 v) := fun _ => trivial
theorem psTargetPs1 (v : W64) : Statement (.psTargetPs1 v) := fun _ => trivial
theorem psTargetPs2 (v : W64) : Statement (.psTargetPs2 v) := fun _ => trivial
theorem psTargetPs3 (v : W64) : Statement (.psTargetPs3 v) := fun _ => trivial
theorem psEntryComplete : Statement (.psEntryComplete) := fun _ => trivial
theorem ps3Wake (addr : Nat) : Statement (.ps3Wake addr) := fun _ => trivial
theorem powerUp : Statement (.powerUp) := fun _ => trivial
theorem inPgDeassert : Statement (.inPgDeassert) := fun _ => trivial
theorem sysRstNLow (ns : Nat) : Statement (.sysRstNLow ns) := fun _ => trivial
theorem rstcCtrlSysrst (v : W64) : Statement (.rstcCtrlSysrst v) := fun _ => trivial
theorem rstcCtrlCorerst (v : W64) : Statement (.rstcCtrlCorerst v) := fun _ => trivial
theorem secWatchdogExpire : Statement (.secWatchdogExpire) := fun _ => trivial
theorem narbyWatchdogExpire : Statement (.narbyWatchdogExpire) := fun _ => trivial
theorem kick (v : W64) : Statement (.kick v) := fun _ => trivial
theorem pllLockLost (pll : Nat) : Statement (.pllLockLost pll) := fun _ => trivial
theorem blockHoldWrite (v : W64) : Statement (.blockHoldWrite v) := fun _ => trivial
theorem blockRelease (blk : Nat) : Statement (.blockRelease blk) := fun _ => trivial
theorem fuseMapApply : Statement (.fuseMapApply) := fun _ => trivial
theorem optionBytesRead : Statement (.optionBytesRead) := fun _ => trivial
theorem bootRomStart : Statement (.bootRomStart) := fun _ => trivial
theorem recoveryRetry : Statement (.recoveryRetry) := fun _ => trivial
theorem hoopPhyPower : Statement (.hoopPhyPower) := fun _ => trivial
theorem hoopIdleRelease : Statement (.hoopIdleRelease) := fun _ => trivial
theorem pciePerstRelease : Statement (.pciePerstRelease) := fun _ => trivial
theorem dramTrainingDone (fails : List Nat) : Statement (.dramTrainingDone fails) := fun _ => trivial
theorem selfTestDone (fails : SelfTest) : Statement (.selfTestDone fails) := fun _ => trivial
theorem statusProbe (probe : ProbeDatagram) : Statement (.statusProbe probe) := fun _ => trivial
theorem loadComponent (v : W64) : Statement (.loadComponent v) := fun _ => trivial
theorem commitSvn (v : W64) : Statement (.commitSvn v) := fun _ => trivial
theorem otpWrite (v : W64) : Statement (.otpWrite v) := fun _ => trivial
theorem keyInstall (v : W64) : Statement (.keyInstall v) := fun _ => trivial
theorem keyRevoke (v : W64) : Statement (.keyRevoke v) := fun _ => trivial
theorem flashImage (v : W64) : Statement (.flashImage v) := fun _ => trivial
theorem handover (v : W64) : Statement (.handover v) := fun _ => trivial
theorem handoverTimeout : Statement (.handoverTimeout) := fun _ => trivial
theorem secmNonceRead : Statement (.secmNonceRead) := fun _ => trivial
theorem getVersion (path : Nat) (req : List W8) : Statement (.getVersion path req) := fun _ => trivial
theorem getCapabilities (path : Nat) (req : List W8) : Statement (.getCapabilities path req) := fun _ => trivial
theorem negotiateAlgorithms (path : Nat) (req : List W8) : Statement (.negotiateAlgorithms path req) := fun _ => trivial
theorem getDigests (path : Nat) (req : List W8) : Statement (.getDigests path req) := fun _ => trivial
theorem getCertificate (path : Nat) (req : List W8) : Statement (.getCertificate path req) := fun _ => trivial
theorem challenge (path : Nat) (req : List W8) : Statement (.challenge path req) := fun _ => trivial
theorem getMeasurements (path : Nat) (req : List W8) : Statement (.getMeasurements path req) := fun _ => trivial
theorem mgmtFrameRx (fr : MgmtFrame) : Statement (.mgmtFrameRx fr) := fun _ => trivial
theorem mctpPacket (pkt : List W8) : Statement (.mctpPacket pkt) := fun _ => trivial
theorem pollForPlatformEventMessage (req : List W8) : Statement (.pollForPlatformEventMessage req) := fun _ => trivial
theorem pcieInboundRequest (r : PcieReq) : Statement (.pcieInboundRequest r) := fun _ => trivial
theorem pcieLinkDown : Statement (.pcieLinkDown) := fun _ => trivial
theorem debugUnlock (token : List W8) : Statement (.debugUnlock token) := fun _ => trivial
theorem debugResetRequest (core : Bool) : Statement (.debugResetRequest core) := fun _ => trivial
theorem regToPred (p : PlaitRef) (e : Enc) : Statement (.regToPred p e) := fun h => of_wf (Bool.and_eq_true_iff.1 h).1
theorem undefinedEncoding (p : PlaitRef) (op : BitVec 7) (e : Enc) : Statement (.undefinedEncoding p op e) := fun h => of_wf (Bool.and_eq_true_iff.1 h).1
theorem copyComplete (q : Nat) (i : Nat) : Statement (.copyComplete q i) := fun _ => trivial
theorem controlSoftwareAccess (r : CsAccess) : Statement (.controlSoftwareAccess r) := fun _ => trivial
theorem sysRstNRelease : Statement (.sysRstNRelease) := fun _ => trivial
theorem psExitComplete : Statement (.psExitComplete) := fun _ => trivial
theorem pcieLinkUp (width : Nat) (speed : Nat) : Statement (.pcieLinkUp width speed) := fun _ => trivial
theorem mgmtLinkChange (up : Bool) : Statement (.mgmtLinkChange up) := fun _ => trivial
theorem narbyOsRunning : Statement (.narbyOsRunning) := fun _ => trivial
theorem mxaInitLoadEnd (a : ArrayRef) : Statement (.mxaInitLoadEnd a) := fun _ => trivial
theorem unlockCapture : Statement (.unlockCapture) := fun _ => trivial
theorem debugCoreHalt (core : Nat) (halt : Bool) : Statement (.debugCoreHalt core halt) := fun _ => trivial

end Sys2Proof.Laws.Operands
end

