-- ==== Sys2Proof/Tests/Slice0.lean ====
section
/-! SUPPORT. Small tests: well-formedness, words and values of the spec, and a witness for the hypotheses of each statement. -/

namespace Sys2Proof.Tests

open Sys2Proof.Machine Sys2Proof.Safety

set_option Elab.async false

/-! Small states. -/

def r0 : PlaitRef := ⟨0, 0, 0, 0⟩
def e0 : Enc := ⟨false, 0, 0, 0, 0, 0, 0, false, false, false, false, 0, 0⟩
/-- A plait of 64 registers with strands 0 and 1. -/
def p0 : Plait := ⟨0, 0, 0, 0, 0, 0, 64, [], [], 0, 3, 3, [], 0, none, [], .none, []⟩
/-- A resident sub-page; an object of two sub-pages; a page with every right; a context of partition 0 that maps it at address 0. -/
def sub0 : Sub := ⟨.local, 0, 0, 0, false, false, [], 0, false⟩
def mo0 : MObj := ⟨1, 0, 0, 131072, 0, 7, 2, 0, true, true, false, [⟨0, 0, 7⟩], [(0, sub0), (1, { sub0 with loc := 1 })], []⟩
def cx0 : Ctx := ⟨.active, false, 0, 0, none, none, [(0, ⟨true, true, true, 0, 0⟩)], [5], [], false⟩
def obj0 : Obj := { Obj.reset with ctxs := [(0, cx0)], mobjs := [(0, mo0)] }
/-- Partition 0 on tile 0 with sizes of its own in every entry. -/
def rnd0 : Rounds := ⟨1000, 1000, 0, 0, 0, none, 0, 0, 1000, 0, 0, 0, 0, 0, 0, 0, 0, 0, 0, 0, 0, 0, 0, false, true, 0, none, 0, 0, 0, false, none⟩
def lsc0 : Lsc := ⟨0, 0, 0, 0, 0, 0, 0, 0, 0, 0, 0, false, false, false, 0, 0, false, [], none, none, none, 0, false, 0⟩
def mp0 : Memp := ⟨0, 0, 0, 0, 0, 0, 0, 0, 0, 0, false, false, 0, 0, 0, 0, [], [], 0, [], [], false, 0⟩
def part0 : Part := ⟨0, [0], List.replicate 14 0 ++ [0xFF, 0x100000000, 0x100000000] ++ List.replicate 15 16, rnd0, lsc0, ⟨.reset, .reset, []⟩, ⟨0, 0, 0, []⟩, mp0, ⟨0, 0, 0, 0, 0⟩, 0, 0⟩
def dev0 (p : Plait) : Dev :=
  { Dev.reset with obj := obj0, parts := [(0, part0)], plaits := [(0, p)], groups := [(0, ⟨0, 0, 0, 0, 0, 65536, 64, []⟩)] }
def st (d : Dev) : State := ⟨[], d, Otp.shipped⟩
def s0 : State := st (dev0 p0)
/-- A plait in which register 4 of strand 1 holds 8, so that register 4 names two words apart. -/
def pa : Plait := { p0 with regs := [(129, 8)] }
def sa : State := st (dev0 pa)

/-! Each hypothesis of a statement is met somewhere. -/

theorem test_witness_IntegerInstructionResults :
    (∀ row ∈ intRows, Issuing row.op r0 e0 s0 p0 ∧ Issuing row.op r0 { e0 with md := 1 } s0 p0)
    ∧ Issuing 0x0D r0 { e0 with md := 0x95, x := true, ext := 7, aux := 7 } s0 p0
    ∧ Issuing 0x0E r0 { e0 with aux := 15 } s0 p0 ∧ Issuing 0x0F r0 { e0 with md := 9 } s0 p0 ∧ Issuing 0x0F r0 { e0 with d := 255, guard := 0x1F } s0 p0 := by
  unfold Issuing; decide +kernel

theorem test_witness_FloatingInstructionResults :
    (∀ row ∈ floatRows, Issuing row.op r0 e0 s0 p0 ∧ Issuing row.op r0 { e0 with md := 2 } s0 p0) ∧ Issuing 0x17 r0 { e0 with md := 0x31 } s0 p0
    ∧ Issuing 0x16 r0 { e0 with md := 0x70, aux := 7 } s0 p0 ∧ (∀ row ∈ unaryRows, Issuing row.1 r0 e0 s0 p0)
    ∧ dec32 nan32 = .nan ∧ (∀ f ∈ [fp32, fp16, bf16], decodeF f (nanBits f) = .nan) ∧ dec32 0xFF800000 = .inf true ∧ dec32 0xBF800000 = .fin true (2 ^ 23) (2 ^ 23) := by
  unfold Issuing; decide +kernel

/-- A partition that permits no format. -/
def sn : State := st { dev0 p0 with parts := [(0, { part0 with szt := part0.szt.set 14 0 })] }

theorem test_unfaulted : Unfaulted s0 p0 ∧ Unfaulted sa pa := ⟨⟨cx0, rfl, rfl⟩, ⟨cx0, rfl, rfl⟩⟩

theorem test_witness_ConversionResults :
    (Issuing 0x20 r0 e0 sn p0 ∧ (sn.dev.obj.ctxs.get? p0.ctx).map (fun x => x.fault) = some none ∧ p0.parts e0 ≠ 0 ∧ sn.dev.fmtOk (sn.dev.partOf p0.ctx) 0 = false) ∧
    (Issuing 0x20 r0 { e0 with md := 0x38 } s0 p0 ∧ s0.dev.fmtOk (s0.dev.partOf p0.ctx) 0 = true ∧ s0.dev.fmtOk (s0.dev.partOf p0.ctx) 7 = true)
    ∧ Issuing 0x21 r0 { e0 with md := 5 } s0 p0 ∧ Issuing 0x22 r0 e0 s0 p0 := by
  unfold Issuing; decide +kernel

theorem test_witness_CrossStrandResults :
    (∀ m : Fin 8, Issuing 0x48 r0 { e0 with md := BitVec.ofNat 8 m } s0 p0) ∧ (∀ m : Fin 4, Issuing 0x49 r0 { e0 with md := BitVec.ofNat 8 m } s0 p0)
    ∧ Issuing 0x4A r0 { e0 with md := 8 } s0 p0 ∧ Issuing 0x28 r0 { e0 with md := 0x80, d := 7, a := 15 } s0 p0 ∧ Issuing 0x29 r0 e0 s0 p0
    ∧ Issuing 0x2A r0 { e0 with md := 0x81 } s0 p0 := by
  unfold Issuing; decide +kernel

theorem test_witness_QueryResults :
    Issuing 0x68 r0 { e0 with a := 31 } s0 p0 ∧ Issuing 0x69 r0 { e0 with md := 9 } s0 p0 ∧ Issuing 0x6A r0 { e0 with md := 4 } s0 p0
    ∧ Issuing 0x70 r0 e0 s0 p0 := by
  unfold Issuing; decide +kernel

/-- The prepared access goes on, and what it leaves satisfies f. -/
def goesWith (x : Pre) (f : Dev → Bool) : Bool := match x with | .go d => f d | _ => false

theorem test_witness_LoadResults :
    (Issuing 0x30 r0 { e0 with md := 2, a := 4 } sa pa ∧
      ∀ k ∈ lanes 3, addrOf { e0 with md := 2, a := 4 } false pa k % 4 = 0 ∧ addrOf { e0 with md := 2, a := 4 } false pa k + 4 ≤ (sa.dev.window pa).2
        ∧ (sa.dev.cluster 0).badAt (addrOf { e0 with md := 2, a := 4 } false pa k) 4 = false)
    ∧ Issuing 0x30 r0 { e0 with md := 0x12, a := 4 } sa pa
    ∧ goesWith (preAccess sa.dev (pkey r0) { pa with stall := .none } true 4 .load
        ((lanes 3).map (fun k => (k, addrOf { e0 with md := 0x12, a := 4 } true pa k)))) (fun d => d.stopOf (pkey r0) pa == none) = true := by
  unfold Issuing; decide +kernel

theorem test_canonical : CanonicalMem s0.dev ∧ CanonicalMem sa.dev := by
  unfold CanonicalMem CanonicalArray; decide +kernel

theorem test_witness_StoreResults : (Issuing 0x31 r0 { e0 with md := 3, a := 4, b := 6 } sa pa ∧
    ∀ k ∈ lanes 3, addrOf { e0 with md := 3, a := 4, b := 6 } false pa k % 8 = 0
      ∧ addrOf { e0 with md := 3, a := 4, b := 6 } false pa k + 8 ≤ (sa.dev.window pa).2)
    ∧ Issuing 0x31 r0 { e0 with md := 0x12, a := 4 } sa pa
    ∧ goesWith (preAccess sa.dev (pkey r0) { pa with stall := .none } true 4 .store
        ((lanes 3).map (fun k => (k, addrOf { e0 with md := 0x12, a := 4 } true pa k))))
      (fun d => d.mem.bytes.wf && (d.obj.ctxs.get? 0).isSome && (d.rse.wgs.get? 0).isNone && (d.phys cx0 8).isSome && d.stopOf (pkey r0) pa == none) = true := by
  unfold Issuing; decide +kernel

/-- Both strands of `p0` name one word of context memory; those of `pa` two words of the window. -/
theorem test_witness_AtomicResults :
    (Issuing 0x40 r0 { e0 with md := 0x10, a := 4 } sa pa
      ∧ ∀ k ∈ lanes 3, addrOf { e0 with a := 4 } false pa k % 8 = 0 ∧ addrOf { e0 with a := 4 } false pa k + 8 ≤ (sa.dev.window pa).2
        ∧ (sa.dev.cluster 0).badAt (addrOf { e0 with a := 4 } false pa k) 8 = false)
    ∧ (Issuing 0x40 r0 { e0 with aux := 4, a := 4 } s0 p0 ∧ (∀ k ∈ lanes 3, addrOf { e0 with aux := 4, a := 4 } true p0 k = 0) ∧ p0.parts { e0 with aux := 4, a := 4 } ≠ 0
      ∧ goesWith (preAccess s0.dev (pkey r0) { p0 with stall := .none } true 4 .store ((lanes 3).map (fun k => (k, 0))))
        (fun d => d.mem.bytes.wf && (d.obj.ctxs.get? 0).isSome && (d.rse.wgs.get? 0).isNone && d.stopOf (pkey r0) p0 == none && !d.vbad 0 0 4 && (d.phys cx0 0).isSome) = true) := by
  unfold Issuing; decide +kernel

/-- A plait whose register 4 names byte 1 in strand 1, one that names the end of the window, and one that names a page not mapped. -/
def pm (x : W32) : Plait := { p0 with regs := [(129, x)] }
/-- A cluster whose word 0 of local memory is in error. -/
def badClm0 : Cluster := { Cluster.clear with badClm := [0] }

theorem test_witness_MemoryAccessFaults :
    (∀ row ∈ memRows,
      (let e := { e0 with md := 2, a := 4 }
       Issuing row.op r0 e (st (dev0 (pm 1))) (pm 1) ∧ addrOf e (row.ctxMem e) (pm 1) 1 % row.size e ≠ 0
       ∧ Issuing row.op r0 e (st (dev0 (pm 65536))) (pm 65536) ∧ row.ctxMem e = false ∧ (∀ k ∈ lanes 3, addrOf e false (pm 65536) k % row.size e = 0)
       ∧ ((st (dev0 (pm 65536))).dev.window (pm 65536)).2 < addrOf e false (pm 65536) 1 + row.size e
       ∧ Issuing row.op r0 e (st { dev0 p0 with clusters := [(0, badClm0)] }) p0 ∧ badClm0.badAt (addrOf e false p0 0) (row.size e) = true)
      ∧ let e := { e0 with md := 0x12, a := 4, aux := if row.op = 0x40 then 4 else 0 }
        Issuing row.op r0 e (st (dev0 (pm 0x200000))) (pm 0x200000) ∧ row.ctxMem e = true
        ∧ ∀ k ∈ [Acc.load, Acc.store], (match (dev0 p0).prepare 0 0 k (spansAt (row.size e) [(0, 0), (1, 0x200000)]) with
          | .fault _ m _ => m != 0 | _ => false) = true) := by
  unfold Issuing; decide +kernel

/-- A plait in a region, whose register 4 holds the first words of a LOADW descriptor of one weight over its strands. -/
def pr : Plait := { p0 with region := some 3, regs := [(128, 1), (129, 0x10100)] }
/-- The same descriptor at offset 0 of the window. -/
def sd : State := st { dev0 pr with clusters := [(0, { Cluster.clear with clm := [(0, 1), (5, 1), (6, 1)] })] }
def descOk (s : State) (x : Nat) : Bool := (descCheck (s.dev.cluster 0).clm 0 65536 x (fun _ => true)).2 == []

theorem test_witness_MatrixIssue :
    pr.tokens.getLsbD 15 = false ∧ (sd.dev.array (arrayOf (pkey r0) { e0 with aux := 15 })).queue.length < 8 ∧ sd.dev.fmtOk 0 0 = true
    ∧ (Issuing 0x50 r0 { e0 with aux := 15 } sd pr ∧ (pr.rd 0 0).toNat % 32 = 0 ∧ (pr.rd 0 0).toNat + 112 ≤ (sd.dev.window pr).2
      ∧ (sd.dev.cluster 0).badAt 0 112 = false ∧ dFuse ((sd.dev.cluster 0).clm.readLE 0 112) = false
      ∧ (descCheck (sd.dev.cluster 0).clm 0 65536 ((sd.dev.cluster 0).clm.readLE 0 112) (sd.dev.fmtOk 0)).2 = [])
    ∧ pr.region = some pr.active
    ∧ (Issuing 0x51 r0 { e0 with aux := 15, a := 4 } sd pr ∧ pr.parts { e0 with aux := 15, a := 4 } = pr.active
      ∧ (descCheck (sd.dev.cluster 0).clm 0 65536 (leNat ((List.range 28).flatMap (fun k => leBytes 4 (pr.rd 4 k).toNat))) (sd.dev.fmtOk 0)).2 = [])
    ∧ dFuse (leNat ((List.range 28).flatMap (fun k => leBytes 4 (pr.rd 4 k).toNat))) = false
    ∧ Issuing 0x52 r0 { e0 with aux := 15, md := 0xFF } sd pr ∧ Issuing 0x53 r0 { e0 with aux := 15, d := 255 } sd pr := by
  unfold Issuing; decide +kernel

/-- A chain descriptor of one element and one instruction MOV at offset 0 of the window. -/
def clmC : Mem := [(0, 1), (4, 1), (5, 1), (0x32, 0x80), (0x33, 0x3F), (0x36, 0x80), (0x37, 0x3F), (0xA2, 32)]
def sc : State := st { dev0 p0 with clusters := [(0, { Cluster.clear with clm := clmC })] }

/-- A plait whose token 0 is pending; no strand takes part under a guard that is false for both. -/
def pt : Plait := { p0 with tokens := 1 }

theorem test_witness_Waits : (∀ op ∈ [0x50, 0x51, 0x52, 0x53, 0x54, 0x55],
    Issuing op r0 { e0 with guard := 0x10 } s0 p0 ∧ p0.parts { e0 with guard := 0x10 } = 0 ∧ Issuing op r0 e0 (st (dev0 pt)) pt ∧ pt.parts e0 ≠ 0
      ∧ pt.tokens.getLsbD (e0.aux.toNat % 16) = true) := by
  unfold Issuing; decide +kernel

theorem test_witness_ChainAndCopyIssue :
    Issuing 0x54 r0 { e0 with aux := 3 } sc p0 ∧ (sc.dev.slice 0).queue.length < 4 ∧ (sc.dev.cluster 0).badChain 0 65536 0 = false ∧ (chainCheck (sc.dev.cluster 0).clm 0 65536 0 (sc.dev.fmtOk 0) none).2 = []
    ∧ Issuing 0x55 r0 { e0 with a := 2, b := 2, c := 6, md := 1 } s0 p0
    ∧ Issuing 0x55 r0 { e0 with a := 2, b := 2, c := 6, md := 1 } (st (dev0 { p0 with regs := [(192, 64)] })) { p0 with regs := [(192, 64)] }
    ∧ (match s0.dev.pinAll 0 0 (rngOf .store 0 64) with | .ok _ _ => true | _ => false) = true := by
  unfold Issuing; decide +kernel

theorem test_witness_BarrierAndWait :
    (Issuing 0x58 r0 { e0 with a := 15, b := 64 } s0 p0 ∧ p0.parts e0 ≠ 0 ∧ (s0.dev.groups.get? 0).isSome = true) ∧ Issuing 0x59 r0 { e0 with aux := 2 } s0 p0
    ∧ Issuing 0x5A r0 { e0 with a := 255, b := 255 } s0 p0 ∧ Issuing 0x58 r0 { e0 with guard := 0x10 } s0 p0 ∧ p0.parts { e0 with guard := 0x10 } = 0 := by
  unfold Issuing; decide +kernel

theorem test_rising : RisingTables s0.dev := by simp [RisingTables, Rising, s0, st, dev0, Dev.reset, obj0, Obj.reset, Fab.reset]

/-- A plait whose predicate 0 divides its strands, and one whose register pair 4 sends strand 1 elsewhere. -/
def pd : Plait := { p0 with preds := [(0, 2)] }
def px : Plait := { p0 with regs := [(129, 64)] }
def eb : Enc := { e0 with x := true, ext := 0x0000000500000003 }

theorem test_witness_BranchCallExit :
    (Issuing 0x60 r0 eb s0 p0 ∧ p0.parts eb = p0.active) ∧ (Issuing 0x60 r0 { eb with guard := 0x10 } s0 p0 ∧ p0.parts { eb with guard := 0x10 } = 0)
    ∧ (Issuing 0x60 r0 { eb with guard := 0x10 } (st (dev0 pd)) pd ∧ pd.parts { eb with guard := 0x10 } = 2 ∧ pd.pc + insLen eb ≠ branchTo pd.pc (eb.ext.extractLsb' 32 32))
    ∧ (Issuing 0x62 r0 { eb with guard := 0x10 } (st (dev0 pd)) pd) ∧ Issuing 0x63 r0 { e0 with guard := 0x10 } (st (dev0 pd)) pd
    ∧ (Issuing 0x61 r0 { eb with a := 8, ext := 0x500000000 } s0 p0 ∧ (p0.rd64 8 0).toNat % 8 = 0)
    ∧ Issuing 0x61 r0 { eb with a := 4, ext := 0x500000000 } (st (dev0 px)) px ∧ (∀ k ∈ lanes 3, (px.rd64 4 k).toNat % 8 = 0)
    ∧ px.rd64 4 0 ≠ px.rd64 4 1 ∧ px.rd64 4 0 ≠ branchTo px.pc 5
    ∧ Issuing 0x61 r0 { eb with a := 4, ext := 0x500000000 } (st (dev0 (pm 1))) (pm 1) ∧ ((pm 1).rd64 4 1).toNat % 8 ≠ 0 := by
  unfold Issuing; decide +kernel

theorem test_witness_IllegalEncodingFaults :
    s0.dev.ready (pkey r0) p0 0x7F e0 = true ∧ s0.dev.fetchCause p0 e0 = none ∧ s0.dev.stopOf (pkey r0) p0 = none ∧ encOk 0x7F e0 64 = false ∧ p0.parts e0 ≠ 0
    ∧ s0.dev.obj.ctxs.get? 0 = some cx0 ∧ cx0.fault = none
    ∧ encOk 0x00 { e0 with md := 1, a := 3 } 64 = false ∧ s0.dev.ready (pkey r0) p0 0 { e0 with md := 1, a := 3 } = true := by
  decide +kernel

theorem test_row : ShorekRow 0 .iadd := .head _

/-! Work groups, arrays, chains. -/

/-- A command entry from fields given by bit position and value. -/
def entry (l : List (Nat × Nat)) : Cmd := Cmd.fresh (BitVec.ofNat 1024 (l.foldl (fun n x => n + x.2 * 2 ^ x.1) 0))
/-- A LAUNCH of one group of 33 strands with 8 registers and a window of 64 bytes; a queue in which command 0 stands. -/
def launch0 : Cmd := { entry [(0, 1), (768, 1), (832, 64), (864, 33), (880, 8)] with st := .running }
def q0 (c : Cmd) : Queue := ⟨.active, 0, 6, 0, 0, 1, 1, 0xBC0000000, [(0, c)]⟩
def devq (c : Cmd) : Dev := { Dev.reset with obj := { obj0 with queues := [(0, q0 c)] }, parts := [(0, part0)] }

theorem test_witness_WorkGroupStarts :
    (∀ d ∈ [devq launch0, { devq launch0 with clusters := [(5, { Cluster.clear with ctx := some 0 })] }],
      d.obj.queues.get? 0 = some (q0 launch0) ∧ d.cmd? 0 0 = some launch0 ∧ launch0.opc = 1 ∧ launch0.groupsStarted < launch0.nGroups ∧ d.usable 0 0 5 = true
      ∧ launch0.stop = none ∧ (d.cluster 5).saveReq = false ∧ d.roomFor 5 launch0 = true ∧ d.stops = [] ∧ d.mem.bytes.wf = true)
    ∧ ((devq launch0).cluster 5).ctx ≠ some 0 ∧ (devq launch0).plaitsOn 5 = [] ∧ launch0.window ≤ 1572864
    ∧ Dev.windowAt { devq launch0 with clusters := [(5, { Cluster.clear with ctx := some 0 })] } 5 launch0.window = some 0 := by
  decide +kernel

def lost0 : Dev := { dev0 p0 with obj := { obj0 with ctxs := [(0, { cx0 with st := .lost })] } }
def saving0 : Dev := { dev0 p0 with clusters := [(0, { Cluster.clear with ctx := some 0, saveReq := true })] }
def saved0 : Saved := ⟨0, [(3, 7)], [], [(0, p0)], [(0, ⟨0, 0, 0, 0, 0, 65536, 64, []⟩)], []⟩
def idle0 : Dev := { dev0 p0 with plaits := [], groups := [], saved := [saved0] }

theorem test_witness_PlaitsLeaveAndReturn :
    (p0.tokens = 0 ∧ (dev0 { p0 with live := 0 }).stopped 0 = false ∧ (dev0 { p0 with live := 0 }).farWrites 0 = false ∧ (st (dev0 { p0 with live := 0 })).dev.plaits.get? (pkey r0) = some { p0 with live := 0 })
    ∧ lost0.obj.ctxs.get? 0 = some { cx0 with st := .lost }
    ∧ ((saving0.cluster (ckey 0 0)).ctx = some 0 ∧ (saving0.cluster (ckey 0 0)).saveReq = true ∧ (∀ kv ∈ saving0.plaitsOn (ckey 0 0), kv.2.tokens = 0) ∧ saving0.stopped 0 = false ∧ saving0.stops = [])
    ∧ idle0.saved.find? (fun z => idle0.usable (idle0.partOf z.ctx) 0 5) = some saved0 ∧ (idle0.cluster 5).saveReq = false ∧ idle0.plaitsOn 5 = [] ∧ idle0.stops = []
    ∧ saved0.plaits.Pairwise (fun a b => a.1 % 64 ≠ b.1 % 64) := by
  decide +kernel

def prepOk (x : Prep) (f : Dev → Bool) : Bool := match x with | .ok d => f d | _ => false
def cpy0 : Cpy := ⟨0, 15, 32, 64, 64, false, 3, 0, 0, [(0, 0)]⟩
def cpy1 : Cpy := { cpy0 with toMem := true }
def alloc0 (n : W64) : Plait := { p0 with stall := .alloc 252 n 3 }
def dcpy (o : Cpy) : Dev := { dev0 p0 with cpys := [o] }

def pb : Plait := { p0 with regs := [(128, 8)] }

theorem test_witness_CopyEnd : (∀ o ∈ [cpy0, cpy1],
    (dcpy o).cpys.find? (fun o => o.pk = pkey r0 && o.token = 15) = some o ∧ (dcpy o).stopped 0 = false
    ∧ prepOk ((dcpy o).prepare 0 0 (if o.toMem then .store else .load) (spansOf o.va.toNat o.len)) (fun d => d.mem.bytes.wf && d.plaits == (dev0 p0).plaits
        && d.clusters == (dev0 p0).clusters && (List.range 2).all (fun n => !d.cpyBadClm o n && !d.cpyBadMem 0 o n) && (d.obj.ctxs.get? 0).isSome
        && (d.rse.wgs.get? 0).isNone && d.phys cx0 32 == some 32 && d.phys cx0 95 == some 95) = true) := by
  decide +kernel

/-- What the allocator answers: no object, one whose claim leaves the plaits, or one to wait for; a partition all of whose sub-pages are used and pinned
waits for one. -/
def allocCode (x : AllocRes) (d : Dev) : Nat := match x with | .no => 0 | .ok _ _ d' => if d'.plaits == d.plaits then 1 else 3 | .wait _ => 2

def full0 (p : Plait) : Dev := { dev0 p with parts := [(0, { part0 with szt := part0.szt.set 15 0, memp := { mp0 with pag := 0x80000000, far := [(0, ⟨1, 16, 1, 0, false, false, [], true⟩)] } })] }

theorem test_witness_Allocator :
    Issuing 0x71 r0 { e0 with d := 2, a := 4 } s0 p0
    ∧ allocCode ((dev0 (alloc0 0x200000001)).allocObj 0 0x200000001 none 6 true) (dev0 (alloc0 0x200000001)) = 0
    ∧ allocCode ((dev0 (alloc0 1)).allocObj 0 1 none 6 true) (dev0 (alloc0 1)) = 1
    ∧ allocCode ((full0 (alloc0 0x20000000)).allocObj 0 0x20000000 none 6 true) (full0 (alloc0 0x20000000)) = 2
    ∧ Issuing 0x72 r0 { e0 with a := 4 } s0 p0
    ∧ s0.dev.obj.mobjs.find? (fun kv => kv.2.va = 0 && kv.2.home = 0 && kv.2.ownerRef && kv.2.live) = some (0, mo0) ∧ 1 < mo0.drv
    ∧ Issuing 0x72 r0 { e0 with a := 4 } (st (dev0 pb)) pb ∧ (pb.rd64 4 0).toNat = 8
    ∧ (dev0 pb).obj.mobjs.find? (fun kv => kv.2.va = 8 && kv.2.home = 0 && kv.2.ownerRef && kv.2.live) = none := by
  unfold Issuing; decide +kernel

/-- An array in which one operation stands; a fresh operation; the matrix descriptor of one element that loads, initialises and drains. -/
def iss0 : Issuer := ⟨0, 15, 0, 0, 65536, 0, 0, 0, 0, 0, 0, 0, 3⟩
def arr0 (o : AOp) : Dev := { dev0 p0 with arrays := [(0, { MArray.clear with queue := [o] })] }
def desc0 : Nat := 2 ^ 6 + 2 * 2 ^ 8 + 2 ^ 10 + 2 ^ 32 + 2 ^ 40 + 2 ^ 48
def mat0 : AOp := AOp.fresh .matmul desc0 0 0 iss0
def mxw0 : AOp := ⟨.mxw 63 (List.replicate 512 1), 0, 0, iss0, 0, .run, .done, .done, .done, .done, 0, false, .done, [], [], none, [], []⟩
def a0 : ArrayRef := ⟨0, 0, 0⟩

/-- The operation on which each row of the phase events acts. -/
def atRow (k : Nat) : AOp := match k with
  | 0 => mat0
  | 1 => { mat0 with wload := .run }
  | 2 => { mat0 with wload := .done, init := .done }
  | 3 => { mat0 with stream := .run }
  | 4 => { mat0 with stream := .done, qs := [[1]] }
  | 5 => { mat0 with result := .done }
  | _ => AOp.fresh (.mxr 63 0 3) 0 0 0 iss0

theorem test_witness_ArrayPhaseEvents :
    phaseRows.length = 7
    ∧ (∀ k : Fin 7, ∀ row ∈ phaseRows[k.val]?, ((arr0 (atRow k)).array (arrKey a0)).first row.can = some 0 ∧ row.kind (atRow k).kind = true)
    ∧ (∀ k : Fin 7, (arr0 (atRow k)).stopped (ckTile (arrKey a0 / 4)) = false)
    ∧ ((arr0 mat0).array 0).first canInit = some 0 ∧ dLo mat0.desc ≤ 64
    ∧ ((arr0 mxw0).array 0).first canWend = some 0
    ∧ ((arr0 (atRow 4)).array 0).first canResult = some 0 := by
  decide +kernel

/-- The fragment data of `mxw0` has the length that the clause on fragment writes asks for. -/
theorem test_fragment_length : (List.replicate 512 (1 : W8)).length = 512 := List.length_replicate

theorem test_witness_DrainAndCompletion :
    ((arr0 { atRow 5 with drain := .run }).array 0).first canDrainEnd = some 0 ∧ ((arr0 { atRow 5 with drain := .run, pass := 1 }).array 0).first canDrainEnd = some 0
    ∧ ((arr0 { atRow 2 with stream := .done, result := .done, drain := .done }).array 0).first canComplete = some 0 := by
  decide +kernel

def ent0 : ShadowEnt := ⟨[0x3F800000], 1, 0x3F800000, 3, [0], [127], 0x3F800000, 0, 0, 0, 0⟩

theorem test_witness_WholeArrayOperations :
    (∀ row ∈ wholeRows, AOp.fuse (AOp.fresh row.2 desc0 0 0 iss0) = false ∧ (arr0 (AOp.fresh row.2 desc0 0 0 iss0)).stopped 0 = false)
    ∧ (Dev.array { dev0 p0 with arrays := [(0, { MArray.clear with packing := true })] } 0).packing = true
    ∧ (Dev.array { dev0 p0 with arrays := [(0, { MArray.clear with shadow := [ent0] })] } 0).shadow = [ent0] := by
  decide +kernel

/-- A chain of one element whose instruction 0 has an opcode, with a generator operand of 1; its slice while it runs. -/
def cdesc (op : Nat) : Nat := 1 + 2 ^ 32 + 2 ^ 40 + (op * 2 ^ 26 + 3 * 2 ^ 22) * 2 ^ (8 * 0xA0)
def chain0 (op : Nat) (ph : ChPh) : ChainOp := ⟨cdesc op, iss0, ph, false, [], [], none, []⟩
def run0 : ChainRun := ⟨1, 1, 0, [0], List.replicate 8 [], [List.replicate 16 0]⟩
def slc (op : Nat) (ph : ChPh) (r : Option ChainRun) : Dev := { dev0 p0 with slices := [(0, { Slice.clear with queue := [chain0 op ph], run := r })] }
def u0 : SliceRef := ⟨0, 0, 0⟩

theorem test_witness_ChainInstructionResults : ∀ op ≤ 0x16,
    (slc op .loaded (some run0)).fusedOp (sliceKey u0) = none ∧ ((slc op .loaded (some run0)).slice 0).run = some run0
    ∧ ((slc op .loaded (some run0)).curChain (sliceKey u0)).any (fun c => decide (run0.next < cNinstr c.x) && iOp (cIns c.x run0.next) == op) = true
    ∧ run0.temps.length = run0.m * run0.l ∧ ∀ t ∈ run0.temps, t.length = 16 := by
  decide +kernel

theorem test_chain_rows : chainRows.map (fun r => r.op) = List.range 0x16 := by decide +kernel

/-- A DRAIN fused with the chain, ready on slice 0, and under way. -/
def fop : AOp := AOp.fresh .drain (2 + 2 ^ 11 + 2 ^ 32 + 2 ^ 48) (cdesc 0) 0 iss0
def fdev : Dev := arr0 fop
def fdev' : Dev := { arr0 { fop with drain := .run } with slices := [(0, { Slice.clear with fused := some 0, run := some { run0 with next := 1 } })] }

theorem test_witness_ChainLifeCycle :
    (∀ ph : Fin 4, ((slc 0 ([ChPh.queued, .started, .loaded, .stepped].getD ph .queued) none).slice 0).queue.zipIdx.find?
        (fun o => o.1.ph == [ChPh.queued, .started, .loaded, .stepped].getD ph .queued) = some (chain0 0 ([ChPh.queued, .started, .loaded, .stepped].getD ph .queued), 0))
    ∧ ((slc 0 .queued none).slice 0).busy = false ∧ (slc 0 .queued none).fusedReady 0 = none ∧ cNinstr (chain0 0 .loaded).desc = 1
    ∧ cYwr (chain0 0 .stepped).desc = false ∧ ((slc 0 .passed none).slice 0).queue = [chain0 0 .passed]
    ∧ fdev.fusedReady 0 = some (0, 0, fop) ∧ (fdev.slice 0).busy = false
    ∧ fdev'.fusedOp 0 = some (0, 0, { fop with drain := .run }) ∧ cNinstr fop.chain = 1
    ∧ (drainOut fop.outSpec fop.amaxFirst (fop.cctx.sel { run0 with next := 1 } (dc fop.chain 56 5))).recomputed = false := by
  decide +kernel

/-! Objects, queues, queued commands. -/

/-- The arguments of a command on port 15. -/
def args (a b c d : W64) : OPort := ⟨a, b, c, d, false, false, 0, 0, 0, none⟩
def pst (o : Obj) (v : OPort) : State := st { dev0 p0 with obj := { o with ports := [(15, v)] } }

theorem test_port_ready : ∀ o v, o.held = false → v.busy = false → PortReady (pst o v) 15 := by
  intro o v ho hv; simp [PortReady, pst, st, Dev.portBusy, Dev.oport, Tbl.getD, Tbl.get?, ho, hv]

theorem test_witness_IgnoredObjectCommands :
    (pst obj0 ⟨0, 0, 0, 0, true, false, 0, 0, 0, none⟩).dev.portBusy 15 = true ∧ (pst obj0 (args 0 0 0 0)).dev.portBusy 15 = false := by decide +kernel

/-- A context in TEARDOWN that no command keeps. -/
def objT : Obj := { obj0 with ctxs := [(0, { cx0 with st := .teardown })] }

theorem test_witness_ContextCommands :
    ((dev0 p0).sztE 0 20).toNat = 16 ∧ (Dev.sztE { dev0 p0 with parts := [(0, { part0 with szt := part0.szt.set 20 1 })] } 0 20).toNat = 1 ∧ firstFree obj0.ctxs 64 0 = 1 ∧ ((pst obj0 (args 0 1 0 0)).dev.pickSub 0 0).isSome = true ∧ cx0.st ≠ .teardown
    ∧ (pst objT (args 0 0 0 0)).dev.obj.ctxs.get? 0 = some { cx0 with st := .teardown } ∧ (pst objT (args 0 0 0 0)).dev.cmdsOf 0 (fun _ => true) = []
    ∧ (pst obj0 (args 0 0 0 0)).dev.walingHolds 0 = false
    ∧ (st { dev0 p0 with obj := { objT with ports := [] }, rse := { Rse.reset with wgs := [(0, { Wg.reset with refs := [0] })] } }).dev.walingHolds 0 = true
    ∧ (1 : W64).getLsbD 0 = true ∧ cx0.compat = false ∧ (pst { obj0 with ctxs := [(0, { cx0 with compat := true })] } (args 0 0 0 0)).dev.obj.ctxs.get? 0
        = some { cx0 with compat := true } := by
  decide +kernel

/-- A queue of 64 entries: one with one entry reserved and none committed, a full one, a blocked one, one whose command 0 waits to run. -/
def qe : Queue := ⟨.active, 0, 6, 0, 0, 0, 1, 0xBC0000000, []⟩
def qf : Queue := { qe with reserved := 64 }
def qb : Queue := { qe with st := .blocked }
def qz : Queue := { qe with st := .stopped }
def objq (u : Queue) : Obj := { obj0 with queues := [(3, u)] }
/-- Memory in which entry 0 of that queue is a SYNC, and one in which it is nothing. -/
def sync0 (n : W8) : State :=
  st { dev0 p0 with obj := { objq qe with ports := [(15, args 3 0 1 0)] }, mem := { Dev.reset.mem with bytes := if n = 0 then [] else [(0xBC0000000, n)] } }
/-- The entry that stands there. -/
def entered (s : State) : Cmd := Cmd.fresh (BitVec.ofNat 1024 (leNat (s.dev.dramRead (qe.entryAddr 0) 128)))

theorem test_witness_QueueCommands :
    (ringOk 0xBC0000000 6 = true ∧ ((dev0 p0).sztE 0 21).toNat = 16 ∧ firstFree obj0.queues 1024 0 = 0)
    ∧ qe.st ≠ .destroying ∧ qe.cmds = [] ∧ (qe.reserved - qe.head).toNat + 63 ≤ 2 ^ qe.log2 ∧ 2 ^ qf.log2 < (qf.reserved - qf.head).toNat + 1
    ∧ (sync0 5).dev.commitCause qe 0 (entered (sync0 5)) = 0 ∧ (sync0 0).dev.commitCause qe 0 (entered (sync0 0)) ≠ 0
    ∧ (sync0 5).dev.badIn (qe.entryAddr 0) 128 = false ∧ qb.st = .blocked
    ∧ (qz.st = .stopped ∧ (sync0 5).dev.commitCause qz 0 (entered (sync0 5)) = 0)
    ∧ (0 - (q0 (entry [(0, 5)])).head).toNat < ((q0 (entry [(0, 5)])).committed - (q0 (entry [(0, 5)])).head).toNat ∧ (entry [(0, 5)]).st ≠ .running
    ∧ (entry [(0, 5)]).opc ≠ 4 ∧ (entry [(0, 5)]).objs = [] ∧ (dev0 p0).mem.used.get? ((q0 launch0).entryAddr 0 / 65536) = none
    ∧ Dev.hasPlaits { dev0 p0 with obj := { obj0 with queues := [(0, q0 launch0)] } } 0 0 = true
    ∧ (q0 { entry [(0, 4)] with st := .admitted }).cmds.get? 0 = some { entry [(0, 4)] with st := .admitted }
    ∧ (q0 { entry [(0, 5)] with st := .retired }).cmds.get? 0 = some { entry [(0, 5)] with st := .retired } := by
  decide +kernel

def mo1 : MObj := { mo0 with drv := 1 }
def mo2 : MObj := { mo0 with maps := [], va := 2 ^ 40 }
def cx1 : Ctx := { cx0 with pages := [], ptLocs := [5] }
/-- The same object, not mapped. -/
def objM : Obj := { obj0 with ctxs := [(0, cx1)], mobjs := [(0, mo2)] }

theorem test_witness_MemoryObjectCommands :
    allocCode ((dev0 p0).allocObj 0 65536 none 7 false) (dev0 p0) = 1 ∧ allocCode ((dev0 p0).allocObj 0 0x200000001 none 7 false) (dev0 p0) = 0
    ∧ allocCode ((full0 p0).allocObj 0 0x20000000 none 7 false) (full0 p0) = 2 ∧ mo0.gen = 2 ^ 20 / 2 ^ 20 ∧ mo0.live = true ∧ mo0.drv < 65535 ∧ 1 < mo0.drv
    ∧ (mo1.drv = 1 ∧ mo1.cmd = 0) ∧ Obj.mobjs { obj0 with mobjs := [(0, { mo0 with drv := 0 })] } = [(0, { mo0 with drv := 0 })]
    ∧ (mo2.maps = [] ∧ lowestRange cx1 (objPages mo2.size) = some 524288 ∧ (match Dev.mapObj { dev0 p0 with obj := objM } 0 0 524288 1 7 with | .ok _ => true | .need _ => false) = true
      ∧ vaOk cx1 (2 ^ 40) 1 = true)
    ∧ ((∃ a ∈ mo0.maps, a.ctx = 0) ∧ ceilDiv (ptBytes (cx0.pages.filter (fun kv => kv.2.obj != 0))) 65536 ≤ cx0.ptLocs.length) := by
  decide +kernel

def fe0 : Fence := ⟨1, 0, 0, 5, 0, false, false, 0⟩
def objF (f : Fence) : Obj := { obj0 with fences := [(16383, f)] }

theorem test_witness_FenceCommands :
    ((dev0 p0).sztE 0 22).toNat = 16 ∧ firstFree (objF fe0).fences 16384 0 = 0 ∧ (objF fe0).fences.get? (32767 % 2 ^ 14) = some fe0 ∧ fe0.gen = 32767 / 2 ^ 14
    ∧ fe0.dead = false ∧ (objF { fe0 with status := 1 }).fences.get? 16383 = some { fe0 with status := 1 } ∧ cx0.st ≠ .teardown := by
  decide +kernel

/-- Devices in which command 0 of queue 0 stands, beside a fence of value 5 that commands may wait on. -/
def devw (c : Cmd) : Dev := { devq c with obj := { (devq c).obj with fences := [(0, fe0)] } }
def copy0 : Cmd := { entry [(0, 3), (704, 64), (768, 32)] with st := .running }

def copyRngs : List Rng := rngOf .load 0 32 ++ rngOf .store 64 32
def copied : Dev := let d := (devq copy0).engLoads 0 0 copyRngs; d.engWrite 0 0 64 (d.vread 0 0 32)

theorem test_witness_CommandsLeaveQueueAndEnd :
    (∀ c ∈ [entry [(0, 5)], entry [(0, 5), (8, 1), (192, 16384), (256, 5)], entry [(0, 5), (8, 1), (192, 16384), (256, 6)]],
      (q0 c).mayLeave 0 c = true ∧ c.pinned = false ∧ c.cost ≤ part0.budgetFor part0.rnd.period 0 c.clsOf)
    ∧ (entry [(0, 5)]).wait = false
    ∧ (devw (entry [(0, 5), (8, 1), (192, 16384), (256, 5)])).waitRes (entry [(0, 5), (8, 1), (192, 16384), (256, 5)]) = .satisfied
    ∧ (devw (entry [(0, 5), (8, 1), (192, 16384), (256, 6)])).waitRes (entry [(0, 5), (8, 1), (192, 16384), (256, 6)]) = .waiting
    ∧ (match Dev.waitRes { devw launch0 with obj := objF { fe0 with status := 1 } } (entry [(0, 5), (8, 1), (192, 32767), (256, 6)]) with | .failed _ => true | _ => false) = true
    ∧ copy0.opc = 3 ∧ (devq copy0).engWaits 0 0 copyRngs = none
    ∧ ((devq copy0).engLoads 0 0 copyRngs).copyBad 0 (copy0.pay 0 8) (copy0.pay 8 8) (copy0.pay 16 8) = none
    ∧ copied.mem.bytes.wf = true ∧ copied.obj.queues = (devq copy0).obj.queues ∧ copy0.objs = [] := by
  decide +kernel

/-- Pinning answers, leaves the queues, and f holds. -/
def pinsOk (x : PinRes) (d : Dev) (f : Dev → Bool) : Bool := match x with | .ok d' _ => d'.obj.queues == d.obj.queues && f d' | _ => false
/-- An ACTIVE group of partition 0 with this module as its one rank. -/
def grp0 : Group := { Group.reset with st := 1, size := 1, table := 4 }
def admitted (l : List (Nat × Nat)) : Cmd := { entry l with st := .admitted }
def launch1 : Cmd := admitted [(0, 1), (768, 1), (832, 64), (864, 33), (880, 8), (896, 4)]
def copy1 : Cmd := admitted [(0, 3), (704, 64), (768, 32)]
/-- An UPDATE of 32 elements whose descriptor stands at address 0, a BARRIER collective of a group of one rank, and memory for each. -/
def upd1 : Cmd := admitted [(0, 2)]
def updBytes : Mem := [(0x09, 1), (0x11, 2), (0x19, 3), (0x21, 4), (0x48, 32)]
def devu (c : Cmd) (b : Mem) : Dev := { devq c with mem := { Dev.reset.mem with bytes := b }, cole := { Dev.reset.cole with groups := [(0, grp0)] } }
def updDesc : List W8 := (devu upd1 updBytes).vread 0 0 0x90
def coll1 : Cmd := admitted [(0, 4)]
def collDesc : List W8 := (devu coll1 [(0, 4)]).vread 0 0 64

/-- A dispatched command and the sub-pages that its reads need. -/
def disp (d : Dev) : Dev := Dev.updCmd { d with obj := { d.obj with dispatched := 1 } } 0 0 (fun k => { k with seq := 1 })
def pinned (x : PinRes) (f : Dev → Bool) : Bool := match x with | .ok d _ => f d | _ => false
def reads (d : Dev) (rs : List Rng) (f : Dev → Bool) : Bool := (d.engWaits 0 0 rs).isNone && f (d.engLoads 0 0 rs)

theorem test_witness_DispatchStartsCommands :
    (∀ c ∈ [launch1, copy1, upd1, coll1, admitted [(0, 5)]], (q0 c).undispatched 0 = false ∧ c.stop = none ∧ c.st = .admitted ∧ c.objs = [])
    ∧ (launch1.opc = 1 ∧ launch1.fits = true ∧ pinned ((disp (devq launch1)).pinAll 0 0 (rngOf .load launch1.argVa launch1.argBytes)) (fun d =>
        d.obj.queues == (disp (devq launch1)).obj.queues && !d.vbad 0 launch1.argVa launch1.argBytes && reads d (rngOf .load launch1.argVa launch1.argBytes) (fun _ => true)) = true)
    ∧ (copy1.opc = 3 ∧ copy1.pay 0 8 % 32 = 0 ∧ copy1.pay 8 8 % 32 = 0 ∧ copy1.pay 16 8 % 32 = 0
      ∧ pinned ((disp (devq copy1)).pinAll 0 0 copyRngs) (fun d => d.obj.queues == (disp (devq copy1)).obj.queues) = true)
    ∧ (admitted [(0, 5)]).opc = 5
    ∧ (upd1.opc = 2 ∧ (updCheck updDesc 0 ((devu upd1 updBytes).fmtOk 0 7)).1 = 0 ∧ uEmb updDesc = false ∧ uLog updDesc = false ∧ uStat updDesc = false
      ∧ pinned ((disp (devu upd1 updBytes)).pinAll 0 0 (rngOf .load 0 0x90)) (fun d1 => reads d1 (rngOf .load 0 0x90) (fun d => !d.vbad 0 0 0x90 && d.vread 0 0 0x90 == updDesc
          && pinned (d.pinAll 0 0 (d.updRanges 0 updDesc)) (fun d' => d'.obj.queues == (disp (devu upd1 updBytes)).obj.queues && d'.mem.bytes.wf))) = true
      ∧ (part0.lsc.gate part0.rnd.opened upd1.opened).1 = false ∧ ({ lsc0 with ctrl := BitVec.allOnes 64, pending := true }.gate part0.rnd.opened part0.rnd.opened).1 = true)
    ∧ (coll1.opc = 4 ∧ (collCheck collDesc 1 0 (decide (ud collDesc 0x2A 2 = grp0.rank))).1 = 0 ∧ grp0.runs.length < 4 ∧ ccStat (BitVec.ofNat 64 (ud collDesc 0 8)) = false
      ∧ pinned ((disp (devu coll1 [(0, 4)])).pinAll 0 0 (rngOf .load 0 64)) (fun d1 => reads d1 (rngOf .load 0 64) (fun d => !d.vbad 0 0 64 && d.vread 0 0 64 == collDesc
          && d.groupOf 0 (ud collDesc 0x28 2) == some 0 && decide (((List.range (d.group 0).size).filter (fun r => d.groupMember grp0 r / 2 ^ 15 % 2 = 0)).length = 1)
          && pinned (d.pinAll 0 0 []) (fun _ => true))) = true) := by
  decide +kernel

/-- The same UPDATE as it runs, with its descriptor read. -/
def updRun : Cmd := { upd1 with st := .running, desc := updDesc, hyper := [0x3F800000, 0x3F666666, 0, 1, 0] }
def updDone : Dev := ((devu updRun updBytes).applyBlocks 0 updRun.updCtx ((devu updRun updBytes).oldWrite 0 updRun.round) 0 (fun _ => none) (updBlocks updRun.updCtx.x [])).1

theorem test_witness_UpdateApplies :
    (updRun.opc = 2 ∧ updRun.st = .running ∧ updRun.stop = none ∧ uEmb updRun.updCtx.x = false ∧ uStat updRun.updCtx.x = false ∧ uLog updRun.updCtx.x = false ∧ updRun.objs = [])
    ∧ (devu updRun updBytes).updBehind 0 0 0 updRun = false ∧ (devu updRun updBytes).engWaits 0 0 ((devu updRun updBytes).updRanges 0 updRun.updCtx.x) = none
    ∧ (part0.tiles.any (devu updRun updBytes).ueStopped = false) ∧ (∀ b ∈ updBlocks updRun.updCtx.x [], (devu updRun updBytes).blkBad 0 updRun.updCtx.x b = none)
    ∧ (let d := updDone.rowCounts 0 updRun.updCtx false 0 [] []; d.mem.bytes.wf = true ∧ d.obj.queues = (devu updRun updBytes).obj.queues) := by
  decide +kernel

/-! Rounds, partitions, the memory system. -/

def devp (u : Part) : Dev := { Dev.reset with obj := obj0, parts := [(0, u)] }
def monU : Part := { part0 with rnd := { rnd0 with ctrl := 2 ^ 32, applied := false } }

theorem test_witness_RoundTickAndStretch :
    ((devp part0).rstc.coreStep = false ∧ part0.drain = 0) ∧ (monU.rnd.monitored = false ∧ monU.rnd.fixed = false ∧ monU.rnd.ctrl.getLsbD 32 = true) ∧ monU.rnd.applied = false := by
  decide +kernel

/-- A partition with work of its own entry, drained; a pending switch to a record whose entry 0 asks for tile 0. -/
def drained0 : Part := { part0 with ent := 1, drain := 2 }
def pend0 : Dev := { Dev.reset with otpc := { Otpc.reset with pending := true, ents := [1] } }

set_option maxRecDepth 100000 in
theorem test_witness_PartitionSwitch :
    (Otpc.reset.pending = false ∧ bits (0 : W64) 16 3 < 7 ∧ recordCause 6 (Otp.shipped.record 0x16) ≠ 0)
    ∧ recordCause 0 (Otp.shipped.record 0x10) = 0 ∧ affected ((List.range 8).map (recEntry ((Otp.shipped.record 0x10).getD []))) 0 drained0 = true
    ∧ (2 ≤ drained0.drain ∧ (devp drained0).cmdsIn 0 Cmd.inflight = [] ∧ (devp drained0).quiet 0 = true)
    ∧ (∀ n ∈ maskTiles (PartEnt.tileMask 1), pend0.tileOk n = true)
    ∧ (pend0.otpc.pending = true ∧ pend0.ptc.psState = 0 ∧ pend0.parts = [] ∧ PartEnt.tileMask 1 ≠ 0 ∧ pend0.tileOk 0 = true) := by
  decide +kernel

/-- A partition whose queue of migrations names sub-page 0, or has sub-page 0 under way to place 9; one that pages out to a far entry. -/
def migU : Part := { part0 with memp := { mp0 with migQ := [(0, 0, 0)] } }
def runU : Part := { part0 with memp := { mp0 with migRun := [(0, 0)] } }
def far0 : Far := ⟨1, 4, 7, 100, false, false, [], true⟩
def outU : Part := { part0 with szt := List.replicate 14 0 ++ [0xFF, 0x30000, 0x100000000] ++ List.replicate 15 16,
                                memp := { mp0 with pag := 0x8000C800, far := [(0, far0)] } }
def migObj : Obj := { obj0 with mobjs := [(0, { mo0 with subs := [(0, { sub0 with st := .migrating, target := 9 })] })] }
def pkt0 (ty : Nat) (a : List (Nat × Nat)) (inl data : List W8) : Pkt := ⟨ty, 1, 0, 0, 1, 0, mkArgs a, inl, data⟩

theorem test_witness_MigrationAndPageOut :
    ((devp migU).canMigrate 0 (0, 0) = true ∧ ((devp migU).pickSub 0 0).any (fun loc => stackOf loc / 2 == 0) = true)
    ∧ ((Dev.osub { devp runU with obj := migObj } (0, 0)).st = .migrating ∧ (Dev.osub { devp runU with obj := migObj } (0, 0)).target = 9
      ∧ (Dev.osub { devp runU with obj := migObj } (0, 0)).loc = 0 ∧ (devp runU).badIn 0 65536 = false ∧ (devp runU).mem.waiting = [] ∧ (devp runU).cole.groups = []
      ∧ (∀ p : Fin 16, (Dev.oport { devp runU with obj := migObj } p).retry = none) ∧ (devp runU).mem.used = [])
    ∧ (100 * (devp outU).localFree 0 < bits outU.memp.pag 8 8 * (((devp outU).sztE 0 15).toNat / 65536) ∧ outU.memp.pag.getLsbD 31 = true
      ∧ freeFarSlot outU.memp = some (0, 0) ∧ ((devp outU).coldSubs 0).map (fun x => x.1) = [(0, 0), (0, 1)])
    ∧ (devp outU).badIn (sub0.loc * 65536) 65536 = false ∧ MemReq.resent ⟨0, 0, 0, pkt0 0x12 [] [] [], false, .pageOut 0 0⟩ = false := by
  decide +kernel

/-- A device whose stack 1 of tile 0 scrubs, or is at the end of a window; a corrected error in its first quarter. -/
def scd (c : Sc) : Dev := { Dev.reset with tiles := [(0, { Tile.reset with sc1 := c })] }
def scrub0 : Dev := Dev.strikeStack (scd { Sc.reset with st := .active }) 0 1 ⟨5, 0, 0, 0, false⟩

theorem test_witness_StackControllerEvents :
    ((scd { Sc.reset with st := .active }).sc 1).scrubEn = true ∧ ((scd { Sc.reset with st := .active }).sc 1).st = .active
    ∧ scrub0.mem.bad.filter (fun q => q / 1024 / stackPages = 1) = [] ∧ scrub0.mem.soft ≠ []
    ∧ (scd Sc.reset).sc 1 = Sc.reset ∧ Sc.reset.st ≠ .active ∧ ((scd Sc.reset).tile 0).trip.trip = false
    ∧ ((scd { Sc.reset with st := .retrain, writeback := true }).sc 1).st = .retrain ∧ ((scd { Sc.reset with st := .retrain, writeback := true }).sc 1).writeback = true
    ∧ (Dev.tile { Dev.reset with tiles := [(0, { Tile.reset with trip := { Trip.reset with trip := true } })] } 0).trip.trip = true := by
  decide +kernel

theorem test_nothing_waits : NothingWaits (scd { Sc.reset with st := .retrain, writeback := true }) :=
  ⟨rfl, by simp [scd, Dev.reset], by decide +kernel⟩

def lendU : Part := { part0 with ent := BitVec.ofNat 512 (65536 * 2 ^ 256), memp := { mp0 with lend := [(0, ⟨true, 1, 0, 7, 3, false, true, false⟩)], far := [(15, far0)] } }

theorem test_witness_FarLendAndProbe :
    ((2 ^ 40 + 1 : W64).getLsbD 40 = true ∧ (Memp.far mp0).getD 15 Far.reset = Far.reset ∧ 65536 * (farSum mp0 15 + 65536) ≤ ((devp part0).sztE 0 16).toNat
      ∧ ((devp part0).sztE 0 16).toNat < 65536 * (farSum mp0 15 + 65537))
    ∧ ((2 ^ 41 : W64).getLsbD 41 = true ∧ lendU.memp.far.get? 15 = some far0 ∧ far0.armed = false ∧ far0.st = 1)
    ∧ (lendU.memp.lend.getD 15 Lend.reset = Lend.reset ∧ 65536 * (1 + 0) ≤ lendU.ent.lendPool)
    ∧ lendU.memp.lend.get? 0 = some ⟨true, 1, 0, 7, 3, false, true, false⟩
    ∧ ((2 ^ 31 : W64).getLsbD 31 = true ∧ cx0.part = 0 ∧ (cx0.pages.get? (subNo mp0.probeVa / 32)).isSome = true) := by
  decide +kernel

/-! The fabric. -/

/-- A device with one hoop port, number 5, in a state, and partition 0. -/
def hp (h : HPort) : Dev := { dev0 p0 with fab := { Fab.reset with ports := [(5, h)] } }
def hpUp : HPort := { HPort.reset with st := .up, good := 0x1FF, spare := 8, width := 8, idle := false }
def thru (ty : Nat) : Pkt := { pkt0 ty [] [] [] with flags := 0 }

/-- The same device, with a module number and routing on. -/
def hr : Dev := { hp hpUp with hid := ⟨0, true, 0, 0⟩, fab := { (hp hpUp).fab with dx := 2, dy := 1, dz := 1, routeEn := true } }

theorem test_witness_PacketsNotDelivered :
    ∀ row ∈ pktRows, hr.mayArrive 5 row.1 = true ∧ hr.fate { thru row.1 with dest := 1 } = .routed ∧ (hp hpUp).mayArrive 4 row.1 = false ∧ (hp hpUp).mayArrive 5 row.1 = true ∧ (hp hpUp).fate (thru row.1) = .through
      ∧ (hp hpUp).fate { pkt0 row.1 [] [] [] with dest := 0x7000 } = .here ∧ Dev.reset.parts.get? ({ pkt0 row.1 [] [] [] with dest := 0x7000 } : Pkt).destPart = none := by
  decide +kernel

/-- Delivery of a packet sent along one link, on any port that may take it. -/
theorem test_delivered : ∀ ty ∈ pktRows.map (fun r => r.1), (hp hpUp).mayArrive 5 ty = true ∧ (hp hpUp).fate (pkt0 ty [] [] []) = .here
    ∧ (hp hpUp).parts.get? (pkt0 ty [] [] []).destPart = some part0 := by
  decide +kernel

theorem test_witness_LinkPackets :
    ((hp { hpUp with st := .hello }).mayArrive 5 0x01 = true ∧ (pkt0 0x01 [(1, 4), (1, 1), (1, 1), (1, 1), (1, 1)] [] []).srcMod ≠ 0xFFF)
    ∧ ({ pkt0 0x01 [] [] [] with src := 0xFFF } : Pkt).srcMod = 0xFFF ∧ hr.fab.routeEn = true ∧ hr.hid.moduleId ≠ 0xFFF
    ∧ ((pkt0 0x02 [(2, 7), (1, 0), (4, 1)] [] []).arg 0 2 = 7 ∧ (hp hpUp).hid.moduleId ≠ 7 ∧ (hp hpUp).fab.map.get? 7 = none)
    ∧ ((pkt0 0x06 [(1, 8), (1, 0)] [] []).arg 0 1 < 9 ∧ (pkt0 0x06 [(1, 8), (1, 0)] [] []).arg 1 1 < 9) ∧ (hp hpUp).fab.silent = [] := by
  decide +kernel

/-- A lender whose entry lends sub-page 3 to module 7, partition 0; a borrower whose requests wait. -/
def len0 : Dev := { hp hpUp with parts := [(0, lendU)] }
def from7 (ty : Nat) (a : List (Nat × Nat)) (data : List W8) : Pkt := { pkt0 ty a [] data with src := 7 }
def bor0 (why : MemWhy) (q : Obj) : Dev :=
  { devp { part0 with memp := { mp0 with far := [(0, { far0 with asked := true })] } } with obj := q, fab := { Fab.reset with reqs := [(0, ⟨0, 0, 7, pkt0 0x12 [(8, farAddr far0 9 0)] [] [], false, why⟩)], nextTag := 1 } }
def subAt (x : SubSt) : Obj := { obj0 with mobjs := [(0, { mo0 with subs := [(0, { sub0 with st := x, target := 9 })] })] }

theorem test_witness_MemoryPackets :
    ((len0.lendFor 7 0 (3 * 65536) 65536) = some (0, 0) ∧ len0.badIn (3 * 65536) 65536 = false ∧ len0.badPartial (3 * 65536) 65536 = false
      ∧ Dev.badIn { len0 with mem := { len0.mem with bad := [3 * 1024] } } (3 * 65536) 65536 = true
      ∧ (from7 0x10 [(8, 3 * 65536), (4, 65536)] []).arg 0 8 = 3 * 65536 ∧ (from7 0x10 [(8, 3 * 65536), (4, 65536)] []).arg 8 4 = 65536
      ∧ len0.lendFor 7 0 (4 * 65536) 32 = none)
    ∧ (let k := from7 0x14 [(1, 0), (8, 3 * 65536), (4, 1)] []
       k.arg 1 8 / 65536 % 2 ^ 36 = 3 ∧ k.arg 9 4 = 1 ∧ k.srcMod = 7 ∧ k.srcPart = 0)
    ∧ (∀ w ∈ [MemWhy.pageIn 0 0 0, .pageOut 0 0, .direct 0 0 0, .directW 0 0 0 0, .lend 0 0], ∀ x ∈ [SubSt.inbound, .outbound, .far],
      ((bor0 w (subAt x)).fab.reqs.get? 0).map (fun r => r.why) = some w ∧ ((bor0 w (subAt x)).osub (0, 0)).st = x ∧ ((bor0 w (subAt x)).osub (0, 0)).target = 9
      ∧ (bor0 w (subAt x)).mem.waiting = [] ∧ (bor0 w (subAt x)).cole.groups = [] ∧ ∀ p : Fin 16, ((bor0 w (subAt x)).oport p).retry = none)
    ∧ farAddr far0 9 0 = (pkt0 0x12 [(8, farAddr far0 9 0)] [] []).arg 0 8 ∧ far0.st ≠ 2 := by
  decide +kernel

/-- A run of the group `grp0` that waits, in a device where module 0, the sender of the packets, is rank 0. -/
def crun0 : CollRun := ⟨0, 0, 0, 0, 0, 0, 0, 0, 0, collDigest 0 0 0, false, 0, [], [], false, 0, [], [], [(0, 0, 0, [])], false, [], 0⟩
def grp1 : Group := { grp0 with seq := 1, runs := [crun0] }
def cdev : Dev := { hp hpUp with cole := { Dev.reset.cole with groups := [(0, grp1)] } }

theorem test_witness_CollectivePackets :
    (cdev.groupOf 0 0 = some 0 ∧ cdev.groupRank (cdev.group 0) 0 0 = some 0)
    ∧ (let k := pkt0 0x20 [(2, 0), (4, 0), (4, 0), (4, (cdev.groupDigest grp1).toNat)] (leBytes 4 (collDigest 0 0 0).toNat ++ [0, 0]) []
       k.arg 10 4 = (cdev.groupDigest grp1).toNat ∧ leNat ((k.inl.drop 4).take 2) = 0 ∧ leNat (k.inl.take 4) = crun0.digest.toNat
       ∧ (pkt0 0x20 [(2, 0), (4, 0), (4, 0), (4, (cdev.groupDigest grp1).toNat + 1)] [] []).arg 10 4 ≠ (cdev.groupDigest grp1).toNat)
    ∧ grp1.runs.find? (fun x => x.seq = 0) = some crun0 ∧ cdev.run? 0 0 = some crun0 ∧ grp1.epoch.toNat = 0 ∧ 0 < grp1.seq.toNat ∧ crun0.t ≤ 0 % 2 ^ 15
    ∧ grp1.early = [] ∧ crun0.got = [] ∧ (pkt0 0x24 [] [] []).arg 10 1 ≠ 1 := by
  decide +kernel

/-- Two ranks of which the other one is marked lost in the table at 128. -/
def grp2 : Group := { grp0 with size := 2, timeoutMs := 1, runs := [crun0] }
def gdev : Dev := { hp hpUp with cole := { Dev.reset.cole with groups := [(0, grp2)] }, mem := { Dev.reset.mem with bytes := [(133, 0x80)] } }

/-- A member table in the carve-out at its first address. -/
def garm (v : Nat) : W64 := BitVec.ofNat 64 (v + 0xBC0000000 / 32 * 32)

theorem test_witness_GroupControl :
    ((garm 16).getLsbD 4 = true ∧ ({ grp0 with st := 0 } : Group).st ≠ 1 ∧ bits (garm 16) 52 12 < 1
      ∧ carveOk (bits (garm 16) 5 47 * 32) (4 * grp0.size) = true ∧ gdev.badIn (bits (garm 16) 5 47 * 32) 4 = false)
    ∧ ((garm 2).getLsbD 1 = true ∧ carveOk (bits (garm 2) 5 47 * 32) 4 = true ∧ grp2.st = 1)
    ∧ ((0x8000000000000000 : W64).getLsbD 63 = true ∧ bits (0x8000000000000000 : W64) 16 12 = grp2.rank ∧ grp2.rank < grp2.size)
    ∧ (bits (0x8000000000010000 : W64) 16 12 = 1 ∧ gdev.groupMember grp2 1 / 2 ^ 15 % 2 = 1 ∧ grp2.early = [])
    ∧ (grp2.timeoutMs ≠ 0 ∧ gdev.run? 0 0 = some crun0
      ∧ grp2.runs.find? (fun y => !y.running && !(gdev.live grp2 y).all (fun m => y.joined.any (fun j => j.1 = m))) = some crun0)
    ∧ crun0.sent ≠ [] := by
  decide +kernel

/-- A frame whose payload is zeros, whose control word has sequence number 0 in bits 95:80, and whose check value is x. -/
def ctl (x : W32) : List W8 := List.replicate 12 0 ++ leBytes 4 x.toNat
def frame (x : W32) : List W8 := List.replicate 4096 0 ++ ctl x

theorem test_frame_length (x : W32) : (frame x).length = 4112 := by
  rw [frame, List.length_append, List.length_replicate]; rfl

theorem test_frame_word (x : W32) : (frame x).drop 4096 = ctl x := by
  rw [frame, List.drop_append, List.length_replicate, List.drop_eq_nil_of_le (Nat.le_of_eq List.length_replicate)]; rfl

/-- The check value stands in bits 127:96 and the sequence number in bits 95:80. -/
theorem test_frame_crc (x : W32) : bits (BitVec.ofNat 128 (leNat (ctl x))) 96 32 = x.toNat ∧ bits (BitVec.ofNat 128 (leNat (ctl x))) 80 16 = 0 := by
  have h := x.isLt
  have h0 : BitVec.toNat (0 : W8) = 0 := rfl
  simp only [ctl, leBytes, List.replicate, List.cons_append, List.nil_append, leNat, bits, BitVec.toNat_ofNat, Nat.shiftRight_eq_div_pow, h0, Nat.reducePow]
  omega

theorem test_frame_covered (x y : W32) : (frame x).take 4108 = (frame y).take 4108 := by
  rw [frame, frame, List.take_append, List.take_append, List.length_replicate]; rfl

def frDev (h : HPort) : Dev := { hp h with rstc := { Rstc.reset with stable := 0x1FF } }

/-- A frame that is in order and whose check value is right; every frame but that one is refused. -/
theorem test_witness_FrameReception :
    (frDev hpUp).blockUp 5 = true ∧ hpUp.on = true ∧ (0 : Nat) = (hpUp.rxGood + 1) % 65536 ∧ (0 : Nat) ≠ (({ hpUp with rxGood := 0 } : HPort).rxGood + 1) % 65536
    ∧ (∃ x, (crc32 ((frame x).take 4108)).toNat = bits (BitVec.ofNat 128 (leNat ((frame x).drop 4096))) 96 32)
    ∧ (∃ x, (crc32 ((frame x).take 4108)).toNat ≠ bits (BitVec.ofNat 128 (leNat ((frame x).drop 4096))) 96 32)
    ∧ hpUp.refusals + 1 < 8 ∧ 8 ≤ ({ hpUp with refusals := 7 } : HPort).refusals + 1 := by
  refine ⟨by decide, by decide, by decide, by decide, ⟨crc32 ((frame 0).take 4108), ?_⟩, ⟨crc32 ((frame 0).take 4108) + 1, ?_⟩, by decide, by decide⟩
  · rw [test_frame_word, (test_frame_crc _).1, test_frame_covered _ 0]
  · rw [test_frame_word, (test_frame_crc _).1, test_frame_covered _ 0]
    intro h
    have := BitVec.eq_of_toNat_eq h
    exact absurd this (by bv_omega)

theorem test_witness_PortsAndLanes :
    (hpCtrlOk 1 = true ∧ hpCtrlOk 0x80000001 = true ∧ ({ HPort.reset with st := .idleHold, idle := false } : HPort).idle = false)
    ∧ ((0x98000001 : W64).getLsbD 28 = true ∧ bits (0x97000001 : W64) 24 4 = 7 ∧ hpUp.canMove 7 = true)
    ∧ (4 ≤ (lanesOf 0x00F).length ∧ (frDev { HPort.reset with st := .training }).blockUp 5 = true) ∧ hpUp.on = true
    ∧ (hpUp.spareAuto = true ∧ hpUp.good.getLsbD 0 = true ∧ hpUp.canMove 0 = true)
    ∧ (let h : HPort := { hpUp with spareAuto := false, good := 0x01F }; h.spareAuto = false ∧ h.spare ≠ 0 ∧ 4 ≤ (lanesOf (h.good &&& ~~~(1#9 <<< 0))).length)
    ∧ (let h : HPort := { hpUp with spareAuto := false, good := 0x00F }; h.good.getLsbD 0 = true ∧ (lanesOf (h.good &&& ~~~(1#9 <<< 0))).length < 4)
    ∧ (List.range 9).find? (fun j => decide (hpUp.laneThresh < [0, 0, 0, 0, 0, 0, 0, 1001].getD j 0) && hpUp.canMove j) = some 7
    ∧ (let h : HPort := { hpUp with good := 0x0FF, spare := 9 }; h.good.getLsbD 8 = false ∧ h.width = 8)
    ∧ (let h : HPort := { hpUp with good := 0x07F, spare := 9, width := 4, st := .degraded }; h.good.getLsbD 7 = false ∧ 8 ≤ (lanesOf (h.good ||| (1#9 <<< 7))).length)
    ∧ (let h : HPort := { hpUp with good := 0x00F, spare := 9, width := 4, st := .degraded }; h.on = true ∧ (lanesOf (h.good ||| (1#9 <<< 7))).length < 8)
    ∧ (hp hpUp).peers = [] ∧ (∀ m ∈ (devp outU).peers, (devp outU).fab.silent.getD m 0 < 4) ∧ (devp outU).peers = [7]
    ∧ (outU.memp.far.get? 0 = some far0 ∧ far0.module = 7 ∧ far0.heard = true ∧ far0.st = 1) := by
  decide +kernel

/-! The resilience engine. -/

/-- A slot of a waling group of four whose members all stand at module 0, partition 0; its shard is one unit. -/
def w0 : Wg := { Wg.reset with st := 1, size := 4, rank := 1, shardUnits := 1, table := 7 }
def snap0 : Snap := ⟨2, true, false, [], [], false, []⟩
def wdev (w : Wg) : Dev := { hp hpUp with rse := { Rse.reset with wgs := [(0, w)] } }
def log0 (n : W8) : List W8 := [1, 0, 0, 0, n, 0, 0, 0] ++ List.replicate 56 0

/-- The same member with an uncorrectable error in each side of its parity area. -/
def badW : Dev := { wdev w0 with obj := { obj0 with mobjs := [(0, { mo0 with size := 2097152, subs := [(0, sub0), (16, { sub0 with loc := 16 })] })] },
                                 mem := { Dev.reset.mem with bad := [0, 16384] } }

theorem test_witness_WalingPackets :
    ((wdev w0).rankOf w0 0 0 = some 0 ∧ w0.armed = true ∧ w0.walingId = (pkt0 0x30 [] [] []).arg 0 2 ∧ w0.epoch.toNat = (pkt0 0x30 [] [] []).arg 2 4)
    ∧ ((pkt0 0x30 [(6, 0), (4, ((wdev w0).wgDigest w0).toNat), (1, 0)] [] []).arg 6 4 = ((wdev w0).wgDigest w0).toNat
      ∧ (pkt0 0x30 [] [] []).arg 6 4 ≠ ((wdev w0).wgDigest w0).toNat ∧ w0.rebuildMask.getLsbD 1 = false)
    ∧ (w0.snap = none ∧ w0.leader ≠ w0.rank ∧ ({ w0 with rank := 0 } : Wg).leader = 0)
    ∧ (part0.rnd.index.toNat ≤ (pkt0 0x32 [] [] []).arg 6 8 ∧ (pkt0 0x32 [] [] []).arg 6 8 < ({ part0 with rnd := { rnd0 with index := 1 } } : Part).rnd.index.toNat)
    ∧ ((pkt0 0x33 [(6, 0), (8, 2)] [] []).arg 6 8 = snap0.round ∧ (pkt0 0x36 [(6, 0), (1, 2), (8, 2)] [] []).arg 7 8 = snap0.round
      ∧ (pkt0 0x36 [(6, 0), (1, 2), (8, 2)] [] []).arg 6 1 = 2 ∧ snap0.frozen = true)
    ∧ (w0.holds 1 = some false ∧ 1 < w0.stripes ∧ (w0.dataRanks 1).contains 0 = true ∧ snap0.pieces = []
      ∧ (wdev w0).vbad 0 (w0.parityAt 1 1 false) 65536 = false ∧ badW.vbad 0 (w0.parityAt 1 1 false) 65536 = true)
    ∧ ((log0 128).length < entryLen (log0 128) ∧ entryLen (log0 64) ≤ (log0 64).length ∧ w0.holdEnts = [] ∧ w0.holdPart = [])
    ∧ ((w0.chainRanks 2 0 0).contains 1 = true ∧ 1 ≠ 0 ∧ (wdev w0).contribBad w0 2 0 0 = false ∧ badW.contribBad w0 1 0 0 = true)
    ∧ (let w : Wg := { w0 with rstate := 1, rebuild := some ⟨[], [], [], [2]⟩ }; w.rebuild = some ⟨[], [], [], [2]⟩ ∧ w.rstate = 1 ∧ 2 < w.stripes)
    ∧ w0.release = false ∧ w0.lostMask = 0 ∧ w0.lostMask.getLsbD 0 = false ∧ (pkt0 0x24 [(10, 0), (1, 1)] [] []).arg 10 1 = 1
    ∧ ({ w0 with rebuildMask := 4 } : Wg).rebuildMask.getLsbD 2 = true ∧ 2 ≠ w0.rank ∧ w0.rebuildMask.getLsbD w0.rank = false
    ∧ (pkt0 0x38 [(6, 0), (1, 1)] [] []).arg 6 1 = w0.rank ∧ (log0 128).length ≠ 16 ∧ (log0 128).length < entryLen (log0 128)
    ∧ (pkt0 0x3C [(9, 0), (1, 1)] [] []).arg 9 1 = 1 ∧ w0.holdEnts = [] := by
  decide +kernel

/-- A device in which partition 0 can arm a slot: the parity area at address 0, one protected MiB at 2 MiB. -/
def armDev : Dev :=
  { Dev.reset with parts := [(0, part0)], obj := { obj0 with ctxs := [(0, { cx0 with pages := [(0, ⟨true, true, true, 0, 0⟩), (1, ⟨true, true, true, 0, 1⟩)] })] },
                   rse := { Rse.reset with wgs := [(0, { Wg.reset with shardUnits := 1, table := 7, regions := [(0, 2097152 + 2 + 1)] })] } }
def armWord : W64 := BitVec.ofNat 64 (4 * 2 ^ 43 + 2 ^ 38 + 16)

/-- A spare whose pieces and log have come back, in a partition that runs. -/
def spare0 : Wg := { w0 with rstate := 2, rebuild := some ⟨[], [], [], []⟩ }

theorem test_witness_WalingCommands :
    (let w' := (armDev.wg 0).withCtrl armWord
     let areas : List (Nat × Nat) := [(Wg.ringVa w'.log, Wg.ringBytes w'.log), (Wg.ringVa w'.hold, Wg.ringBytes w'.hold), (Wg.ringVa w'.parityVa, 2 * w'.np * w'.width * 2 ^ 20)]
     armWord.getLsbD 4 = true ∧ (armDev.wg 0).st = 0 ∧ w'.size = 4 ∧ w'.rank < w'.size ∧ w'.shardUnits ≠ 0 ∧ w'.units ≤ w'.shardUnits
     ∧ armDev.badIn (w'.table * 2 ^ 20) 16 = false ∧ (armDev.obj.ctxs.get? w'.context).map (fun x => (x.part, x.st)) = some (0, .active)
     ∧ (match armDev.rangesSubs w'.context (w'.regs.map (fun r => (r.1, r.2 * 2 ^ 20))), armDev.rangesSubs w'.context areas with
        | some prot, some ar => decide (prot.length = 16) && decide (ar.length = 32) && decide (2 * prot.length ≤ armDev.localFree 0)
        | _, _ => false) = true)
    ∧ ((8 : W64).getLsbD 3 = true ∧ w0.st ≠ 0)
    ∧ (let w : Wg := { w0 with lostMask := 8 }; bits (0x80030005 : W64) 16 4 = 3 ∧ w.lostMask.getLsbD 3 = true ∧ w.armed = true)
    ∧ ((4 : W64).getLsbD 2 = true ∧ ({ w0 with rebuildMask := 2 } : Wg).rebuildMask.getLsbD 1 = true ∧ w0.base = [])
    ∧ ((wdev spare0).replayReady 0 spare0 = true ∧ spare0.release = false ∧ ({ w0 with st := 3 } : Wg).st = 3 ∧ w0.rstate = 0)
    ∧ (snap0.drained = false ∧ (wdev { w0 with snap := some snap0 }).cmdsIn 0 (fun c => c.opc = 2 && c.inflight && decide (c.round ≤ snap0.round)) = [] ∧ w0.snapAt = []
      ∧ w0.prot = [] ∧ (wdev w0).ctxLost w0.context = false)
    ∧ (bits (0x400000 + 0x4E00 : W64) 9 6 = 39 ∧ bits (0x400000 + 0x4E00 : W64) 16 8 = 64)
    ∧ (dev0 p0).plaits.get? (pkey r0) = some p0 ∧ 63 < p0.alloc := by
  decide +kernel

/-! Power, resets, boot, security, management. -/

def meas0 (pin hub : Nat) : PtcMeas := ⟨54000, 0, pin, 0, [115], hub, 0, 0, [], [], 0⟩
def ptcDev (c : Ptc) : Dev := { Dev.reset with ptc := c }

theorem test_witness_PowerEvents :
    (Rstc.reset.held = .no ∧ Ptc.reset.psState ≠ 3 ∧ Ptc.reset.fwHold = 0)
    ∧ (let limit := min Ptc.reset.capW (min (82 * 54000 / 1000) 3600)
       limit = 3600 ∧ limit < (meas0 3601 0).pinW ∧ (meas0 3527 0).pinW * 100 < limit * 98 ∧ ¬(meas0 3528 0).pinW * 100 < limit * 98 ∧ (115 : Int) ≤ (meas0 0 115).hubC)
    ∧ (Ptc.reset.droopMv ≤ 45 ∧ ({ Cluster.clear with stretch := 4 } : Cluster).stretch ≠ 0)
    ∧ (1200 ≤ bits (0x10000 + 1200 : W64) 0 16 ∧ 1 ≤ bits (0x10000 + 1200 : W64) 16 8) ∧ (¬1200 ≤ bits (0x10000 + 1199 : W64) 0 16)
    ∧ (let c : Ptc := { Ptc.reset with psPending := true, psTarget := 2, ticked := [0] }
       c.psPending = true ∧ (∀ u ∈ (devp part0).parts, u.1 ∈ c.ticked) ∧ (∀ u ∈ (devp part0).parts, (devp part0).cmdsIn u.1 Cmd.inflight = []) ∧ c.wake = false ∧ ({ c with psTarget := 3, wake := true } : Ptc).wake = true)
    ∧ (let c : Ptc := { Ptc.reset with psState := 2 }; c.psTarget = 0 ∧ c.psPending = false ∧ c.psState = 2)
    ∧ (∃ u ∈ (devp lendU).parts, ∃ l ∈ u.2.memp.lend, l.2.active = true)
    ∧ Otpc.reset.pending = false ∧ Ptc.reset.psPending = false ∧ Ptc.reset.psState ≠ 3 ∧ ({ Ptc.reset with psState := 3 } : Ptc).psState = 3 := by
  decide +kernel

def rdev (r : Rstc) : Dev := { Dev.reset with rstc := r, otpc := { Otpc.reset with opt := { OptBytes.absent with wdtSec := 500 } }, boot := { Boot.reset with romStarted := true, dramTrained := true } }
def idleR : Rstc := { Rstc.reset with busyLevel := none }

theorem test_witness_ResetEvents :
    PorTaken (st (rdev idleR)) ∧ SysTaken (st (rdev idleR)) ∧ CoreTaken (st (rdev idleR))
    ∧ (Ptc.reset.ibcOk.getLsbD 3 = true ∧ Ptc.reset.ibcOk = 0xF#4 ∧ (0x7#4 : BitVec 4) ≠ 0xF#4)
    ∧ (bits (0xA5000002 : W64) 24 8 = 0xA5 ∧ (0xA5000002 : W64).getLsbD 0 = false ∧ (0xA5000001 : W64).getLsbD 1 = false ∧ bits (0 : W64) 24 8 ≠ 0xA5)
    ∧ ((rdev idleR).narbyWdtOn = true ∧ (rdev idleR).otpc.opt.wdtSec ≠ 0)
    ∧ (bits (100 : W64) 0 16 = 100 ∧ ¬100 ≤ bits (99 : W64) 0 16) ∧ 16 ∉ idleR.unlocked
    ∧ ((0 : BitVec 9) &&& ~~~(0 : BitVec 9) &&& ~~~idleR.stable = 0 ∧ (0x1FF : BitVec 9) &&& ~~~(0 : BitVec 9) &&& ~~~idleR.stable ≠ 0)
    ∧ Rstc.reset.busyLevel = some .por := by
  unfold PorTaken SysTaken CoreTaken; decide +kernel

/-- Option bytes in range, an OTP that holds them, and one that holds bytes out of range. -/
def opt0 (addr : W8) : List W8 := List.replicate 22 0 ++ [addr, 0, 0x3F, 15, 100, 0, 0, 0] ++ List.replicate 34 0
def otpOpt (addr : W8) : Otp := { Otp.shipped with slots := [(8, otpSlot 0x02 0 (opt0 addr))] }
def bdev (b : Boot) : Dev := { Dev.reset with boot := b, rstc := { idleR with stable := 0x1FF } }

set_option maxRecDepth 10000 in
/-- Components that verify rest on the verification itself, which has no body (log 12); the clauses on those that do not are met by an empty flash. -/
theorem test_witness_BootEvents :
    (Rstc.reset.held = .no ∧ Otpc.reset.fuseDone = false ∧ Otpc.reset.optDone = false)
    ∧ ((otpOpt 0x77).record 0x02 = some (opt0 0x77) ∧ optOk (opt0 0x77) = true ∧ (otpOpt 0x78).record 0x02 = some (opt0 0x78) ∧ optOk (opt0 0x78) = false)
    ∧ (dirFind Dev.reset.flash 1 = none ∧ Boot.reset.romStarted = false)
    ∧ (bdev { Boot.reset with stage := 1 }).boot.stage = 1 ∧ Boot.reset.phyPower = false
    ∧ ((bdev Boot.reset).blockUp 0 = true ∧ Boot.reset.idleReleased = false ∧ ({ HPort.reset with st := .idleHold } : HPort).en = true)
    ∧ (let b : Boot := { Boot.reset with stage := 2, romStarted := true, dramTrained := true }; b.selfTested = false ∧ b.stage ≠ 1 ∧ b.restarting = false
       ∧ (bdev b).narbyBad Otp.shipped false = some (7, 9))
    ∧ ((bdev Boot.reset).blockUp 6 = true ∧ MgmtPort.reset.osOwner = false ∧ MgmtPort.reset.replies < 1000) := by
  decide +kernel

/-- An authorisation block of zeros but for its first byte: it passes where its signature does. -/
def block (op : W8) : List W8 := op :: List.replicate 511 0

set_option maxRecDepth 10000 in
theorem test_witness_authorised (h : Config.authVerify (((Otp.shipped.keys.get? (leAt (block 4) 56 1)).map (fun s => s.hash)).getD 0) ((block 4).take 128) ((block 4).drop 128) = true) :
    authOk Otp.shipped (leBytes 1 4 ++ leBytes 15 0) 0 (fun _ => true) (block 4) = true := by
  simp only [authOk, h]; decide +kernel

/-- A command without an authorisation block is refused with reason 0x05. -/
theorem test_witness_unauthorised : (State.reset.authorised 3 (State.reset.secArg 2) (fun _ => true)).2 = 5 := by decide +kernel

/-- A component of a type without a body whose key has the exponent 65537: it verifies where its hash, its digest and its signature do. -/
def comp0 (t : W8) : List W8 := [t, 0] ++ List.replicate 510 0 ++ exp65537 ++ List.replicate 508 0

set_option maxRecDepth 10000 in
theorem test_witness_component (h1 : ∀ t, Config.sha256 (((comp0 t).drop 0x80).take 388) = 0) (h2 : Config.sha256 [] = 0)
    (h3 : ∀ t, Config.pssVerify ((((comp0 t).drop 0x80).take 388).take 384) exp65537 ((comp0 t).take 0x280) (((comp0 t).drop 0x280).take 384) = true) :
    ∀ t ∈ ([2, 7, 8, 9] : List W8), compReason Otp.shipped (fun y => y = t.toNat) (comp0 t) = 0 := by
  have hb : ∀ t ∈ ([2, 7, 8, 9] : List W8), compBody (comp0 t) = [] := by decide +kernel
  intro t ht
  simp only [compReason, h1, hb t ht, h2, h3]
  revert t; decide +kernel

/-- A device whose Narby components are of that kind, in force and loaded: the OS runs after a CORERST, and a handover is accepted. -/
def narby0 : Dev :=
  { Dev.reset with secm := { Secm.reset with comps := [(7, ⟨0, 0, comp0 7⟩), (8, ⟨0, 0, comp0 8⟩), (9, ⟨0, 0, comp0 9⟩)], places := [(7, (0xBC0000000, 0)), (8, (0xBC0000000, 0)), (9, (0xBC0000000, 0))] } }

set_option maxRecDepth 10000 in
theorem test_witness_narby (h : ∀ t ∈ ([2, 7, 8, 9] : List W8), compReason Otp.shipped (fun y => y = t.toNat) (comp0 t) = 0) (staged : Bool) :
    narby0.narbyBad Otp.shipped staged = none := by
  have h7 := h 7 (by decide)
  have h8 := h 8 (by decide)
  have h9 := h 9 (by decide)
  cases staged <;>
    simp_all [Dev.narbyBad, Dev.narbyReason, narby0, Dev.reset, Secm.reset, Tbl.get?, Dev.badIn, Dev.dramRead, Mem.readN]

/-- A security processor whose firmware runs, with its arguments and carve-out memory. -/
def sec0 (a0 a1 : W64) (b : Mem) : State := st { Dev.reset with boot := { Boot.reset with stage := 2 }, secm := { Secm.reset with args := [(0, a0), (1, a1)], comps := [(2, ⟨65, 0, []⟩)] }, mem := { Dev.reset.mem with bytes := b } }
def carve0 : Nat := 0xBC0000000
/-- The body of a valid overlay record 6 without partitions, as memory. -/
def ovl6 : Mem := [(carve0, 1), (carve0 + 2, 6), (carve0 + 3, 1)] ++ (leBytes 4 (crc32 (List.replicate 512 0)).toNat).zipIdx.map (fun x => (carve0 + 4 + x.2, x.1))

set_option maxRecDepth 100000 in
theorem test_witness_SecurityCommands :
    (bits (0x100 : W64) 8 56 ≠ 0 ∧ bits (3 : W64) 8 56 = 0 ∧ Boot.reset.stage < 2)
    ∧ carveOk 0 1 = false ∧ SecReadable (sec0 (BitVec.ofNat 64 carve0) 1024 []) carve0 1024 ∧ SecReadable (sec0 0x16 (BitVec.ofNat 64 carve0) ovl6) carve0 (otpLen 0x16)
    ∧ (sec0 2 0 []).dev.secm.comps.get? 2 = some ⟨65, 0, []⟩ ∧ (sec0 2 0 []).dev.secm.comps.get? 1 = none
    ∧ otpBodyOk 0x10 ((sec0 0x10 (BitVec.ofNat 64 carve0) []).dev.dramRead carve0 (otpLen 0x10)) = false
    ∧ (otpBodyOk 0x16 ((sec0 0x16 (BitVec.ofNat 64 carve0) ovl6).dev.dramRead carve0 (otpLen 0x16)) = true ∧ Otp.shipped.unused 0x16 = some 1
      ∧ Otp.unused { Otp.shipped with slots := [(88, []), (89, []), (90, []), (91, [])] } 0x16 = none)
    ∧ ((((Otp.shipped.keys.get? 0).map (fun x => x.programmed)).getD false = true) ∧ ((Otp.shipped.keys.get? 1).map (fun x => x.programmed)).getD false = false)
    ∧ ((∀ j < 4, j ≠ 0 → Otp.shipped.keyUsable j = false) ∧ Otp.shipped.keyUsable 0 = true)
    ∧ ((dirFind (Mem.ofBytes ((sec0 (BitVec.ofNat 64 carve0) 64 []).dev.dramRead carve0 64)) 1).isNone = true)
    ∧ (carveOk carve0 1 = true ∧ (sec0 0 0 []).dev.narbyBad Otp.shipped true = some (7, 9)) := by
  unfold SecReadable; decide +kernel

def spd0 (n : Nat) : Dev := { bdev { Boot.reset with stage := 2 } with secm := { Secm.reset with spdm := [(1, ⟨n, []⟩)] } }

theorem test_witness_SpdmRequests :
    (spd0 0).blockUp 7 = true ∧ 2 ≤ (spd0 0).boot.stage ∧ ∀ n < 4, ((spd0 n).secm.spdm.getD 1 ⟨0, []⟩).st = n := by
  decide +kernel

/-- Frames for control software (ARP) and for the OS, an MCTP packet to the module's address, by message type and body. -/
def arp0 : List W8 := List.replicate 12 0 ++ [0x08, 0x06] ++ List.replicate 46 0
def ipf0 : List W8 := List.replicate 12 0 ++ [0x08, 0x00] ++ List.replicate 46 0
def mctp0 (ty : W8) (b : List W8) : List W8 := let l : List W8 := [0x98, 0, 0, 0, 0, 0, 0, 0, ty] ++ b; l ++ [pec l]
def owned0 : Dev := { bdev Boot.reset with mgmt := { MgmtPort.reset with link := true, osOwner := true } }
def win0 : Pcie := { Pcie.reset with speed := 5, windows := [(15, 1 + 2 ^ 62 + 2 ^ 63)] }
def cs0 (w : Bool) : CsAccess := ⟨15, true, 0, 0xBC0000000, w, 8, [1, 2]⟩

/-- A read of HID_MODULE by a core once DRAM is trained, and a device whose debug port is unlocked at the full level. -/
def csr0 : CsAccess := ⟨15, true, 0, BitVec.ofNat 64 (csrBase + 0x10), false, 8, []⟩
def csTrained : Dev := { Dev.reset with boot := { Boot.reset with dramTrained := true } }
def dbg0 : Dev := { csTrained with dbg := { Dbg.reset with level := 2 }, rstc := { idleR with stable := 0x1FF } }

set_option maxRecDepth 10000 in
theorem test_witness_ManagementPaths :
    (owned0.blockUp 6 = true ∧ arp0.length = 60 ∧ ethType arp0 ≠ 0x8100 ∧ owned0.frameClass arp0 = .svc ∧ owned0.frameClass ipf0 = .os)
    ∧ Dev.reset.blockUp 7 = false
    ∧ (leAt (mctp0 1 []) 0 1 / 2 = Sideband.reset.addr ∧ pec (mctp0 1 []).dropLast = (mctp0 1 []).getLastD 0 ∧ 10 ≤ (mctp0 1 []).length ∧ leAt (mctp0 1 []) 8 1 % 128 = 1
      ∧ pec (mctp0 1 [] ++ [1]).dropLast ≠ (mctp0 1 [] ++ [1]).getLastD 0)
    ∧ (let k := mctp0 1 [0, 2, 0x31, 0, 0, 0, 0xB0, 0x04]; leAt k 10 1 % 64 = 2 ∧ leAt k 11 1 = 0x31 ∧ leAt k 15 2 = 1200 ∧ 1 ≤ Ptc.reset.hyst)
    ∧ (let k := mctp0 5 [0x12, 0x84]; leAt k 8 1 % 128 = 5 ∧ leAt ((k.drop 9).dropLast) 1 1 = 0x84)
    ∧ (win0.speed ≠ 0 ∧ win0.serves 15 0 4096 true = true ∧ (List.range 16).all (fun w => !win0.serves w 1 4096 false) = true)
    ∧ (OptBytes.absent.debugPolicy = 0 ∧ Dbg.reset.lockedOut = false ∧ leAt (block 2) 0 1 = 2 ∧ ¬(leAt (block 3) 0 1 = 1 ∨ leAt (block 3) 0 1 = 2))
    ∧ ({ Dbg.reset with level := 1 } : Dbg).level ≠ 0
    ∧ (carveOk (cs0 true).addr.toNat (cs0 true).data.length = true ∧ Dev.reset.badPartial (cs0 true).addr.toNat 2 = false ∧ 15 ∉ Dbg.reset.halted ∧ csTrained.csReady csr0 true = true
      ∧ csr0.addr.toNat = csrBase + 0x10 ∧ csr0.addr.toNat < 2 ^ 52 ∧ csr0.len = 8 ∧ 0x10 % 8 = 0 ∧ dbg0.hubOn = true ∧ dbg0.dbg.level = 2 ∧ dbg0.locKey 0 = none
      ∧ Dev.badIn { Dev.reset with mem := { Dev.reset.mem with bad := [0xBC0000000 / 64] } } (cs0 false).addr.toNat 8 = true) := by
  decide +kernel

theorem test_witness_RegisterWrites :
    (0x11 % (64 / 8) ≠ 0 ∧ 0x14 % (32 / 8) = 0) ∧ partReg (0x10080000 / 8 * 8) = some 0 ∧ (∀ u ∈ Dev.reset.parts, u.2.lead ≠ 0)
    ∧ (partReg (0x18 / 8 * 8) = none ∧ ((regMask (0x18 / 8 * 8)).rw ||| (regMask (0x18 / 8 * 8)).act) &&& halfMask 0x18 64 = 0)
    ∧ Dev.reset.hid.lock = false ∧ Dev.reset.portBusy 15 = false ∧ (bits (0x113 : W64) 0 8 = 18 + 1 ∧ objRows.length = 19)
    ∧ ((devp part0).parts.get? 0 = some part0 ∧ part0.lead = 0 ∧ ∀ x ∈ (devp part0).parts, x.2.lead = 0 → x.1 = 0)
    ∧ (250000 ≤ bits (250000 : W64) 0 32 ∧ ¬249000 ≥ bits (250000 : W64) 0 32) := by
  decide +kernel

theorem test_witness_RegionRules :
    (Issuing 0x5B r0 e0 s0 p0 ∧ p0.region = none ∧ p0.stack = [] ∧ p0.active = p0.live)
    ∧ (let p : Plait := { p0 with active := 1 }; Issuing 0x5B r0 e0 (st (dev0 p)) p ∧ p.active ≠ p.live)
    ∧ (Issuing 0x5B r0 e0 (st (dev0 pr)) pr ∧ pr.region ≠ none) ∧ (Issuing 0x5C r0 e0 (st (dev0 pr)) pr ∧ Issuing 0x5C r0 e0 s0 p0)
    ∧ (Issuing 0x51 r0 e0 s0 p0 ∧ Issuing 0x52 r0 e0 s0 p0 ∧ Issuing 0x53 r0 e0 s0 p0 ∧ p0.parts e0 ≠ 0)
    ∧ s0.dev.obj.ctxs.get? p0.ctx = some cx0 ∧ cx0.fault = none := by
  unfold Issuing; decide +kernel

def full (n : Nat) : Plait := { pd with stack := List.replicate n ⟨800, 3, []⟩, regs := [(129, 64)] }

theorem test_witness_MaskStackHolds32 :
    (∀ n ∈ [31, 32], ∀ op ∈ [0x60, 0x62], Issuing op r0 { eb with guard := 0x10 } (st (dev0 (full n))) (full n))
    ∧ ((full 32).parts { eb with guard := 0x10 } = 2 ∧ (full 32).active &&& ~~~2 ≠ 0 ∧ (full 32).pc + insLen eb ≠ branchTo 0 5)
    ∧ (Issuing 0x61 r0 { eb with a := 4, ext := 0x500000000 } (st (dev0 (full 32))) (full 32) ∧ (full 32).rd64 4 0 ≠ (full 32).rd64 4 1) := by
  unfold Issuing; decide +kernel

theorem test_witness_SizeTableZeroWhileAbsent : ((st (devp part0)).regRead 0x18).getLsbD 7 = false ∧ ((st (devp part0)).regRead 0x18).getLsbD 0 = true
    ∧ (st (devp part0)).regRead (0x1000 + 8 * 20) = 16 := by
  decide +kernel

/-- For MemoriesStayCanonical, TablesStayRising and OtpNeverForgets: the invariants hold of a state in which work stands, and its step answers. -/
theorem test_witness_invariants : CanonicalMem s0.dev ∧ RisingTables s0.dev ∧ ∃ t, step { s0 with pending := [.iadd r0 e0] } = .next t :=
  ⟨test_canonical.1, test_rising, _, rfl⟩

theorem test_witness_StepRunsFrontCommand : ({ s0 with pending := [.roundTick 0] } : State).pending = .roundTick 0 :: [] ∧ s0.pending = [] := ⟨rfl, rfl⟩

/-! Words of 03 Table 3-13, written out there. -/

theorem test_word_icmp : insWord 0x0D { e0 with x := true, a := 10, md := 0x8A, aux := 2, ext := 0x64 } = 0x8D000A00008A0002 := by decide
theorem test_word_bra : insWord 0x60 { e0 with x := true, guard := 0x1A, ext := 0x0000000700000005 } = 0xE00000000000D000 := by decide
theorem test_word_ffma : insWord 0x13 { e0 with d := 8, a := 4, b := 5, c := 8, ha := true } = 0x1308040508000200 := by decide
theorem test_word_fmul : insWord 0x12 { e0 with x := true, d := 8, a := 8, md := 0x80, ext := 0x3F000000 } = 0x9208080000800000 := by decide

/-! Ill-formed commands are refused, one for each check, and well-formed ones are not. -/

theorem test_wf_shorek :
    (Instr.nop r0 e0).wf = true ∧ (Instr.nop ⟨8, 0, 0, 0⟩ e0).wf = false ∧ (Instr.nop ⟨0, 40, 0, 0⟩ e0).wf = false ∧ (Instr.nop ⟨0, 0, 4, 0⟩ e0).wf = false
    ∧ (Instr.nop ⟨0, 0, 0, 16⟩ e0).wf = false ∧ (Instr.nop r0 { e0 with ext := 1 }).wf = false ∧ (Instr.plaitRetire ⟨8, 0, 0, 0⟩).wf = false
    ∧ (Instr.undefinedEncoding r0 0x7F { e0 with ext := 1 }).wf = false ∧ (Instr.cpyComplete r0 16).wf = false ∧ (Instr.clusterStopIssue 64).wf = false := by decide

theorem test_wf_engines :
    (Instr.workGroupStart 1023 65535 7 39).wf = true ∧ (Instr.workGroupStart 1024 0 0 0).wf = false ∧ (Instr.workGroupStart 0 65536 0 0).wf = false
    ∧ (Instr.workGroupStart 0 0 8 0).wf = false ∧ (Instr.plaitStateSave 0 40).wf = false ∧ (Instr.matmul ⟨0, 0, 4⟩).wf = false ∧ (Instr.chMov ⟨0, 40, 0⟩).wf = false
    ∧ (Instr.ctxCreate 16 0).wf = false ∧ (Instr.ack 64 0).wf = false ∧ (Instr.launch 1024 0).wf = false ∧ (Instr.roundTick 8).wf = false := by decide

theorem test_wf_memory :
    (Instr.scrubPass 0 2 []).wf = false ∧ (Instr.scrubPass 0 0 [⟨805306368, 0, 0, 0, true⟩]).wf = false ∧ (Instr.rowRepairComplete 8 0 0).wf = false
    ∧ (Instr.retrainWindowEnd 0 2).wf = false ∧ (Instr.farArm 8 0 0).wf = false ∧ (Instr.lendArm 0 16 0).wf = false ∧ (Instr.mempProbe 8 0).wf = false
    ∧ (Instr.memReqRetry 4294967296).wf = false ∧ (Instr.registerWrite 0 16 0).wf = false ∧ (Instr.registerWrite 0 32 0).wf = true := by decide

theorem test_wf_fabric :
    (Instr.frameRx 6 [] false).wf = false ∧ (∀ row ∈ pktRows, (row.2 5 (pkt0 row.1 [] [] [])).wf = true ∧ (row.2 15 (pkt0 row.1 [] [] [])).wf = true
      ∧ (row.2 6 (pkt0 row.1 [] [] [])).wf = false ∧ (row.2 5 (pkt0 0x7F [] [] [])).wf = false) ∧ (Instr.snapDone 5 (pkt0 0x35 [] [] [])).wf = false
    ∧ (Instr.helloTimer 6).wf = false ∧ (Instr.probeTimeout 4096).wf = false ∧ (Instr.collJoinTimeout 64).wf = false ∧ (Instr.laneLockLoss 0 9).wf = false
    ∧ (Instr.laneThreshCheck 0 []).wf = false ∧ (Instr.retrain 6 0).wf = false ∧ (Instr.groupArm 64 0).wf = false ∧ (Instr.swap 8 0).wf = false := by decide

theorem test_wf_system :
    (Instr.ptcInterval ⟨0, 0, 0, 0, List.replicate 9 0, 0, 0, 0, [], [], 0⟩).wf = false ∧ (Instr.droopDetect 8 0 0).wf = false ∧ (Instr.criticalShutdown 9 0).wf = false
    ∧ (Instr.ibcFail 4).wf = false ∧ (Instr.ps3Wake 128).wf = false ∧ (Instr.pllLockLost 25).wf = false ∧ (Instr.blockRelease 10).wf = false ∧ (Instr.blockRelease 41).wf = false
    ∧ (Instr.dramTrainingDone [16]).wf = false ∧ (Instr.selfTestDone ⟨[(0, 40)], []⟩).wf = false ∧ (Instr.selfTestDone ⟨[], [8]⟩).wf = false
    ∧ (Instr.statusProbe ⟨65536, []⟩).wf = false ∧ (Instr.getVersion 2 []).wf = false ∧ (Instr.pcieInboundRequest ⟨0xFFFFFFFFFFFFFFFF, false, 2, []⟩).wf = false
    ∧ (Instr.debugUnlock []).wf = false ∧ (Instr.controlSoftwareAccess ⟨17, true, 0, 0, false, 8, []⟩).wf = false ∧ (Instr.pcieLinkUp 3 1).wf = false
    ∧ (Instr.debugCoreHalt 16 true).wf = false ∧ Instr.powerUp.wf = true := by decide

end Sys2Proof.Tests
end

section
/-! SUPPORT. The size tables against HID_LAYOUT (01 R34): HID_LAYOUT.PART_VALID is a sum of powers of two, so its bits are the
partitions that exist, and a size table that no partition holds reads as zeros. -/

namespace Sys2Proof.Proofs

open Sys2Proof Sys2Proof.Machine Sys2Proof.Safety

/-! Fields of a register, bit by bit. -/

theorem getLsbD_fld (lo len v i : Nat) : (fld lo len v).getLsbD i = (decide (i < 64) && (decide (lo ≤ i) && (decide (i - lo < len) && v.testBit (i - lo)))) := by
  rw [fld, BitVec.getLsbD_ofNat, Nat.testBit_shiftLeft, Nat.testBit_mod_two_pow]

theorem getLsbD_foldl_or {α : Type} {w : Nat} (g : α → BitVec w) (l : List α) (a : BitVec w) (i : Nat) :
    (l.foldl (fun v x => v ||| g x) a).getLsbD i = (a.getLsbD i || l.any (fun x => (g x).getLsbD i)) := by
  induction l generalizing a with
  | nil => rw [List.foldl_nil, List.any_nil, Bool.or_false]
  | cons x l ih => rw [List.foldl_cons, ih, BitVec.getLsbD_or, List.any_cons, Bool.or_assoc]

/-- A bit of a register is set where one of its fields sets it. -/
theorem getLsbD_flds (l : List (Nat × Nat × Nat)) (i : Nat) : (flds l).getLsbD i = l.any (fun f => (fld f.1 f.2.1 f.2.2).getLsbD i) := by
  rw [flds, getLsbD_foldl_or, BitVec.ofNat_eq_ofNat, BitVec.getLsbD_zero, Bool.false_or]

/-! The powers of two of a rising table's indices. -/

theorem two_pow_dvd_sum_above {α : Type} {t : Tbl α} {j : Nat} (h : ∀ x ∈ t, j < x.1) : 2 ^ (j + 1) ∣ (t.map (fun (kv : Nat × α) => 2 ^ kv.1)).sum := by
  induction t with
  | nil => exact Nat.dvd_zero _
  | cons x t ih =>
    rw [List.map_cons, List.sum_cons]
    have hx : j + 1 ≤ x.1 := h x List.mem_cons_self
    exact Nat.dvd_add (Nat.pow_dvd_pow 2 hx) (ih fun y hy => h y (List.mem_cons_of_mem x hy))

/-- The first power lies below all the others, so it adds without a carry: the sum's bits are the indices listed. -/
theorem testBit_sum_two_pow_keys {α : Type} {t : Tbl α} (hr : Rising t) (k : Nat) :
    (t.map (fun (kv : Nat × α) => 2 ^ kv.1)).sum.testBit k = (t.get? k).isSome := by
  induction t with
  | nil => exact Nat.zero_testBit k
  | cons x t ih =>
    obtain ⟨j, v⟩ := x
    obtain ⟨habove, hr⟩ := hr
    obtain ⟨a, ha⟩ := two_pow_dvd_sum_above habove
    have hlow : 2 ^ j < 2 ^ (j + 1) := Nat.pow_lt_pow_succ (by omega)
    have hor : 2 ^ (j + 1) * a + 2 ^ j = 2 ^ (j + 1) * a ||| 2 ^ j := Nat.two_pow_add_eq_or_of_lt hlow a
    rw [List.map_cons, List.sum_cons, Nat.add_comm, ha, hor, Nat.testBit_or, ← ha, ih hr, Nat.testBit_two_pow, Tbl.get?]
    by_cases h : j = k
    · rw [if_pos h, decide_eq_true h, Bool.or_true, Option.isSome_some]
    · rw [if_neg h, decide_eq_false h, Bool.or_false]

/-! The two registers. -/

theorem regRead_layout (s : State) : s.regRead 0x18 =
    flds [(24, 8, s.dev.hid.layoutGen.toNat), (16, 3, s.dev.hid.overlay), (0, 8, (s.dev.parts.map (fun kv => 2 ^ kv.1)).sum)] := rfl

/-- Bit p of HID_LAYOUT.PART_VALID says whether partition p exists (01 Table 1-9). -/
theorem getLsbD_partValid (s : State) {p : Nat} (hp : p < 8) (hr : Rising s.dev.parts) :
    (s.regRead 0x18).getLsbD p = (s.dev.parts.get? p).isSome := by
  have h64 : p < 64 := by omega
  have h16 : ¬ 16 ≤ p := by omega
  have h24 : ¬ 24 ≤ p := by omega
  simp only [regRead_layout, getLsbD_flds, List.any_cons, List.any_nil, getLsbD_fld]
  simp [testBit_sum_two_pow_keys hr, hp, h64, h16, h24]

theorem regBlk_hid {off : Nat} (h : off < 0x100000) : regBlk off = (.hid, off) := by
  have hlow : ¬ 0x10000000 ≤ off := by omega
  have hblk : off / 0x100000 = 0 := by omega
  simp only [regBlk, hlow, if_false, hblk, Nat.mod_eq_of_lt h]

/-- The window of the size tables, entry by entry (01 R29, R31). -/
theorem regRead_sizeTable (s : State) {p o : Nat} (hp : p < 8) (ho : o < 0x100) (ha : o % 8 = 0) :
    s.regRead (0x1000 + 0x100 * p + o) = s.dev.sztE p (o / 8) := by
  have hwin : inRegs 0x1000 8 256 (0x1000 + 0x100 * p + o) = true := by simp [inRegs]; omega
  have hpart : (0x1000 + 0x100 * p + o - 0x1000) / 0x100 = p := by omega
  have hentry : (0x1000 + 0x100 * p + o) % 0x100 = o := by omega
  have hne (k : Nat) (hk : k < 0x1000) : ¬ 0x1000 + 0x100 * p + o = k := by omega
  rw [State.regRead, regBlk_hid (by omega)]
  simp only [State.blkRead, State.hidRead, hne 0 (by omega), hne 0x08 (by omega), hne 0x10 (by omega), hne 0x18 (by omega), hne 0x20 (by omega),
    if_false, hwin, if_true, hpart, hentry]

theorem sztE_of_absent {d : Dev} {p : Nat} (h : d.parts.get? p = none) (j : Nat) : d.sztE p j = 0 := by simp [Dev.sztE, h]

/-- Settles O56: a clear PART_VALID bit says that the partition does not exist, and then every entry of its size table is zero. -/
theorem sizeTableZeroWhileAbsent : Obligations.SizeTableZeroWhileAbsent := by
  intro s p o hp ho ha hr hbit
  have habsent : s.dev.parts.get? p = none := by simpa [getLsbD_partValid s hp hr] using hbit
  rw [regRead_sizeTable s hp ho ha, sztE_of_absent habsent]

end Sys2Proof.Proofs
end

section
/-! SUPPORT. The fault record of a context (02 R92): the operations under a fault or a retirement that leave all contexts as they are, and
those that change contexts but no fault record. -/

namespace Sys2Proof.Proofs

open Sys2Proof Sys2Proof.Machine Sys2Proof.Safety Sys2Proof.Laws

/-! Operations that leave every context as it is. -/

/-- What every step of a chain leaves as it is, the chain leaves. -/
theorem foldl_keeps {α β : Type} (g : Dev → β) {f : Dev → α → Dev} (h : ∀ d a, g (f d a) = g d) (l : List α) (d : Dev) : g (l.foldl f d) = g d := by
  induction l generalizing d with
  | nil => rfl
  | cons a l ih => rw [List.foldl_cons, ih, h]

@[simp] theorem spend_obj (t c k n : Nat) (d : Dev) : (Dev.spend t c k n d).obj = d.obj := by rw [spend_frame]

@[simp] theorem dramWrite_obj (d : Dev) (a : Nat) (l : List W8) : (d.dramWrite a l).obj = d.obj := by rw [dramWrite_frame]

@[simp] theorem route_obj (d : Dev) (fwd : Bool) (arr : Option Nat) (k : Pkt) : (d.route fwd arr k).obj = d.obj := by
  unfold Dev.route
  dsimp only
  split
  · split <;> rfl
  · rfl

@[simp] theorem send_obj (d : Dev) (ty dm dp sp : Nat) (tag : W32) (args : BitVec 128) (data : List W8) :
    (d.send ty dm dp sp tag args data).obj = d.obj := by
  unfold Dev.send
  dsimp only
  split
  · rfl
  · split
    · rfl
    · exact route_obj ..

@[simp] theorem memReq_obj (d : Dev) (part entry dest ty : Nat) (args : BitVec 128) (data : List W8) (why : MemWhy) :
    (d.memReq part entry dest ty args data why).obj = d.obj := by
  simp [Dev.memReq, Dev.hoopSpend]

@[simp] theorem updSub_ctxs (d : Dev) (o : Nat × Nat) (f : Sub → Sub) : (d.updSub o f).obj.ctxs = d.obj.ctxs := rfl

@[simp] theorem updMemp_obj (d : Dev) (p : Nat) (f : Memp → Memp) : (d.updMemp p f).obj = d.obj := rfl

@[simp] theorem loadAt_obj (a n : Nat) (d : Dev) : (Dev.loadAt a n d).obj = d.obj := by
  unfold Dev.loadAt
  exact (foldl_keeps Dev.obj (by intros; rfl) _ _).trans (foldl_keeps Dev.obj (by intros; rfl) _ _)

theorem pageOut_ctxs {d d' : Dev} {p : Nat} (h : d.pageOut p = some d') : d'.obj.ctxs = d.obj.ctxs := by
  unfold Dev.pageOut at h
  split at h
  · cases h
  · split at h
    · cases h
    · split at h
      · cases h
        simp
      · cases h

theorem makeRoom_ctxs {d d' : Dev} {p n : Nat} (h : d.makeRoom p n = some d') : d'.obj.ctxs = d.obj.ctxs := by
  unfold Dev.makeRoom at h
  dsimp only at h
  split at h
  · cases h; rfl
  · split at h
    · next hout => cases h; exact pageOut_ctxs hout
    · split at h
      · cases h
      · cases h; rfl

theorem pageIn_ctxs {d d' : Dev} {c p t : Nat} {o : Nat × Nat} {demand : Bool} (h : d.pageIn c p o t demand = some d') :
    d'.obj.ctxs = d.obj.ctxs := by
  unfold Dev.pageIn at h
  split at h
  · split at h
    · cases h
    · cases h
      simp [Dev.dropBlocks, Dev.takeSub]
  · cases h

@[simp] theorem drainFar_ctxs (d : Dev) (p : Nat) : (d.drainFar p).obj.ctxs = d.obj.ctxs := by
  unfold Dev.drainFar
  split
  · rfl
  · refine foldl_keeps (fun d => d.obj.ctxs) (fun d kv => ?_) _ d
    dsimp only
    rw [apply_ite (fun d : Dev => d.obj.ctxs), memReq_obj, updMemp_obj, ite_self]
    refine foldl_keeps (fun d => d.obj.ctxs) (fun d s => ?_) _ d
    split
    · next hin => exact pageIn_ctxs hin
    · cases hroom : d.makeRoom p _ with
      | none => rfl
      | some d' => exact makeRoom_ctxs hroom

@[simp] theorem freeBacking_obj (d : Dev) (p : Nat) (s : Sub) : (d.freeBacking p s).obj = d.obj := by
  unfold Dev.freeBacking
  cases s.st <;> rfl

theorem takePt_obj {d d' : Dev} {p n : Nat} {l : List Nat} (h : d.takePt p n = some (l, d')) : d'.obj = d.obj := by
  induction n generalizing d l with
  | zero => cases h; rfl
  | succ n ih =>
    unfold Dev.takePt at h
    split at h
    · cases h
    · split at h
      · cases h
      · next hrest => cases h; exact (ih hrest).trans rfl

@[simp] theorem unpin_ctxs (d : Dev) (l : List (Nat × Nat)) : (d.unpin l).obj.ctxs = d.obj.ctxs :=
  foldl_keeps (fun d => d.obj.ctxs) (by intros; rfl) l d

@[simp] theorem dropFetcher_ctxs (d : Dev) (q i : Nat) : (d.dropFetcher q i).obj.ctxs = d.obj.ctxs :=
  foldl_keeps (fun d => d.obj.ctxs) (by intros; rfl) _ d

@[simp] theorem reapFence_ctxs (d : Dev) (s : Nat) : (d.reapFence s).obj.ctxs = d.obj.ctxs := by
  unfold Dev.reapFence
  split
  · split <;> rfl
  · rfl

@[simp] theorem reapQueue_ctxs (d : Dev) (q : Nat) : (d.reapQueue q).obj.ctxs = d.obj.ctxs := by
  unfold Dev.reapQueue
  split
  · split <;> rfl
  · rfl

@[simp] theorem updRounds_obj (d : Dev) (p : Nat) (f : Rounds → Rounds) : (d.updRounds p f).obj = d.obj := rfl

@[simp] theorem updCmd_ctxs (d : Dev) (q i : Nat) (f : Cmd → Cmd) : (d.updCmd q i f).obj.ctxs = d.obj.ctxs := rfl

@[simp] theorem discardOps_ctxs (d : Dev) (f : Nat → Nat → Nat → Bool) (g : Nat → Bool) : (d.discardOps f g).obj.ctxs = d.obj.ctxs :=
  unpin_ctxs d _

@[simp] theorem discard_ctxs (d : Dev) (f : Nat → Nat → Nat → Bool) (g : Nat → Bool) : (d.discard f g).obj.ctxs = d.obj.ctxs :=
  discardOps_ctxs d f g

@[simp] theorem endStop_ctxs (d : Dev) (z : FaultStop) : (d.endStop z).obj.ctxs = d.obj.ctxs := discard_ctxs _ _ _

@[simp] theorem spent_ctxs (d : Dev) (pk : Nat) (p : Plait) : (d.spent pk p).obj.ctxs = d.obj.ctxs := by
  unfold Dev.spent
  split
  · rfl
  · dsimp only
    split
    · exact endStop_ctxs _ _
    · rfl

@[simp] theorem stopHere_ctxs (d : Dev) (ck c : Nat) (cmd : Option (Nat × Nat)) (by_ : Option Nat) :
    (d.stopHere ck c cmd by_).obj.ctxs = d.obj.ctxs := by
  unfold Dev.stopHere
  dsimp only
  rw [apply_ite (fun d : Dev => d.obj.ctxs), endStop_ctxs, ite_self]
  dsimp only
  rw [discardOps_ctxs]

@[simp] theorem stopAt_ctxs (d : Dev) (c : Nat) (cmd : Option (Nat × Nat)) (here : FaultAt) :
    (d.stopAt c cmd here).obj.ctxs = d.obj.ctxs := by
  cases here with
  | none => rfl
  | some h => exact stopHere_ctxs d _ _ _ _

@[simp] theorem withdraw_ctxs (d : Dev) (q i : Nat) : (d.withdraw q i).obj.ctxs = d.obj.ctxs := by
  refine foldl_keeps (fun d => d.obj.ctxs) (fun d kv => ?_) d.cole.groups d
  dsimp only
  split
  · rfl
  · exact foldl_keeps (fun d => d.obj.ctxs) (fun d m => by rw [send_obj]) _ d

@[simp] theorem sendRank_obj (d : Dev) (p : Nat) (w : Wg) (r ty : Nat) (l : List (Nat × Nat)) (data : List W8) :
    (d.sendRank p w r ty l data).obj = d.obj := by
  simp [Dev.sendRank, Dev.hoopSpend]

@[simp] theorem sendRanks_obj (d : Dev) (p : Nat) (w : Wg) (rs : List Nat) (ty : Nat) (l : List (Nat × Nat)) :
    (d.sendRanks p w rs ty l).obj = d.obj :=
  foldl_keeps Dev.obj (by intro d r; exact sendRank_obj ..) rs d

@[simp] theorem updWg_obj (d : Dev) (p : Nat) (f : Wg → Wg) : (d.updWg p f).obj = d.obj := rfl

@[simp] theorem setMember_obj (d : Dev) (w : Wg) (r v : Nat) : (d.setMember w r v).obj = d.obj := dramWrite_obj ..

@[simp] theorem ownLoss_ctxs (d : Dev) (p : Nat) : (d.ownLoss p).obj.ctxs = d.obj.ctxs := by
  unfold Dev.ownLoss
  dsimp only
  split
  · rfl
  · rw [sendRanks_obj, updWg_obj, setMember_obj]

@[simp] theorem metBad_ctxs (d : Dev) (c va n : Nat) : (d.metBad c va n).obj.ctxs = d.obj.ctxs := by
  unfold Dev.metBad
  split
  · rfl
  · refine foldl_keeps (fun d => d.obj.ctxs) (fun d r => ?_) _ d
    split
    · exact foldl_keeps (fun d => d.obj.ctxs) (by intros; rfl) _ d
    · rfl

@[simp] theorem foundBad_ctxs (d : Dev) (pk : Nat) (p : Plait) (op : Nat) (e : Enc) (addr : W64) :
    (d.foundBad pk p op e addr).obj.ctxs = d.obj.ctxs := by
  unfold Dev.foundBad
  split
  · rfl
  · exact metBad_ctxs ..

@[simp] theorem failFences_ctxs (d : Dev) (c : Nat) : (d.failFences c).obj.ctxs = d.obj.ctxs := rfl

/-! Operations that leave the fault record of every context as it is. -/

/-- The fault record that a context holds (02 R92). -/
def faultOf (c : Nat) (d : Dev) : Option FaultRec := (d.obj.ctxs.get? c).bind (fun x => x.fault)

theorem faultOf_congr {d d' : Dev} (c : Nat) (h : d'.obj.ctxs = d.obj.ctxs) : faultOf c d' = faultOf c d := by rw [faultOf, faultOf, h]

/-- A change of a context that leaves its record alone. -/
theorem faultOf_updCtx (c : Nat) (d : Dev) (k : Nat) {f : Ctx → Ctx} (hf : ∀ x, (f x).fault = x.fault) : faultOf c (d.updCtx k f) = faultOf c d := by
  simp only [faultOf, updCtx_obj_ctxs]
  by_cases h : c = k
  · subst h
    rw [get?_upd_self]
    cases d.obj.ctxs.get? c with
    | none => rfl
    | some x => exact hf x
  · rw [get?_upd_other _ _ h]

theorem faultOf_setPages {c k : Nat} {d d' : Dev} {pages : Tbl Page} (h : d.setPages k pages = .ok d') : faultOf c d' = faultOf c d := by
  unfold Dev.setPages at h
  split at h
  · cases h; rfl
  · dsimp only at h
    split at h
    · cases h
      exact (faultOf_updCtx c _ k (by intro x; rfl)).trans (foldl_keeps (faultOf c) (by intros; rfl) _ d)
    · split at h
      · cases h
      · next hpt =>
        cases h
        exact (faultOf_updCtx c _ k (by intro x; rfl)).trans (faultOf_congr c (by rw [takePt_obj hpt]))

@[simp] theorem faultOf_unmap (c : Nat) (d : Dev) (k m : Nat) : faultOf c (d.unmap k m) = faultOf c d := by
  unfold Dev.unmap
  split
  · rfl
  · dsimp only
    split
    · next hset => rw [← faultOf_setPages (c := c) hset]; rfl
    · rfl

@[simp] theorem faultOf_freeMobj (c : Nat) (d : Dev) (m : Nat) : faultOf c (d.freeMobj m) = faultOf c d := by
  unfold Dev.freeMobj
  split
  · rfl
  · have hunmap (l : List Mapping) (d : Dev) : faultOf c (l.foldl (fun d a => d.unmap a.ctx m) d) = faultOf c d :=
      foldl_keeps (faultOf c) (fun d a => faultOf_unmap c d a.ctx m) l d
    have hback (p : Nat) (l : Tbl Sub) (d : Dev) : faultOf c (l.foldl (fun d s => d.freeBacking p s.2) d) = faultOf c d :=
      foldl_keeps (faultOf c) (fun d s => faultOf_congr c (by rw [freeBacking_obj])) l d
    rw [faultOf, drainFar_ctxs]
    dsimp only
    rw [get?_mapV, Option.bind_map]
    exact (foldl_keeps (faultOf c) (by intros; rfl) _ _).trans ((hback _ _ _).trans (hunmap _ _))

@[simp] theorem faultOf_reapMobj (c : Nat) (d : Dev) (m : Nat) : faultOf c (d.reapMobj m) = faultOf c d := by
  unfold Dev.reapMobj
  split
  · split
    · exact faultOf_freeMobj c d m
    · rfl
  · rfl

@[simp] theorem faultOf_retire (c : Nat) (d : Dev) (q i code : Nat) : faultOf c (d.retire q i code) = faultOf c d := by
  unfold Dev.retire
  split
  · split
    · rfl
    · simp only [faultOf, reapQueue_ctxs, updQueue_obj_ctxs, updCmd_ctxs, updRounds_obj, apply_ite (fun d : Dev => d.obj.ctxs), ite_self]
      rw [foldl_keeps (fun d : Dev => d.obj.ctxs) (by intros; rfl)]
      simp only [dropFetcher_ctxs, reapFence_ctxs, updFence_obj_ctxs, apply_ite (fun d : Dev => d.obj.ctxs), ite_self]
      refine (foldl_keeps (faultOf c) (by intro d h; exact faultOf_reapMobj c _ _) _ _).trans (faultOf_congr c ?_)
      simp only [unpin_ctxs, updFence_obj_ctxs, dramWrite_obj, apply_ite (fun d : Dev => d.obj.ctxs), ite_self]
  · rfl

@[simp] theorem faultOf_stopCmd (c : Nat) (d : Dev) (q i code : Nat) : faultOf c (d.stopCmd q i code) = faultOf c d := by
  unfold Dev.stopCmd
  split
  · rfl
  · exact faultOf_retire c d q i code

@[simp] theorem faultOf_reapStopped (c : Nat) (d : Dev) : faultOf c d.reapStopped = faultOf c d :=
  foldl_keeps (faultOf c) (by intro d t; exact faultOf_retire c d _ _ _) _ d

theorem faultOf_loseCtx (c : Nat) (d : Dev) (k : Nat) (why : Option (Nat × Nat × Nat)) (here : FaultAt) :
    faultOf c (d.loseCtx k why here) = faultOf c d := by
  unfold Dev.loseCtx
  split
  · rfl
  · dsimp only
    split
    · split
      · rw [faultOf_reapStopped]
        exact faultOf_congr c (stopAt_ctxs ..)
      · rfl
    · refine (foldl_keeps (faultOf c) (by
        intro d t
        exact (faultOf_stopCmd c _ _ _ _).trans (faultOf_congr c (withdraw_ctxs d _ _))) _ _).trans ?_
      refine (faultOf_congr c ?_).trans (faultOf_updCtx c d k (f := fun x => { x with st := .lost }) (by intro x; rfl))
      rw [stopAt_ctxs]
      dsimp only
      rw [failFences_ctxs, apply_ite (fun d : Dev => d.obj.ctxs), ownLoss_ctxs, ite_self, event_obj]

theorem faultOf_failCmd (c : Nat) (d : Dev) (k q i code : Nat) (here : FaultAt) :
    faultOf c (d.failCmd k q i code here) = faultOf c d := by
  unfold Dev.failCmd
  split
  · rfl
  · split
    · rw [faultOf_stopCmd]
      exact faultOf_congr c (by rw [withdraw_ctxs, stopAt_ctxs])
    · exact faultOf_loseCtx c d k _ here

/-- The first fault of a context is recorded as it is (02 R92). -/
theorem faultOf_faultCmd_first {c : Nat} {d : Dev} {x : Ctx} (q i : Nat) (f : FaultRec) (m : Option MemFault) (here : FaultAt)
    (hx : d.obj.ctxs.get? c = some x) (hfree : x.fault = none) : faultOf c (d.faultCmd c q i f m here) = some f := by
  unfold Dev.faultCmd
  dsimp only
  rw [faultOf_failCmd, faultOf, updCtx_obj_ctxs, get?_upd_self, hx]
  simp [Ctx.record, hfree]

/-- The record of a context's first strand fault names the code and the plait's program counter (02 Table 2-7). -/
theorem faultOf_strandFault {d : Dev} {p : Plait} {x : Ctx} (pk : Nat) (ins ext : W64) (code : Nat) (mask : W32) (addr : W64) (m : Option MemFault)
    (hx : d.obj.ctxs.get? p.ctx = some x) (hfree : x.fault = none) :
    ∃ f, faultOf p.ctx (d.strandFault pk p ins ext code mask addr m) = some f ∧ f.code = code ∧ f.pc = p.pc :=
  ⟨_, faultOf_faultCmd_first p.q p.i _ m _ hx hfree, rfl, rfl⟩

theorem firstFault_iff {t : State} {p : Plait} {code : Nat} : FirstFault t p code ↔ ∃ f, faultOf p.ctx t.dev = some f ∧ f.code = code ∧ f.pc = p.pc := by
  simp only [FirstFault, faultOf, Option.bind_eq_some_iff]
  constructor
  · rintro ⟨x, f, hx, hf, hc⟩
    exact ⟨f, ⟨x, hx, hf⟩, hc⟩
  · rintro ⟨f, ⟨x, hx, hf⟩, hc⟩
    exact ⟨x, f, hx, hf, hc⟩

end Sys2Proof.Proofs
end

section
/-! SUPPORT. What an instruction that issues leads to, by the outcome of its operation: a changed plait, a jump, the first fault of its context. -/

namespace Sys2Proof.Proofs

open Sys2Proof Sys2Proof.Machine Sys2Proof.Safety Sys2Proof.Laws

variable {op : Nat} {r : PlaitRef} {e : Enc} {s : State} {p : Plait} {body : Dev → Nat → Plait → InsRes}

/-- An operation that faults is the first fault of a context without a record (02 R90 to R92). -/
theorem runIns_firstFault {code : Nat} {mask : W32} {addr : W64} {m : Option MemFault} (h : Issuing op r e s p) (hu : Unfaulted s p)
    (hbody : body s.dev (pkey r) { p with stall := .none } = .fault code mask addr m) (hmask : mask ≠ 0) :
    FirstFault { s with dev := runIns op body r e s.dev } p code := by
  obtain ⟨x, hx, hfree⟩ := hu
  rw [firstFault_iff, runIns_issuing body h, hbody]
  dsimp only
  rw [if_neg (by simpa using hmask), faultOf_congr _ (spent_ctxs _ _ _)]
  refine faultOf_strandFault (p := { p with stall := .none }) _ _ _ _ _ _ _ ?_ hfree
  rw [apply_ite (fun d : Dev => d.obj.ctxs), foundBad_ctxs, ite_self]
  exact hx

/-- An operation that only changes its plait does what a register instruction does: the plait goes on to the next instruction. -/
theorem runIns_done {q : Plait} (h : Issuing op r e s p) (hbody : body s.dev (pkey r) { p with stall := .none } = .done s.dev q) :
    PlaitOnly r s { s with dev := runIns op body r e s.dev }
    ∧ PlaitThen r { s with dev := runIns op body r e s.dev } (· = ({ q with pc := q.pc + insLen e }).settle.healed p op e) := by
  have hreg : runIns op body r e s.dev = runReg op (fun _ _ => q) r e s.dev := by
    rw [runReg, runIns_issuing _ h, runIns_issuing _ h, hbody]
  rw [hreg]
  exact ⟨runReg_plaitOnly _ h, runReg_plaitThen _ h rfl⟩

/-- A plait that issues has an active strand (02 R48). -/
theorem active_ne_zero_of_issuing (h : Issuing op r e s p) : p.active ≠ 0 := by
  obtain ⟨-, hready, -⟩ := h
  simp only [Dev.ready, Bool.and_eq_true, bne_iff_ne] at hready
  obtain ⟨⟨⟨⟨⟨-, hactive⟩, -⟩, -⟩, -⟩, -⟩ := hready
  exact hactive

/-- The plait after a jump: it follows the join points from where it jumped to. -/
theorem runIns_jump_plait {q : Plait} (h : Issuing op r e s p) (hbody : body s.dev (pkey r) { p with stall := .none } = .jump s.dev q) :
    (runIns op body r e s.dev).plaits.get? (pkey r) = some (q.settle.healed p op e) := by
  have ⟨_, _, _, _, _, hstop⟩ := h
  rw [runIns_issuing body h, hbody]
  dsimp only
  rw [issued_eq (s.dev.setPlait (pkey r) _) op e hstop, counted_plaits, setPlait_plaits, get?_set_self]

end Sys2Proof.Proofs
end

section
/-! SUPPORT. Regions: entry, exit, and group-wide instructions outside one (02 R58 to R60; 03 R126). -/

namespace Sys2Proof.Proofs

open Sys2Proof Sys2Proof.Machine Sys2Proof.Safety Sys2Proof.Laws

section

variable {op : Nat} {r : PlaitRef} {e : Enc} {s : State} {p : Plait}

/-- An unguarded instruction is executed by every active strand (03 Table 3-2). -/
theorem parts_of_unguarded (p : Plait) {e : Enc} (h : e.guard = 0) : p.parts e = p.active := by
  have hall : (0xFFFFFFFF#32) = BitVec.allOnes 32 := by decide
  simp only [Plait.parts, Plait.guardMask, h]
  exact (congrArg (p.active &&& ·) hall).trans (BitVec.and_allOnes ..)

theorem shape_ok_of_encOk {alloc : Nat} (h : encOk op e alloc = true) : (shape op e).ok = true := by
  simp only [encOk, Bool.and_eq_true] at h
  obtain ⟨⟨⟨⟨⟨⟨hok, -⟩, -⟩, -⟩, -⟩, -⟩, -⟩ := h
  exact hok

/-- RGN.ENTER and RGN.EXIT require GUARD = 0, so some strand executes them where they issue. -/
theorem parts_ne_zero_of_region (hop : op = 0x5B ∨ op = 0x5C) (h : Issuing op r e s p) : p.parts e ≠ 0 := by
  have hok : (e.md == 0 && e.aux == 0 && e.guard == 0) = true := by
    obtain ⟨-, -, -, henc, -⟩ := h
    rcases hop with rfl | rfl <;> exact shape_ok_of_encOk henc
  have hguard : e.guard = 0 := beq_iff_eq.1 (Bool.and_eq_true_iff.1 hok).2
  rw [parts_of_unguarded p hguard]
  exact active_ne_zero_of_issuing h

/-- Entry of an undivided plait records the active mask, and the plait goes on: its mask stack is empty, so no join point stands there. -/
theorem rgnEnter_opens (h : Issuing 0x5B r e s p) (hout : p.region = none) (hstack : p.stack = []) (hlive : p.active = p.live) :
    Runs (.rgnEnter r e) s fun t => PlaitOnly r s t ∧ PlaitThen r t fun p' => p' = { p with region := some p.active, pc := p.pc + insLen e, stall := .none } := by
  have hbody : rgnEnterIns e s.dev (pkey r) { p with stall := .none } = .done s.dev { p with region := some p.active, stall := .none } := by
    simp [rgnEnterIns, hout, hstack, hlive]
  obtain ⟨honly, _, hp', rfl⟩ := runIns_done h hbody
  refine ⟨_, rfl, honly, _, hp', ?_⟩
  rw [healed_none _ _ rfl]
  have hactive := active_ne_zero_of_issuing h
  exact settle_stay hactive (by simp [hstack])

/-- Exit closes the region, and the plait goes on where no join point stands. -/
theorem rgnExit_closes (h : Issuing 0x5C r e s p) (hin : p.region ≠ none) :
    Runs (.rgnExit r e) s fun t => PlaitOnly r s t ∧ PlaitThen r t fun p' =>
      p' = { p with region := none, pc := p'.pc, active := p'.active, stack := p'.stack, stall := .none } ∧ GoesOn e p p' := by
  have hbody : rgnExitIns e s.dev (pkey r) { p with stall := .none } = .done s.dev { p with region := none, stall := .none } := by
    simp [rgnExitIns, hin]
  obtain ⟨honly, _, hp', rfl⟩ := runIns_done h hbody
  refine ⟨_, rfl, honly, _, hp', ?_⟩
  rw [healed_none _ _ rfl]
  refine ⟨settle_frame _, fun hjoin => ?_⟩
  have hactive := active_ne_zero_of_issuing h
  rw [settle_stay (p := { p with region := none, pc := p.pc + insLen e, stall := .none }) hactive hjoin]
  exact ⟨rfl, rfl, rfl⟩

theorem rgnEnter_diverged (h : Issuing 0x5B r e s p) (hu : Unfaulted s p) (hout : p.region = none) (hdiv : p.stack ≠ [] ∨ p.active ≠ p.live) :
    Runs (.rgnEnter r e) s fun t => FirstFault t p 0x20 := by
  have hbody : rgnEnterIns e s.dev (pkey r) { p with stall := .none } = .fault cDiverged (p.parts e) 0 none := by
    have hcond : (!p.stack.isEmpty || p.active != p.live) = true := by simpa using hdiv
    simp only [rgnEnterIns, hout, Option.isSome_none, Bool.false_eq_true, if_false, hcond, if_true]
    rfl
  exact ⟨_, rfl, runIns_firstFault h hu hbody (parts_ne_zero_of_region (.inl rfl) h)⟩

theorem rgnEnter_inside (h : Issuing 0x5B r e s p) (hu : Unfaulted s p) (hin : p.region ≠ none) :
    Runs (.rgnEnter r e) s fun t => FirstFault t p 0x21 := by
  have hbody : rgnEnterIns e s.dev (pkey r) { p with stall := .none } = .fault cIllegal (p.parts e) 0 none :=
    if_pos (Option.isSome_iff_ne_none.2 hin)
  exact ⟨_, rfl, runIns_firstFault h hu hbody (parts_ne_zero_of_region (.inl rfl) h)⟩

theorem rgnExit_outside (h : Issuing 0x5C r e s p) (hu : Unfaulted s p) (hout : p.region = none) :
    Runs (.rgnExit r e) s fun t => FirstFault t p 0x21 := by
  have hbody : rgnExitIns e s.dev (pkey r) { p with stall := .none } = .fault cIllegal (p.parts e) 0 none :=
    if_pos (Option.isNone_iff_eq_none.2 hout)
  exact ⟨_, rfl, runIns_firstFault h hu hbody (parts_ne_zero_of_region (.inr rfl) h)⟩

/-- A group-wide instruction with participants, whose token is free and whose array has room, meets the missing region (02 R58). -/
theorem groupWide_outside {d : Dev} {pk : Nat} {q : Plait} (f : InsRes) (hparts : q.parts e ≠ 0) (htoken : q.pending (tokenOf e) = false)
    (hroom : (d.array (arrayOf pk e)).queue.length < 8) (hout : q.region = none) : groupWide e d pk q f = .fault cIllegal (q.parts e) 0 none := by
  have harray : d.fullArray (arrayOf pk e) = false := decide_eq_false (by omega)
  have hsome : (q.parts e == 0) = false := beq_eq_false_iff_ne.2 hparts
  simp only [groupWide, hsome, htoken, harray, hout, Bool.or_self, Bool.false_eq_true, if_false]

end

/-- Settles O54: each clause by the outcome of the instruction's operation. -/
theorem regionRules : Obligations.RegionRules := by
  intro r e s p
  refine ⟨fun h => ⟨rgnEnter_opens h, fun hu _ => rgnEnter_diverged h hu, fun hu _ => rgnEnter_inside h hu⟩,
    fun h => ⟨rgnExit_closes h, fun hu _ => rgnExit_outside h hu⟩, fun row hrow h hu hout hparts htoken hroom => ?_⟩
  have hfault (f : InsRes) : groupWide e s.dev (pkey r) { p with stall := .none } f = .fault cIllegal (p.parts e) 0 none :=
    groupWide_outside f hparts htoken hroom hout
  simp only [List.mem_cons, List.not_mem_nil, or_false] at hrow
  rcases hrow with rfl | rfl | rfl
  · exact ⟨_, rfl, runIns_firstFault (body := mxgIns e) h hu (hfault _) hparts⟩
  · exact ⟨_, rfl, runIns_firstFault (body := mxwIns e) h hu (hfault _) hparts⟩
  · exact ⟨_, rfl, runIns_firstFault (body := mxrIns e) h hu (hfault _) hparts⟩

end Sys2Proof.Proofs
end

section
/-! SUPPORT. The mask stack: what a divergent branch does with room for its entry, and with none (02 R53 to R57; 03 R127, R128). -/

namespace Sys2Proof.Proofs

open Sys2Proof Sys2Proof.Machine Sys2Proof.Safety Sys2Proof.Laws

section

variable {op : Nat} {r : PlaitRef} {e : Enc} {s : State} {p q : Plait} {body : Dev → Nat → Plait → InsRes}

/-! BRA and CALL. -/

/-- A branch that some active strands take and others do not, with a full mask stack. -/
theorem branch_full (d : Dev) (q : Plait) (hsplit : p.parts e ≠ p.active) (hsome : p.parts e ≠ 0) (hfull : 32 ≤ p.stack.length) :
    branch d e p q = .fault cIllegal (p.parts e) 0 none := by
  have hall : (p.parts e == p.active) = false := beq_eq_false_iff_ne.2 hsplit
  have hnone : (p.parts e == 0) = false := beq_eq_false_iff_ne.2 hsome
  simp only [branch, hall, hnone, Bool.false_eq_true, if_false, hfull, if_true]

/-- And with room on it: the entry holds the join point and the active mask, with the target as the part still to run. -/
theorem branch_push (d : Dev) (q : Plait) (hsplit : p.parts e ≠ p.active) (hsome : p.parts e ≠ 0) (hroom : p.stack.length < 32) :
    branch d e p q = .jump d { q with
      pc := p.pc + insLen e, active := p.active &&& ~~~(p.parts e),
      stack := ⟨branchTo p.pc (e.ext.extractLsb' 32 32), p.active, [(branchTo p.pc (e.ext.truncate 32), p.parts e)]⟩ :: p.stack } := by
  have hall : (p.parts e == p.active) = false := beq_eq_false_iff_ne.2 hsplit
  have hnone : (p.parts e == 0) = false := beq_eq_false_iff_ne.2 hsome
  simp only [branch, hall, hnone, Bool.false_eq_true, if_false, Nat.not_le.2 hroom]

/-- The entry pushed stays on the stack: some strand falls through, and its join point is not the fall-through. -/
theorem runIns_branch_push (h : Issuing op r e s p) (hbody : body s.dev (pkey r) { p with stall := .none } = branch s.dev e { p with stall := .none } q)
    (hsplit : p.parts e ≠ p.active) (hsome : p.parts e ≠ 0) (hjoin : p.pc + insLen e ≠ branchTo p.pc (e.ext.extractLsb' 32 32))
    (hrest : p.active &&& ~~~(p.parts e) ≠ 0) (hroom : p.stack.length < 32) :
    ∃ top, ((runIns op body r e s.dev).plaits.get? (pkey r)).map (fun p' => p'.stack) = some (top :: p.stack) := by
  have hpush := branch_push (p := { p with stall := .none }) s.dev q hsplit hsome hroom
  rw [runIns_jump_plait h (hbody.trans hpush), settle_stay hrest (by rintro top ⟨⟩; exact hjoin), Option.map_some, healed_stack]
  exact ⟨_, rfl⟩

theorem runIns_branch_full (h : Issuing op r e s p) (hbody : body s.dev (pkey r) { p with stall := .none } = branch s.dev e { p with stall := .none } q)
    (hsplit : p.parts e ≠ p.active) (hsome : p.parts e ≠ 0) (hfull : 32 ≤ p.stack.length) (hu : Unfaulted s p) :
    FirstFault { s with dev := runIns op body r e s.dev } p 0x21 :=
  runIns_firstFault h hu (hbody.trans (branch_full (p := { p with stall := .none }) s.dev q hsplit hsome hfull)) hsome

/-! BRX. -/

/-- The target that BRX takes an active strand to: its own where it participates, else the fall-through (03 R128). -/
def brxTarget (p : Plait) (e : Enc) (k : Nat) : W64 := if (p.parts e).getLsbD k then p.rd64 e.a.toNat k else p.pc + insLen e

/-- Strands that form one group have one target. -/
theorem target_of_byTarget_singleton {l : List (Nat × W64)} {t : W64} {g : W32} (h : byTarget l = [(t, g)]) : ∀ x ∈ l, x.2 = t := by
  intro x hx
  obtain ⟨t', ht', hpair⟩ := List.map_eq_singleton_iff.1 h
  cases hpair
  have hmem : x.2 ∈ (l.map (fun a => a.2)).eraseDups := List.mem_eraseDups.2 (List.mem_map_of_mem hx)
  rw [ht'] at hmem
  exact List.mem_singleton.1 hmem

theorem byTarget_ne_nil {l : List (Nat × W64)} {x : Nat × W64} (hx : x ∈ l) : byTarget l ≠ [] := by
  intro h
  have hnil : (l.map (fun a => a.2)).eraseDups = [] := List.map_eq_nil_iff.1 h
  have hmem : x.2 ∈ (l.map (fun a => a.2)).eraseDups := List.mem_eraseDups.2 (List.mem_map_of_mem hx)
  simp [hnil] at hmem

/-- A BRX whose active strands have more than one target, with a full mask stack. -/
theorem brxIns_full (d : Dev) (pk : Nat) {j k : Nat} (hj : j ∈ lanes p.active) (hk : k ∈ lanes p.active) (hne : brxTarget p e j ≠ brxTarget p e k)
    (hfull : 32 ≤ p.stack.length) : brxIns e d pk p = .fault cIllegal (p.parts e) 0 none := by
  have hmem {i : Nat} (hi : i ∈ lanes p.active) : (i, brxTarget p e i) ∈ (lanes p.active).map (fun k => (k, brxTarget p e k)) := List.mem_map_of_mem hi
  unfold brxIns
  dsimp only
  split
  · next hnil => exact absurd hnil (byTarget_ne_nil (hmem hj))
  · next t g rest hcons =>
    have hrest : rest ≠ [] := by
      rintro rfl
      have hone := target_of_byTarget_singleton hcons
      exact hne ((hone _ (hmem hj)).trans (hone _ (hmem hk)).symm)
    exact if_pos (by simp [hrest, hfull])

/-- Without participants every strand falls through, so a BRX that diverges has some. -/
theorem parts_ne_zero_of_brxTarget_ne {j k : Nat} (hne : brxTarget p e j ≠ brxTarget p e k) : p.parts e ≠ 0 := by
  intro hnone
  simp [brxTarget, hnone] at hne

end

/-- Settles O55: BRA and CALL are both a branch of the plait as it stands, and BRX tests the stack before it pushes. -/
theorem maskStackHolds32 : Obligations.MaskStackHolds32 := by
  intro r e s p
  refine ⟨fun row hrow h hsplit hsome hjoin hrest => ?_, fun h hdiv hfull hu => ?_⟩
  · simp only [List.mem_cons, List.not_mem_nil, or_false] at hrow
    rcases hrow with rfl | rfl
    · exact ⟨fun hroom => ⟨_, rfl, runIns_branch_push (body := braIns e) h rfl hsplit hsome hjoin hrest hroom⟩,
        fun hfull hu => ⟨_, rfl, runIns_branch_full (body := braIns e) h rfl hsplit hsome hfull hu⟩⟩
    · exact ⟨fun hroom => ⟨_, rfl, runIns_branch_push (body := callIns e) h rfl hsplit hsome hjoin hrest hroom⟩,
        fun hfull hu => ⟨_, rfl, runIns_branch_full (body := callIns e) h rfl hsplit hsome hfull hu⟩⟩
  · obtain ⟨j, hj, k, hk, hne⟩ := hdiv
    exact ⟨_, rfl, runIns_firstFault h hu (brxIns_full (p := { p with stall := .none }) s.dev (pkey r) hj hk hne hfull)
      (parts_ne_zero_of_brxTarget_ne hne)⟩

end Sys2Proof.Proofs
end
